-- ==== Sys2Proof/Word.lean ====
section
/-!
DEFINITION. The word types of the part and nothing else: bytes, audio samples, film frames, ticks, pages, values.
-/

namespace Sys2Proof

/-- One byte of a message or of a ring frame (spec 10.1, 11.2). -/
abbrev Byte := BitVec 8

/-- One 24-bit signed sample of the strip input stream or the stem output stream (R65, R95). -/
abbrev Sample := BitVec 24

/-- One 32-bit signed lane slot (R29, 11.2). -/
abbrev Lane := BitVec 32

/-- A film frame number, 0 to 16,777,215, wrapping (R7). -/
abbrev FrameNo := BitVec 24

/-- A tick index, frame × 4 + quarter, 0 to 67,108,863 (R4). -/
abbrev Tick := BitVec 26

/-- A page number, tick index div 64, 0 to 1,048,575 (R4). -/
abbrev Page := BitVec 20

/-- A control's value: 0 to 1023, or 0 and 1 for the mutes (section 7.1). -/
abbrev Value := BitVec 10

/-- A set of station numbers 0 to 23: bit s is set for station s (11.7, present set). -/
abbrev StationSet := BitVec 24

/-- Four zone solo bits, bit z for zone z (R76, 11.2). -/
abbrev SoloBits := BitVec 4

/-- The 22 event flags, numbered as section 11.7 numbers them (R176). -/
abbrev FlagSet := BitVec 22

end Sys2Proof
end

