-- ==== Sys2Proof/Config.lean ====
section
/-!
DEFINITION. What an implementation of the part fixes and the spec does not: free values, none with a body.
A statement that mentions one holds whatever it is.
-/

namespace Sys2Proof.Config

/-- Free value (log 8): whether the station places a notice into the n-th cell it meets whose kind field holds 8 to 15
or whose mark field holds 7; R183 lets it place one or leave the cell empty. -/
opaque placesIntoUnreadable : Nat → Bool

/-- Free value (log 9): the n-th bit that LDO carries after the last bit of a held reply; R170 states none. -/
opaque ldoAfterReply : Nat → Bool

/-- Free value (log 12): what the requester makes of a returning CLAIM whose mark field holds a code that no home writes
for a CLAIM (R43, R107): 0 as GRANTED, 1 as REFUSED, 2 as NONE. -/
opaque claimMarkReading : BitVec 3 → Fin 3

/-- Free value (log 12): whether a returning DRIVE whose mark field holds a code that no home writes for a DRIVE ends
the drive as IGNORED does (R43, R109). -/
opaque driveMarkEnds : BitVec 3 → Bool

/-- Free value (log 26): the two bytes that the n-th STATUS taken while UNCONFIGURED gives for the spf of the current
frame, which no frame rate defines then (R15, R17, 11.7). -/
opaque spfUnconfigured : Nat → BitVec 16

end Sys2Proof.Config
end

