-- ==== Sys2Proof/Syntax.lean ====
section
/-!
DEFINITION. The commands of the part: one constructor per row of spec/opcode_table.json, with its operands, and the
operand types. A Bay Link command's operands are the fields of its payload as they stand in the message (11.3).
-/

namespace Sys2Proof

/-- A ring frame as its 549 bytes carry it (11.2): header bytes, four 64-bit cells, 128 lane slots, frame check. -/
structure WireFrame where
  emitter : Byte
  tag     : Byte
  origin  : Byte
  cells   : Vector (BitVec 64) 4
  lanes   : Vector Lane 128
  check   : BitVec 16
  deriving DecidableEq, Repr

/-- A frame word: the frame number and its valid bit (R1). -/
structure FrameWord where
  number : FrameNo
  valid  : Bool
  deriving DecidableEq, Repr

/-- The order in which POS, RING and TOUCH take one sample event; the manual leaves it open (log 2). -/
inductive BlockOrder where
  | posRingTouch | posTouchRing | ringPosTouch | ringTouchPos | touchPosRing | touchRingPos
  deriving DecidableEq, Repr

/-- Everything that reaches the part in one period of the word clock. -/
structure Period where
  /-- The strip input stream: slot s for strip s (R65). -/
  samples : Vector Sample 32
  /-- The levels of the touch lines: bit f for line f (R82). -/
  levels  : BitVec 32
  /-- The frame edge, if the sample event carries one (R1). -/
  edge    : Option FrameWord
  /-- The frame that reached the receiver during the period just ended, if any (R20). -/
  rx      : Option WireFrame
  order   : BlockOrder
  /-- The emitter check is made before the cells are worked (log 3). -/
  checkFirst : Bool
  deriving DecidableEq, Repr

/-- The slots of the pending notice list and of the in-flight table (R49). -/
inductive Slot where
  | claim (b : Fin 24) | drive (b : Fin 24) | echo (b : Fin 24) | holdings | solo | roster
  deriving DecidableEq, Repr

/-- The factors that ramp: six for each strip, two for each bus (sections 4.1, 6.1). -/
inductive FactorName where
  | level (s : Fin 32) | mute (s : Fin 32) | send1 (s : Fin 32) | send2 (s : Fin 32)
  | gate1 (s : Fin 32) | gate2 (s : Fin 32)
  | master (b : Fin 24) | masterMute (b : Fin 24)
  deriving DecidableEq, Repr

/-- The commands and events of spec/opcode_table.json, in its order. `tail` is the number of bits a transfer clocks after the
check of its message (none where it is not given), `clocked` the number of bits a transfer without a message clocks, and
`ldi` the bits clocked in, the first one first (R169). -/
inductive Instr where
  | configure (payload : List Byte) (tail : Nat := 0)
  | join (tail : Nat := 0)
  | leave (tail : Nat := 0)
  | route (strip form bus offset bus1 offset1 bus2 offset2 : Byte) (tail : Nat := 0)
  | solo (strip flags : Byte) (tail : Nat := 0)
  | touchset (line flags interval : Byte) (tail : Nat := 0)
  | map (fader form target : Byte) (tail : Nat := 0)
  | surface (form target : Byte) (value : BitVec 16) (indication : Byte) (tail : Nat := 0)
  | drives (tail : Nat := 0)
  | control (id mode safe glide : Byte) (tail : Nat := 0)
  | window (form : Byte) (inTick outTick : BitVec 32) (tail : Nat := 0)
  | abortNow (tail : Nat := 0)
  | abortAtPageEnd (tail : Nat := 0)
  | span (form : Byte) (first last : BitVec 24) (tail : Nat := 0)
  | deliver (payload : List Byte) (tail : Nat := 0)
  | take (tail : Nat := 0)
  | passes (tail : Nat := 0)
  | status (tail : Nat := 0)
  | mask (set : BitVec 24) (tail : Nat := 0)
  | restart (tail : Nat := 0)
  | format (ldi : List Bool)
  | poll (clocked : Nat)
  | replyFormed
  | replyRead (clocked : Nat)
  | linkOverrun (ldi : List Bool)
  | hardwareReset
  | resetRise (strap : BitVec 5) (rate96 : Bool)
  | sampleEvent (p : Period)
  | clockLost
  | clockReturn
  | frameEdge (number : FrameNo) (p : Period)
  | flywheel
  | tick (edge : Option FrameNo)
  | abortFired (edge : Option FrameNo)
  | glideEnd (c : Fin 176) (edge : Option FrameNo)
  | rampEnd (r : FactorName)
  | touchQualified (f : Fin 32)
  | releaseQualified (f : Fin 32)
  | frameArrival (f : WireFrame) (p : Period)
  | badFrame (f : WireFrame) (p : Period)
  | silentSample (p : Period)
  | ringBreak
  | tagAdoption (f : WireFrame) (checkFirst : Bool)
  | relock (f : WireFrame)
  | relockComplete (f : WireFrame) (checkFirst : Bool)
  | settleEnd
  | settleRiseEnd
  | tapFrame (f : WireFrame) (p : Period)
  | lockPhaseEnd (f : WireFrame)
  | listenPhaseEnd (rx : Option WireFrame)
  | firstIn
  | noticeDeadline (slot : Slot)
  | holdingsTimer
  | holdingsExpiry (x : Fin 24)
  | leaseExpiry (b : Fin 24)
  | keepalive (b : Fin 24)
  deriving DecidableEq, Repr

end Sys2Proof
end

