-- ==== Sys2Proof/Machine/State.lean ====
section
/-!
DEFINITION. The state of the part as plain data, block by block, its faults and refusals, and its reset values.
-/

namespace Sys2Proof.Machine

/-! ## Position (chapter 1) -/

/-- The frame rate CONFIGURE gives (R24). -/
inductive FrameRate where
  | fps24 | fps25 | fps23976 | fps2997
  deriving DecidableEq, Repr

/-- The transport states of POS (section 1.5). -/
inductive Transport where
  | unlocked | chasing | parked | rolling | reverse
  deriving DecidableEq, Repr

/-- The locked motions; also the step classes 0, +1 and −1 of R7 to R10 (PARKED, ROLLING, REVERSE). -/
inductive Motion where
  | parked | rolling | reverse
  deriving DecidableEq, Repr

/-- The events POS hands to its neighbours (R14). -/
inductive PosEvent where
  | refLost | clockLost | jump | roll | stop | reverse | framing
  deriving DecidableEq, Repr

/-- The position counter's state (section 1.4). The cadence phase is `frame` modulo 5 (R3), a view. `cold` says that no tick
has been produced since UNLOCKED was last left, which R5 asks of a page crossing (log 28). -/
structure Pos where
  state      : Transport
  frame      : FrameNo
  offset     : Nat
  chaseFrame : Option FrameNo
  run        : Option Motion
  before     : Option Motion
  fly        : Nat
  tick       : Option Tick
  cold       : Bool
  deriving DecidableEq, Repr

/-- R17. -/
def Pos.reset : Pos :=
  { state := .unlocked, frame := 0, offset := 0, chaseFrame := none, run := none, before := none, fly := 0,
    tick := none, cold := true }

/-! ## Configuration (R24) -/

inductive BusKind where
  | premix | stem
  deriving DecidableEq, Repr

/-- One bus of the lane plan (section 2.4). -/
structure Bus where
  kind  : BusKind
  first : Nat
  width : Nat
  home  : Nat
  zone  : Fin 4
  deriving DecidableEq, Repr

/-- What a taken CONFIGURE stores (R24, R25). -/
structure Conf where
  rate   : FrameRate
  plan   : List Bus
  digest : BitVec 16
  deriving DecidableEq, Repr

/-! ## The ring (chapter 2) -/

inductive RingState where
  | detached | locking | inserted | relocking | conflict
  deriving DecidableEq, Repr

/-- What LOCKING keeps of a JOIN in progress (R36 to R38, R41). -/
structure Join where
  good       : Nat
  time       : Nat
  heardAny   : Bool
  listening  : Bool
  listenTime : Nat
  heard      : StationSet
  upstream   : Option Nat
  deriving DecidableEq, Repr

/-- R41. -/
def Join.reset : Join :=
  { good := 0, time := 0, heardAny := false, listening := false, listenTime := 0, heard := 0, upstream := none }

/-- RING's state. "Upstream silent" is `breakHead` (R34); P and the distances are views of `present` (R26). -/
structure Ring where
  state     : RingState
  tag       : BitVec 8
  origin    : Nat
  /-- The consistency run (R21). -/
  run       : Nat
  /-- Tag and tag-origin byte of the previous arrival (R21). -/
  prev      : Option (BitVec 8 × BitVec 8)
  badRun    : Nat
  goodRun   : Nat
  silent    : Nat
  breakHead : Bool
  badCount  : BitVec 16
  settle    : Nat
  present   : StationSet
  join      : Join
  deriving DecidableEq, Repr

/-- R41, with the station's own number as tag origin. -/
def Ring.reset (self : Nat) : Ring :=
  { state := .detached, tag := 0, origin := self, run := 0, prev := none, badRun := 0, goodRun := 0, silent := 0,
    breakHead := false, badCount := 0, settle := 0, present := 0, join := Join.reset }

/-! ## Notices (chapter 3) -/

inductive NoticeKind where
  | claim | release | drive | echo | solo | holdings | roster
  deriving DecidableEq, Repr

/-- A waiting entry of the pending list (R49). The payload of a HOLDINGS is filled at placement (R56). -/
structure Waiting where
  slot    : Slot
  kind    : NoticeKind
  payload : BitVec 32
  deriving DecidableEq, Repr

/-- An entry of the in-flight table (R53); its bus is that of its slot. -/
structure Flight where
  slot    : Slot
  kind    : NoticeKind
  payload : BitVec 32
  placed  : Nat
  deriving DecidableEq, Repr

/-- NOTE's state: the pending list is oldest first (R50). -/
structure Note where
  pending : List Waiting
  flight  : List Flight
  timer   : Nat
  ages    : Vector (Option Nat) 24
  deriving DecidableEq, Repr

/-- R62. -/
def Note.reset : Note :=
  { pending := [], flight := [], timer := 0, ages := Vector.replicate 24 none }

/-! ## Factors (R71, R74) -/

/-- An exact factor: the sum of c × α^e over the terms (e, c), divided by `den`, where α = 10^(1/160), e < 160 ascending,
c above 0, and no divisor common to `den` and every c (log 21). -/
structure Gain where
  den   : Nat
  terms : List (Nat × Nat)
  deriving DecidableEq, Repr

def Gain.zero : Gain := { den := 1, terms := [] }
def Gain.one : Gain := { den := 1, terms := [(0, 1)] }

/-- How a factor stands: holding its target; with a change taken whose length is fixed at the sample event that forms its
first step (log 6); with a change whose length L is fixed and whose first step is not yet formed (R73, log 6); or ramping,
the k-th of L steps done (R74). -/
inductive Ramp where
  | held
  | armed
  | timed (L : Nat)
  | running (start : Gain) (k L : Nat)
  deriving DecidableEq, Repr

structure Factor where
  value  : Gain
  target : Gain
  ramp   : Ramp
  deriving DecidableEq, Repr

/-- A factor set at once, no ramp running (R81, R112). -/
def Factor.fixed (g : Gain) : Factor := { value := g, target := g, ramp := .held }

/-! ## Strips (chapter 4) -/

inductive Source where
  | none
  | input
  | ret (b : Fin 24) (offset : Nat)
  deriving DecidableEq, Repr

/-- Where a send goes: a lane offset of a bus (R68). -/
structure Dest where
  bus    : Fin 24
  offset : Nat
  deriving DecidableEq, Repr

structure Strip where
  source : Source
  send1  : Option Dest
  send2  : Option Dest
  solo   : Bool
  safe   : Bool
  level  : Factor
  mute   : Factor
  fsend1 : Factor
  fsend2 : Factor
  gate1  : Factor
  gate2  : Factor
  /-- Contribution history of send 1, newest first, 48 entries (R30). -/
  hist1  : List Lane
  hist2  : List Lane
  deriving DecidableEq, Repr

/-- R81. -/
def Strip.reset : Strip :=
  { source := .none, send1 := none, send2 := none, solo := false, safe := false,
    level := Factor.fixed Gain.zero, mute := Factor.fixed Gain.one,
    fsend1 := Factor.fixed Gain.zero, fsend2 := Factor.fixed Gain.zero,
    gate1 := Factor.fixed Gain.one, gate2 := Factor.fixed Gain.one,
    hist1 := List.replicate 48 0, hist2 := List.replicate 48 0 }

structure StripBlock where
  strips  : Vector Strip 32
  ownBits : SoloBits
  /-- The zone solo table: for each zone the stations holding a solo in it (R77). -/
  zones   : Vector StationSet 4
  deriving DecidableEq, Repr

/-- R81. -/
def StripBlock.reset : StripBlock :=
  { strips := Vector.replicate 32 Strip.reset, ownBits := 0, zones := Vector.replicate 4 0 }

/-! ## Homes and requesters (chapter 6) -/

/-- What HOME keeps for a bus homed at the station (section 6.1). -/
structure Home where
  master : Factor
  mute   : Factor
  driver : Option Nat
  lease  : Nat
  level  : Value
  muted  : Bool
  deriving DecidableEq, Repr

/-- R112. -/
def Home.reset : Home :=
  { master := Factor.fixed Gain.one, mute := Factor.fixed Gain.one, driver := none, lease := 0, level := 927,
    muted := false }

inductive ClaimState where
  | none | claiming | cancelling | driving | releasing
  deriving DecidableEq, Repr

/-- What the requester keeps for a bus homed elsewhere (section 6.4). -/
structure Requester where
  claim     : ClaimState
  deferred  : Bool
  reclaim   : Bool
  level     : Value
  muted     : Bool
  keepalive : Nat
  echo      : Option (Value × Bool)
  deriving DecidableEq, Repr

/-- R112. -/
def Requester.reset : Requester :=
  { claim := .none, deferred := false, reclaim := false, level := 927, muted := false, keepalive := 0, echo := none }

/-- HOME's state. A home entry counts only for a bus of the plan homed here, a requester only for any other bus of the
plan. `rise` is absent while the settle factor is 1, else its numerator n in n / 500 or n / 1000 (R97). -/
structure HomeBlock where
  homes : Vector Home 24
  reqs  : Vector Requester 24
  rise  : Option Nat
  deriving DecidableEq, Repr

/-- R112. -/
def HomeBlock.reset : HomeBlock :=
  { homes := Vector.replicate 24 Home.reset, reqs := Vector.replicate 24 Requester.reset, rise := none }

/-! ## Touch lines and the surface (chapter 5) -/

inductive LineState where
  | untouched | qualifyTouch | touched | qualifyRelease
  deriving DecidableEq, Repr

/-- One touch line (section 5.1). `interval` is the code 0 to 4 for 0, 1, 2, 4 and 8 ms (11.3). -/
structure Line where
  enable      : Bool
  activeLow   : Bool
  interval    : Fin 5
  state       : LineState
  count       : Nat
  touchLatch  : Bool
  releaseLatch : Bool
  lastTouch   : Option Tick
  lastRelease : Option Tick
  deriving DecidableEq, Repr

/-- R93. -/
def Line.reset : Line :=
  { enable := false, activeLow := false, interval := 2, state := .untouched, count := 0, touchLatch := false,
    releaseLatch := false, lastTouch := none, lastRelease := none }

/-- What a fader is mapped to (R84). -/
inductive FaderTarget where
  | none
  | strip (s : Fin 32)
  | bus (b : Fin 24)
  deriving DecidableEq, Repr

/-- A touch target's own state: its held count and surface-touched flag (R84). -/
structure TargetState where
  held     : Nat
  surfaced : Bool
  deriving DecidableEq, Repr

structure Touch where
  lines    : Vector Line 32
  map      : Vector FaderTarget 32
  /-- The 128 strip controls as touch targets. -/
  controls : Vector TargetState 128
  /-- The buses as touch targets. -/
  buses    : Vector TargetState 24
  /-- The drive list: the drive value of each fader in it (R91). -/
  drives   : Vector (Option Value) 32
  deriving DecidableEq, Repr

/-- R93. -/
def Touch.reset : Touch :=
  { lines := Vector.replicate 32 Line.reset,
    map := Vector.ofFn FaderTarget.strip,
    controls := Vector.replicate 128 { held := 0, surfaced := false },
    buses := Vector.replicate 24 { held := 0, surfaced := false },
    drives := Vector.replicate 32 none }

/-! ## Automation (chapter 7) -/

inductive Mode where
  | off | read | touch | latch | write
  deriving DecidableEq, Repr

inductive PassState where
  | idle | primed | writing | gliding | holding
  deriving DecidableEq, Repr

/-- An open pass (section 7.1). -/
structure OpenPass where
  serial     : BitVec 16
  mode       : Mode
  punchIn    : Tick
  latest     : Tick
  glideStart : Option Tick
  damaged    : Bool
  driverLost : Bool
  deriving DecidableEq, Repr

/-- A control's last move. `current` says that it was handed over since the current tick was produced, which R124 step 5
asks of a move left at the current tick (log 27). -/
structure LastMove where
  tick    : Tick
  value   : Value
  current : Bool
  deriving DecidableEq, Repr

/-- A glide record: start value, glide length, glide ticks taken (R121). -/
structure Glide where
  start  : Value
  length : Nat
  taken  : Nat
  deriving DecidableEq, Repr

/-- One record of the control table (section 7.1). -/
structure Control where
  mode        : Mode
  safe        : Bool
  glideLength : BitVec 6
  touched     : Bool
  surface     : Value
  playback    : Value
  applied     : Value
  pass        : PassState
  openPass    : Option OpenPass
  lastMove    : Option LastMove
  glide       : Option Glide
  deriving DecidableEq, Repr

/-- R139, for a control whose reset value is `v`. -/
def Control.reset (v : Value) : Control :=
  { mode := .off, safe := false, glideLength := 0, touched := false, surface := v, playback := v, applied := v,
    pass := .idle, openPass := none, lastMove := none, glide := none }

structure Auto where
  controls     : Vector Control 176
  window       : Option (Tick × Tick)
  pendingAbort : Bool
  nextSerial   : BitVec 16
  openCount    : Nat
  deriving DecidableEq, Repr

/-- R139: MASTER controls (even ids from 128) start at 927, every other control at 0. -/
def Auto.reset : Auto :=
  { controls := Vector.ofFn fun c : Fin 176 =>
      Control.reset (if 128 ≤ c.val ∧ c.val % 2 = 0 then 927 else 0),
    window := none, pendingAbort := false, nextSerial := 0, openCount := 0 }

/-! ## Pages (chapters 8 and 9) -/

/-- A move of a play page or of a take page (R141, R157). -/
structure Move where
  offset  : BitVec 6
  control : Fin 176
  value   : Value
  deriving DecidableEq, Repr

/-- A play page that passed every check (R141). -/
structure PlayPage where
  number  : Page
  entries : List (Fin 176 × Value)
  moves   : List Move
  deriving DecidableEq, Repr

inductive PlaySlot where
  | free
  | wanted (page : Page)
  | ready (page : PlayPage)
  | missing (page : Page)
  deriving DecidableEq, Repr

structure Wanted where
  page   : Page
  strays : Nat
  deriving DecidableEq, Repr

structure Play where
  slots   : Vector PlaySlot 4
  wanted  : Option Wanted
  span    : Option (Page × Page)
  entered : Option Page
  deriving DecidableEq, Repr

/-- R156. -/
def Play.reset : Play :=
  { slots := Vector.replicate 4 .free, wanted := none, span := none, entered := none }

structure TakePage where
  page      : Page
  moves     : List Move
  truncated : Bool
  deriving DecidableEq, Repr

inductive TakeSlot where
  | free
  | opened (p : TakePage)
  | closed (p : TakePage)
  deriving DecidableEq, Repr

inductive CloseReason where
  | release | stop | jump | reverse | ref | window | abort | left | mode
  deriving DecidableEq, Repr

/-- A pass record (R165). -/
structure PassRecord where
  serial     : BitVec 16
  control    : Fin 176
  mode       : Mode
  punchIn    : Tick
  punchOut   : Tick
  reason     : CloseReason
  damaged    : Bool
  driverLost : Bool
  glideStart : Option Tick
  deriving DecidableEq, Repr

structure Take where
  slots    : Vector TakeSlot 4
  order    : List (Fin 4)
  lost     : Option Page
  queue    : List PassRecord
  reserved : Nat
  deriving DecidableEq, Repr

/-- R168. -/
def Take.reset : Take :=
  { slots := Vector.replicate 4 .free, order := [], lost := none, queue := [], reserved := 0 }

/-! ## Flags and completion records (R174, R176) -/

inductive JoinResult where
  | joined | firstIn | planMismatch | duplicate | abandoned
  deriving DecidableEq, Repr

inductive AbortResult where
  | fired (closed : Nat)
  | superseded
  deriving DecidableEq, Repr

/-- What the blocks leave at LINK for the next STATUS. -/
structure Events where
  flags : FlagSet
  join  : Option JoinResult
  abort : Option AbortResult
  deriving DecidableEq, Repr

/-- R179, R180. -/
def Events.reset : Events := { flags := 0, join := none, abort := none }

/-! ## The Bay Link (chapter 10) -/

inductive Reason where
  | format | state | busy | range | plan | loop | notHome | strap
  deriving DecidableEq, Repr

/-- A reply, with the kind byte of the command it answers and, for DONE, the data bytes after it (11.3). -/
inductive Reply where
  | done (kind : Byte) (data : List Byte)
  | accepted (kind : Byte)
  | refused (kind : Byte) (reason : Reason)
  deriving DecidableEq, Repr

inductive LinkState where
  | ready
  | working (r : Reply)
  | held (r : Reply)
  deriving DecidableEq, Repr

structure Link where
  state    : LinkState
  mask     : FlagSet
  overruns : BitVec 16
  formats  : BitVec 16
  deriving DecidableEq, Repr

/-- R180. -/
def Link.reset : Link := { state := .ready, mask := 0, overruns := 0, formats := 0 }

/-! ## The whole part -/

/-- The six blocks that hand one another events within one step, and the flags and completion records they raise. -/
structure Desk where
  note  : Note
  strip : StripBlock
  home  : HomeBlock
  touch : Touch
  auto  : Auto
  take  : Take
  ev    : Events
  deriving DecidableEq, Repr

def Desk.reset : Desk :=
  { note := Note.reset, strip := StripBlock.reset, home := HomeBlock.reset, touch := Touch.reset, auto := Auto.reset,
    take := Take.reset, ev := Events.reset }

/-- The state of the part (INVENTORY.md lists every piece with its rule). -/
structure State where
  /-- The RESET line is held low (R180). -/
  resetLow : Bool
  /-- The word clock is present (R2). -/
  clock    : Bool
  /-- The station straps and the sample-rate strap as read when the last hardware reset ended (R18). -/
  strap    : BitVec 5
  rate96   : Bool
  /-- Absent while the part is UNCONFIGURED (R24). -/
  conf     : Option Conf
  pos      : Pos
  ring     : Ring
  play     : Play
  desk     : Desk
  link     : Link
  /-- The station's sample event count, against which placement instants are recorded (R51, R53). -/
  instant  : Nat
  /-- The stem output stream, a slot for each lane (R95). -/
  stem     : Vector Sample 128
  /-- The frame emitted at the latest sample event (R20). -/
  emitted  : Option WireFrame
  /-- The bits presented on LDO during the latest transfer, the first one first (R169, R170). -/
  ldo      : List Bool
  /-- The MODEL's own counter, from which free values are taken (log 8, log 9). -/
  free     : Nat
  /-- The commands waiting, first in, first out. -/
  pending  : List Instr
  deriving DecidableEq, Repr

/-- The part stops nowhere by the spec: a command is refused in its reply (R172), an error raises an event flag (R176).
No meaning raises a fault, so the type has no constructor. -/
inductive Fault where
  deriving DecidableEq, Repr

/-- Why the model gives no meaning. -/
inductive Refusal where
  /-- Raised by Dispatch alone, for a row whose meaning is not written yet; safe. -/
  | notModelled (mnemonic : String)
  deriving DecidableEq, Repr

/-- Every block at its hardware-reset values with the given straps read, RESET high again (R180, R18). -/
def State.cold (strap : BitVec 5) (rate96 : Bool) : State :=
  { resetLow := false, clock := true, strap := strap, rate96 := rate96, conf := none, pos := Pos.reset,
    ring := Ring.reset strap.toNat, play := Play.reset, desk := Desk.reset, link := Link.reset, instant := 0,
    stem := Vector.replicate 128 0, emitted := none, ldo := [], free := 0, pending := [] }

/-- The machine right after reset: a hardware reset has ended with the straps at station 0 and 48 kHz (log 4). -/
def State.reset : State := State.cold 0 false

end Sys2Proof.Machine
end

