-- ==== Sys2Proof/Machine/Flags.lean ====
section
/-!
DEFINITION. Event flags, the attention causes and the lines LRDY and LATN (R176 to R178, R170), completion records (R174).
-/

namespace Sys2Proof.Machine

/-- The event flags, in the order of R176, which is the order of their numbers (11.7). -/
inductive Flag where
  | refLost | clockLost | jump | roll | stop | reverse | framing | ringBreak | relock | rosterChange | badFrame
  | planMismatch | claimRefused | claimUnanswered | driveLost | pageLate | pageMissing | pageRejected | takeOverrun
  | takeTruncated | passFull | linkOverrun
  deriving DecidableEq, Repr

/-- The flag's number f (11.7). -/
def Flag.number : Flag → Nat
  | .refLost => 0 | .clockLost => 1 | .jump => 2 | .roll => 3 | .stop => 4 | .reverse => 5 | .framing => 6
  | .ringBreak => 7 | .relock => 8 | .rosterChange => 9 | .badFrame => 10 | .planMismatch => 11
  | .claimRefused => 12 | .claimUnanswered => 13 | .driveLost => 14 | .pageLate => 15 | .pageMissing => 16
  | .pageRejected => 17 | .takeOverrun => 18 | .takeTruncated => 19 | .passFull => 20 | .linkOverrun => 21

/-- R176: a flag already set stays set. -/
def Events.raise (f : Flag) (e : Events) : Events :=
  { e with flags := e.flags ||| BitVec.twoPow 22 f.number }

def Desk.raise (f : Flag) (d : Desk) : Desk := { d with ev := d.ev.raise f }

/-- The flag is set. -/
def Desk.flag (f : Flag) (d : Desk) : Bool := d.ev.flags.getLsbD f.number

def Desk.completeJoin (r : JoinResult) (d : Desk) : Desk := { d with ev := { d.ev with join := some r } }

def Desk.completeAbort (r : AbortResult) (d : Desk) : Desk := { d with ev := { d.ev with abort := some r } }

/-- R11, R14: the flag each of POS's events sets. -/
def PosEvent.flag : PosEvent → Flag
  | .refLost => .refLost | .clockLost => .clockLost | .jump => .jump | .roll => .roll | .stop => .stop
  | .reverse => .reverse | .framing => .framing

/-- A take slot is CLOSED (R178). -/
def Take.anyClosed (t : Take) : Bool :=
  t.slots.toList.any fun x => match x with
    | .closed _ => true
    | _ => false

/-- The drive list is not empty (R91, R178). -/
def Touch.anyDrive (t : Touch) : Bool := t.drives.toList.any (·.isSome)

/-- R178: the six attention causes, bit i for row i of the table (11.7, byte 96). -/
def State.causes (s : State) : List Bool :=
  [ (s.desk.ev.flags &&& ~~~ s.link.mask) != 0,
    s.desk.ev.join.isSome || s.desk.ev.abort.isSome,
    s.desk.take.anyClosed,
    !s.desk.take.queue.isEmpty,
    s.play.wanted.isSome,
    s.desk.touch.anyDrive ]

/-- R178, R180: LATN is high while any cause holds, and low during a hardware reset. -/
def State.latn (s : State) : Bool := !s.resetLow && s.causes.any id

/-- R170, R180: LRDY is high in READY and low during a hardware reset. -/
def State.lrdy (s : State) : Bool := !s.resetLow && s.link.state == .ready

/-- R171, R172: a count that stops at 65,535. -/
def countUp (c : BitVec 16) : BitVec 16 := if c = 0xFFFF then c else c + 1

end Sys2Proof.Machine
end

