-- ==== Sys2Proof/Machine/Layout.lean ====
section
/-!
DEFINITION. Bits and bytes: the check word (R182), the ring frame and its cells (11.2), the messages of the Bay Link
(11.3), the play page (11.5), the take page and pass record (11.6). Every field of several bytes is sent most significant
byte first.
-/

namespace Sys2Proof.Machine

/-- The bytes of an n-byte field holding v, most significant first. -/
def bytesOf (n : Nat) (v : Nat) : List Byte :=
  match n with
  | 0 => []
  | n + 1 => BitVec.ofNat 8 (v / 256 ^ n) :: bytesOf n v

/-- The number that a field's bytes hold, most significant first. -/
def numberOf (bs : List Byte) : Nat := bs.foldl (fun a b => a * 256 + b.toNat) 0

/-- The bits of a byte as a transfer carries them, most significant first (R169). -/
def bitsOfByte (b : Byte) : List Bool := (List.finRange 8).map fun i => b.getMsbD i.val

/-- The bits of a run of bytes. -/
def bitsOf (bs : List Byte) : List Bool := bs.flatMap bitsOfByte

/-- Eight bits as a byte, most significant first. -/
def byteOfBits (a b c d e f g h : Bool) : Byte :=
  BitVec.ofBool a ++ BitVec.ofBool b ++ BitVec.ofBool c ++ BitVec.ofBool d ++ BitVec.ofBool e ++ BitVec.ofBool f ++
    BitVec.ofBool g ++ BitVec.ofBool h

/-- R169: bits are gathered into bytes from the start of the transfer; a last byte that is not complete is none. -/
def bytesIn : List Bool → List Byte
  | a :: b :: c :: d :: e :: f :: g :: h :: rest => byteOfBits a b c d e f g h :: bytesIn rest
  | _ => []

/-! ## The check word (R182) -/

/-- One bit through the polynomial 1021h. -/
def crcBit (crc : BitVec 16) : BitVec 16 := if crc.msb then (crc <<< 1) ^^^ 0x1021 else crc <<< 1

/-- One byte, most significant bit first. -/
def crcByte (crc : BitVec 16) (b : Byte) : BitVec 16 :=
  Nat.repeat crcBit 8 (crc ^^^ (b.setWidth 16 <<< 8))

/-- R182: preset FFFFh, no reflection, no final inversion. -/
def crc16 (bs : List Byte) : BitVec 16 := bs.foldl crcByte 0xFFFF

/-! ## The ring frame (11.2) -/

/-- Bytes 0 to 546 of a ring frame: header, cells, lane slots. -/
def frameBytes (emitter tag origin : Byte) (cells : Vector (BitVec 64) 4) (lanes : Vector Lane 128) : List Byte :=
  [emitter, tag, origin] ++ cells.toList.flatMap (fun c => bytesOf 8 c.toNat) ++
    lanes.toList.flatMap (fun l => bytesOf 4 l.toNat)


/-- The check the frame should carry (R182). -/
def frameCheck (f : WireFrame) : BitVec 16 := crc16 (frameBytes f.emitter f.tag f.origin f.cells f.lanes)

/-- The frame's check is right (R21). -/
def checkRight (f : WireFrame) : Bool := frameCheck f == f.check

/-- Its emitter and tag-origin bytes name stations (R183). -/
def headerRight (f : WireFrame) : Bool := f.emitter.toNat ≤ 23 && f.origin.toNat ≤ 23

/-- A frame as this station emits it (R20). -/
def buildFrame (emitter : Nat) (tag : BitVec 8) (origin : Nat) (cells : Vector (BitVec 64) 4)
    (lanes : Vector Lane 128) : WireFrame :=
  let e := BitVec.ofNat 8 emitter
  let o := BitVec.ofNat 8 origin
  { emitter := e, tag := tag, origin := o, cells := cells, lanes := lanes,
    check := crc16 (frameBytes e tag o cells lanes) }

/-- The marks a cell may carry (R42, 11.2). -/
inductive Mark where
  | none | granted | refused | accepted | ignored | taken | stale
  deriving DecidableEq, Repr

def Mark.code : Mark → BitVec 3
  | .none => 0 | .granted => 1 | .refused => 2 | .accepted => 3 | .ignored => 4 | .taken => 5 | .stale => 6

def Mark.ofCode? (c : BitVec 3) : Option Mark :=
  match c.toNat with
  | 0 => some .none | 1 => some .granted | 2 => some .refused | 3 => some .accepted | 4 => some .ignored
  | 5 => some .taken | 6 => some .stale | _ => Option.none


def kindCode : NoticeKind → BitVec 4
  | .claim => 1 | .release => 2 | .drive => 3 | .echo => 4 | .solo => 5 | .holdings => 6 | .roster => 7

def kindOfCode? (c : BitVec 4) : Option NoticeKind :=
  match c.toNat with
  | 1 => some .claim | 2 => some .release | 3 => some .drive | 4 => some .echo | 5 => some .solo
  | 6 => some .holdings | 7 => some .roster | _ => none

/-- A notice as it stands in a cell (R42). -/
structure Notice where
  kind    : NoticeKind
  origin  : BitVec 5
  hop     : BitVec 6
  bus     : BitVec 5
  mark    : Mark
  payload : BitVec 32
  deriving DecidableEq, Repr

/-- What a cell holds on arrival (R42, R183): nothing, a notice, or a kind or mark code that no station emits, which is
taken as an empty cell. -/
inductive CellContent where
  | empty
  | unreadable
  | notice (n : Notice)
  deriving DecidableEq, Repr

/-- The payload with the spare bits of its kind as zero (11.2, R183). -/
def payloadBits (k : NoticeKind) (p : BitVec 32) : BitVec 32 :=
  match k with
  | .claim | .release => 0
  | .drive | .echo => p &&& 0x7FF
  | .solo => p &&& 0xF
  | .holdings => p &&& 0xFFFFF
  | .roster => p &&& 0x1F

/-- A cell of kind 0 whose mark field holds 7 is one of R183's codes as well, not the plain empty cell. -/
def readCell (c : BitVec 64) : CellContent :=
  let k := c.extractLsb' 60 4
  let m := Mark.ofCode? (c.extractLsb' 41 3)
  if k = 0 ∧ m.isSome then .empty
  else
    match kindOfCode? k, m with
    | some kind, some mark =>
      .notice { kind := kind, origin := c.extractLsb' 55 5, hop := c.extractLsb' 49 6, bus := c.extractLsb' 44 5,
                mark := mark, payload := c.extractLsb' 0 32 }
    | _, _ => .unreadable

/-- A notice as a cell, spare bits zero (R183). -/
def writeCell (n : Notice) : BitVec 64 :=
  kindCode n.kind ++ n.origin ++ n.hop ++ n.bus ++ n.mark.code ++ (0 : BitVec 9) ++ payloadBits n.kind n.payload

/-- The payload of a DRIVE or an ECHO. -/
def levelPayload (level : Value) (muted : Bool) : BitVec 32 :=
  level.setWidth 32 ||| (if muted then BitVec.twoPow 32 10 else 0)

def payloadLevel (p : BitVec 32) : Value := p.extractLsb' 0 10
def payloadMuted (p : BitVec 32) : Bool := p.getLsbD 10
def soloPayload (bits : SoloBits) : BitVec 32 := bits.setWidth 32
def payloadSolo (p : BitVec 32) : SoloBits := p.extractLsb' 0 4
def holdingsPayload (digest : BitVec 16) (bits : SoloBits) : BitVec 32 := ((0 : BitVec 12) ++ bits) ++ digest
def payloadDigest (p : BitVec 32) : BitVec 16 := p.extractLsb' 0 16
def payloadHoldingsSolo (p : BitVec 32) : SoloBits := p.extractLsb' 16 4
def rosterPayload (e : Nat) : BitVec 32 := (BitVec.ofNat 5 e).setWidth 32
def payloadRoster (p : BitVec 32) : Nat := (p.extractLsb' 0 5).toNat

/-! ## Messages of the Bay Link (R169, 11.3) -/

/-- A message: kind, length, payload, check. -/
def message (kind : Byte) (payload : List Byte) : List Byte :=
  let covered := kind :: (bytesOf 2 payload.length ++ payload)
  covered ++ bytesOf 2 (crc16 covered).toNat

def Reason.code : Reason → Byte
  | .format => 1 | .state => 2 | .busy => 3 | .range => 4 | .plan => 5 | .loop => 6 | .notHome => 7 | .strap => 8

/-- A reply as the bytes LDO presents (11.3). -/
def Reply.bytes : Reply → List Byte
  | .done k data => message 0xA0 (k :: data)
  | .accepted k => message 0xA1 [k]
  | .refused k r => message 0xA2 [k, r.code]

/-! ## The play page (11.5) -/

/-- An entry or a move: 24 bits, tick offset (spare in an entry), control id, value. -/
structure RawMove where
  offset  : BitVec 6
  control : Byte
  value   : Value
  deriving DecidableEq, Repr

def rawMoves : List Byte → List RawMove
  | a :: b :: c :: rest =>
    let w : BitVec 24 := a ++ b ++ c
    { offset := w.extractLsb' 18 6, control := w.extractLsb' 10 8, value := w.extractLsb' 0 10 } :: rawMoves rest
  | _ => []

def moveBytes (m : Move) : List Byte :=
  bytesOf 3 (m.offset.toNat * 2 ^ 18 + m.control.val * 2 ^ 10 + m.value.toNat)

/-- A mute control takes 0 and 1, every other control 0 to 1023 (section 7.1). -/
def isMuteId (id : Nat) : Bool := if id < 128 then id % 4 == 1 else id % 2 == 1

def valueFits (id : Nat) (v : Value) : Bool := !isMuteId id || v.toNat ≤ 1

def validIds (ms : List RawMove) : Option (List Move) :=
  ms.foldr (fun m acc =>
    match acc with
    | some l =>
      if h : m.control.toNat < 176 then
        if valueFits m.control.toNat m.value then some ({ offset := m.offset, control := ⟨_, h⟩, value := m.value } :: l)
        else none
      else none
    | none => none) (some [])

/-- R148: moves in non-decreasing order of tick offset, no two of one control at one offset. -/
def movesOrdered (ms : List Move) : Bool :=
  decide (ms.Pairwise fun a b => a.offset ≤ b.offset ∧ ¬ (a.offset = b.offset ∧ a.control = b.control))

/-- R147 step 1: the page's last two bytes are the CRC of the bytes before them (log 19). -/
def pageCheckRight (bs : List Byte) : Bool :=
  crc16 (bs.take (bs.length - 2)) == BitVec.ofNat 16 (numberOf (bs.drop (bs.length - 2)))

/-- R147 step 2, R148: the page if it is well formed. -/
def readPage (bs : List Byte) : Option PlayPage :=
  let number := numberOf (bs.take 3)
  let e := numberOf ((bs.drop 3).take 1)
  let m := numberOf ((bs.drop 4).take 2)
  if number < 2 ^ 20 ∧ e ≤ 176 ∧ m ≤ 2048 ∧ bs.length = 8 + 3 * e + 3 * m then
    match validIds (rawMoves ((bs.drop 6).take (3 * e))), validIds (rawMoves ((bs.drop (6 + 3 * e)).take (3 * m))) with
    | some entries, some moves =>
      if (entries.map (·.control)).Nodup ∧ movesOrdered moves then
        some { number := BitVec.ofNat 20 number, entries := entries.map fun x => (x.control, x.value), moves := moves }
      else none
    | _, _ => none
  else none

/-! ## Take page and pass record (11.6) -/

/-- A tick, FFFFFFFFh when absent. -/
def tickBytes (t : Option Tick) : List Byte := bytesOf 4 (match t with | some t => t.toNat | none => 0xFFFFFFFF)

/-- A page, FFFFFFh when absent. -/
def pageBytes (p : Option Page) : List Byte := bytesOf 3 (match p with | some p => p.toNat | none => 0xFFFFFF)

def Mode.code : Mode → Byte
  | .off => 0 | .read => 1 | .touch => 2 | .latch => 3 | .write => 4

def CloseReason.code : CloseReason → Byte
  | .release => 0 | .stop => 1 | .jump => 2 | .reverse => 3 | .ref => 4 | .window => 5 | .abort => 6 | .left => 7
  | .mode => 8

/-- One bit as a number. -/
def bit (b : Bool) (i : Nat) : Nat := if b then 2 ^ i else 0

def PassRecord.bytes (r : PassRecord) : List Byte :=
  bytesOf 2 r.serial.toNat ++ [BitVec.ofNat 8 r.control.val, r.mode.code] ++ bytesOf 4 r.punchIn.toNat ++
    bytesOf 4 r.punchOut.toNat ++ [r.reason.code] ++
    bytesOf 1 (bit r.damaged 0 + bit r.driverLost 1 + bit r.glideStart.isSome 2) ++ tickBytes r.glideStart

/-- The DONE data of TAKE (11.6). -/
def takeData (remaining : Nat) : Option TakePage → List Byte
  | some p =>
    [BitVec.ofNat 8 remaining, 1] ++ bytesOf 3 p.page.toNat ++ bytesOf 1 (bit p.truncated 0) ++
      bytesOf 2 p.moves.length ++ p.moves.flatMap moveBytes
  | none => [BitVec.ofNat 8 remaining, 0]

end Sys2Proof.Machine
end

