-- ==== Sys2Proof/WellFormed.lean ====
section
/-!
DEFINITION. Which terms of Instr a sender can bring about. A message's payload has at most 65,535 bytes (R169), a transfer
that carries a message begins with a byte other than FFh (R169, 11.3), and a command whose own length test would refuse it
belongs to the row FORMAT (R172, 11.3).
-/

namespace Sys2Proof

/-- R169: the bits clocked in carry a message: at least one whole byte, and the first is not the idle pattern. -/
def carriesMessage (ldi : List Bool) : Bool :=
  match Machine.bytesIn ldi with
  | [] => false
  | k :: _ => k != 0xFF

/-- 11.3: the payload lengths of CONFIGURE. -/
def configureLength (payload : List Byte) : Bool := 2 ≤ payload.length && payload.length ≤ 98

/-- 11.3: the payload lengths of DELIVER. -/
def deliverLength (payload : List Byte) : Bool := 8 ≤ payload.length && payload.length ≤ 6680

/-- A sender can bring the command about. -/
def WellFormed (i : Instr) : Bool :=
  match i with
  | .configure payload _ => configureLength payload
  | .deliver payload _ => deliverLength payload
  | .format ldi => carriesMessage ldi
  | .linkOverrun ldi => carriesMessage ldi
  | _ => true

end Sys2Proof
end

