-- ==== Sys2Proof/Decode.lean ====
section
/-!
DEFINITION. Reading commands from bits. The command table gives no row any bits, so no table word spells a command. What
the spec does give is the message of each Bay Link command (R169, R172, 11.3): reading one from a transfer's bits, and writing one.
-/

namespace Sys2Proof

/-- No row of the command table has bits. -/
def decodeTableWord (_nbits _w : Nat) : Option Instr := none

/-- A field's bytes as a bit vector. -/
def fieldOf (w : Nat) (bs : List Byte) : BitVec w := BitVec.ofNat w (Machine.numberOf bs)

/-- R172 tests 3 and 4, and the payload's fields (11.3); `tail` bits were clocked after the message. -/
def decodePayload (tail : Nat) (kind : Byte) (p : List Byte) : Option Instr :=
  if kind = 0x01 then if configureLength p then some (.configure p tail) else none
  else if kind = 0x0F then if deliverLength p then some (.deliver p tail) else none
  else
    match kind.toNat, p with
    | 0x02, [] => some (.join tail)
    | 0x03, [] => some (.leave tail)
    | 0x04, [a, b, c, d, e, f, g, h] => some (.route a b c d e f g h tail)
    | 0x05, [a, b] => some (.solo a b tail)
    | 0x06, [a, b, c] => some (.touchset a b c tail)
    | 0x07, [a, b, c] => some (.map a b c tail)
    | 0x08, [a, b, c, d, e] => some (.surface a b (fieldOf 16 [c, d]) e tail)
    | 0x09, [] => some (.drives tail)
    | 0x0A, [a, b, c, d] => some (.control a b c d tail)
    | 0x0B, [a, b, c, d, e, f, g, h, i] => some (.window a (fieldOf 32 [b, c, d, e]) (fieldOf 32 [f, g, h, i]) tail)
    | 0x0C, [] => some (.abortNow tail)
    | 0x0D, [] => some (.abortAtPageEnd tail)
    | 0x0E, [a, b, c, d, e, f, g] => some (.span a (fieldOf 24 [b, c, d]) (fieldOf 24 [e, f, g]) tail)
    | 0x10, [] => some (.take tail)
    | 0x11, [] => some (.passes tail)
    | 0x12, [] => some (.status tail)
    | 0x13, [a, b, c] => some (.mask (fieldOf 24 [a, b, c]) tail)
    | 0x14, [] => some (.restart tail)
    | _, _ => none

/-- The bytes of the message that stands at the front of a transfer, if the transfer held the whole of it (R172 test 1):
kind, payload and check; later bits are ignored (R169). -/
def splitMessage (ldi : List Byte) : Option (Byte × List Byte × BitVec 16) :=
  match ldi with
  | kind :: l1 :: l0 :: rest =>
    let n := Machine.numberOf [l1, l0]
    if n + 2 ≤ rest.length then some (kind, rest.take n, fieldOf 16 ((rest.drop n).take 2)) else none
  | _ => none

/-- R172 test 2: the check of a message. -/
def messageCheck (kind : Byte) (payload : List Byte) : BitVec 16 :=
  Machine.crc16 (kind :: (Machine.bytesOf 2 payload.length ++ payload))

/-- R169, R172: the command that a transfer's bits carry, if it passes LINK's four tests. The bits after the message, a last
byte that is not complete among them, are ignored but for their number. -/
def decodeTransfer (ldi : List Bool) : Option Instr :=
  match splitMessage (Machine.bytesIn ldi) with
  | some (kind, payload, check) =>
    if messageCheck kind payload = check then decodePayload (ldi.length - 8 * (5 + payload.length)) kind payload else none
  | none => none

/-- 11.3: kind and payload of a Bay Link command; none for the other rows. -/
def payloadOf (i : Instr) : Option (Byte × List Byte) :=
  match i with
  | .configure p _ => some (0x01, p)
  | .join _ => some (0x02, [])
  | .leave _ => some (0x03, [])
  | .route a b c d e f g h _ => some (0x04, [a, b, c, d, e, f, g, h])
  | .solo a b _ => some (0x05, [a, b])
  | .touchset a b c _ => some (0x06, [a, b, c])
  | .map a b c _ => some (0x07, [a, b, c])
  | .surface a b v c _ => some (0x08, [a, b] ++ Machine.bytesOf 2 v.toNat ++ [c])
  | .drives _ => some (0x09, [])
  | .control a b c d _ => some (0x0A, [a, b, c, d])
  | .window a t u _ => some (0x0B, a :: (Machine.bytesOf 4 t.toNat ++ Machine.bytesOf 4 u.toNat))
  | .abortNow _ => some (0x0C, [])
  | .abortAtPageEnd _ => some (0x0D, [])
  | .span a p q _ => some (0x0E, a :: (Machine.bytesOf 3 p.toNat ++ Machine.bytesOf 3 q.toNat))
  | .deliver p _ => some (0x0F, p)
  | .take _ => some (0x10, [])
  | .passes _ => some (0x11, [])
  | .status _ => some (0x12, [])
  | .mask m _ => some (0x13, Machine.bytesOf 3 m.toNat)
  | .restart _ => some (0x14, [])
  | _ => none

/-- The message of a Bay Link command (R169). -/
def encodeMessage (i : Instr) : Option (List Byte) := (payloadOf i).map fun x => Machine.message x.1 x.2

/-- R169: the bits a transfer clocks after the check of its message; 0 for the rows that carry none. -/
def tailOf (i : Instr) : Nat :=
  match i with
  | .configure _ n | .join n | .leave n | .route _ _ _ _ _ _ _ _ n | .solo _ _ n | .touchset _ _ _ n | .map _ _ _ n
  | .surface _ _ _ _ n | .drives n | .control _ _ _ _ n | .window _ _ _ n | .abortNow n | .abortAtPageEnd n | .span _ _ _ n
  | .deliver _ n | .take n | .passes n | .status n | .mask _ n | .restart n => n
  | _ => 0

/-- R169: the bits that a transfer row clocks; none for a row that is no transfer. -/
def clockedOf (i : Instr) : Option Nat :=
  match i with
  | .format ldi | .linkOverrun ldi => some ldi.length
  | .poll n | .replyRead n => some n
  | i => (payloadOf i).map fun x => 8 * (5 + x.2.length) + tailOf i

end Sys2Proof
end

