-- ==== Sys2Proof/Machine/Gain.lean ====
section
/-!
DEFINITION. Exact gain factors (R71 to R74) and the one rounding of a product (R72, R94).

The gain law gives powers of α = 10^(1/160), and ramps give averages of them with whole-number weights, so every factor is
a sum of c × α^e over den with whole c ≥ 0, 0 ≤ e < 160. Because x^160 − 10 is irreducible (Eisenstein at 2), such a sum is
a rational number only when no e above 0 occurs, and rounding is decided by enclosing α closely enough (log 21).
-/

namespace Sys2Proof.Machine

/-- Adds the term c × α^e to a list of terms in ascending order of e. -/
def Gain.insertTerm (e c : Nat) : List (Nat × Nat) → List (Nat × Nat)
  | [] => if c = 0 then [] else [(e, c)]
  | (e', c') :: rest =>
    if c = 0 then (e', c') :: rest
    else if e < e' then (e, c) :: (e', c') :: rest
    else if e = e' then (e, c + c') :: rest
    else (e', c') :: Gain.insertTerm e c rest

/-- The one canonical form of a sum of terms over `den`. -/
def Gain.normal (den : Nat) (terms : List (Nat × Nat)) : Gain :=
  let g := terms.foldl (fun a t => Nat.gcd a t.2) den
  { den := den / g, terms := terms.map fun t => (t.1, t.2 / g) }

/-- a / b of one factor plus c / b of another; `b` above 0. -/
def Gain.blend (x : Gain) (a : Nat) (y : Gain) (c : Nat) (b : Nat) : Gain :=
  let sum := (y.terms.map fun t => (t.1, t.2 * x.den * c)).foldl (fun l t => Gain.insertTerm t.1 t.2 l)
    ((x.terms.map fun t => (t.1, t.2 * y.den * a)).foldl (fun l t => Gain.insertTerm t.1 t.2 l) [])
  Gain.normal (x.den * y.den * b) sum

/-- The product of two factors: α^160 is 10. -/
def Gain.mul (x y : Gain) : Gain :=
  let products := x.terms.flatMap fun s => y.terms.map fun t =>
    if s.1 + t.1 < 160 then (s.1 + t.1, s.2 * t.2) else (s.1 + t.1 - 160, 10 * (s.2 * t.2))
  Gain.normal (x.den * y.den) (products.foldl (fun l t => Gain.insertTerm t.1 t.2 l) [])

/-- A rational factor n / d; `d` above 0. -/
def Gain.ratio (n d : Nat) : Gain := Gain.normal d (if n = 0 then [] else [(0, n)])

/-- R71: the factor of a level value, 0 for 0 and 10^((v − 927)/160) otherwise. The exponent v − 927 is at least −926, so
v + 33 = (v − 927) + 6 × 160 counts from α^−960 = 10^−6. -/
def Gain.ofLevel (v : Value) : Gain :=
  if v.toNat = 0 then Gain.zero
  else Gain.normal (10 ^ 6) [((v.toNat + 33) % 160, 10 ^ ((v.toNat + 33) / 160))]

/-- R71: the factor of a mute value. -/
def Gain.ofMute (v : Value) : Gain := if v.toNat = 0 then Gain.one else Gain.zero

/-- The whole part of 2^n × α: the largest r with r^160 ≤ 10 × 2^(160 n), found bit by bit. -/
def Gain.rootBits : Nat → Nat
  | 0 => 1
  | n + 1 =>
    let r := 2 * Gain.rootBits n
    if (r + 1) ^ 160 ≤ 10 * 2 ^ (160 * (n + 1)) then r + 1 else r

/-- The sum of c × r^e × 2^(n (159 − e)): 2^(159 n) times the sum of the terms with α read as r / 2^n. -/
def Gain.scaledSum (r n : Nat) (terms : List (Nat × Nat)) : Nat :=
  terms.foldl (fun a t => a + t.2 * r ^ t.1 * 2 ^ (n * (159 - t.1))) 0

/-- The whole part of (m × g + 1/2) when enclosing α with n bits decides it. -/
def Gain.tryFloor (n m : Nat) (g : Gain) : Option Nat :=
  let r := Gain.rootBits n
  let one := 2 ^ (159 * n)
  let lo := (2 * m * Gain.scaledSum r n g.terms + g.den * one) / (2 * g.den * one)
  let hi := (2 * m * Gain.scaledSum (r + 1) n g.terms + g.den * one) / (2 * g.den * one)
  if lo = hi then some lo else none

/-- A number of bits that always decides: an integer combination of 1, α, …, α^159 that is not 0, with M the sum of its
coefficients' magnitudes times 10, is at least M^−159 in magnitude, since its norm is a non-zero integer and each of the
159 conjugates is at most M in magnitude. -/
def Gain.sureBits (m : Nat) (g : Gain) : Nat :=
  160 * (Nat.log2 (100 * (m + 1) * (g.terms.foldl (fun a t => a + t.2) g.den)) + 8)

/-- m × g rounded to the nearest integer, halves upward (the magnitude of R72's product). -/
def Gain.roundNat (m : Nat) (g : Gain) : Nat :=
  match g.terms with
  | [] => 0
  | [(0, c)] => (2 * m * c + g.den) / (2 * g.den)
  | _ =>
    match Gain.tryFloor 64 m g with
    | some v => v
    | none => (Gain.tryFloor (Gain.sureBits m g) m g).getD 0

/-- R72, R94: x × g computed exactly and rounded once to the nearest integer, halves away from zero. -/
def Gain.round (x : Int) (g : Gain) : Int :=
  if 0 ≤ x then Int.ofNat (Gain.roundNat x.toNat g) else - Int.ofNat (Gain.roundNat (-x).toNat g)

/-! ## Factors and their ramps -/

/-- A change of target reaches a factor (R74): it leaves the factor alone when the target in force is the same, else ends
the ramp in progress; the new ramp's length is fixed later in the same sample event (R73, log 6). -/
def Factor.retarget (g : Gain) (f : Factor) : Factor :=
  if f.target = g then f else { f with target := g, ramp := .armed }

/-- The factor k steps along a ramp of L equal steps from `start` (R74). -/
def Factor.atStep (start target : Gain) (k L : Nat) : Gain :=
  if L ≤ k then target else Gain.blend start (L - k) target k L

/-- R73: the length L of a ramp whose change has been taken is fixed. -/
def Factor.fix (L : Nat) (f : Factor) : Factor :=
  match f.ramp with
  | .armed => { f with ramp := .timed L }
  | _ => f

/-- The first of M steps (R74). -/
def Factor.firstStep (M : Nat) (f : Factor) : Factor :=
  { f with value := Factor.atStep f.value f.target 1 M, ramp := if M ≤ 1 then .held else .running f.value 1 M }

/-- One sample event of a factor (R73, R74); `L` is the ramp length that a change taken at this sample event is given. -/
def Factor.advance (L : Nat) (f : Factor) : Factor :=
  match f.ramp with
  | .held => f
  | .armed => f.firstStep L
  | .timed M => f.firstStep M
  | .running start k M =>
    { f with value := Factor.atStep start f.target (k + 1) M,
             ramp := if M ≤ k + 1 then .held else .running start (k + 1) M }

/-- The next sample event ends the factor's ramp; `L` is the ramp length that a ramp of a change taken then is given. -/
def Factor.atLastStep (L : Nat) (f : Factor) : Bool :=
  match f.ramp with
  | .held => false
  | .armed => L ≤ 1
  | .timed M => M ≤ 1
  | .running _ k M => M ≤ k + 1

end Sys2Proof.Machine
end

