-- ==== Sys2Proof/Machine/Ops.lean ====
section
/-!
DEFINITION. The named operations over the part's collections: what a block reads of the others, the lane plan, sets of
stations, the pending notice list, the drive list, and one updater for each table.
-/

namespace Sys2Proof.Machine

/-! ## What the blocks of the desk read of the others -/

/-- Identity, sample rate, configuration, position and play pages: read, never written, by the blocks of `Desk`. -/
structure Env where
  self   : Nat
  rate96 : Bool
  conf   : Option Conf
  pos    : Pos
  play   : Play

def State.self (s : State) : Nat := s.strap.toNat

def State.env (s : State) : Env :=
  { self := s.self, rate96 := s.rate96, conf := s.conf, pos := s.pos, play := s.play }

/-! ## The lane plan (R24, R26) -/

/-- The buses of the plan; none while UNCONFIGURED. -/
def Env.plan (e : Env) : List Bus :=
  match e.conf with
  | some c => c.plan
  | none => []

def Env.bus? (e : Env) (b : Fin 24) : Option Bus := e.plan[b.val]?

/-- The bus is a bus of the plan homed at this station. -/
def Env.homesBus (e : Env) (b : Fin 24) : Bool :=
  match e.bus? b with
  | some x => x.home == e.self
  | none => false

/-- The bus is a bus of the plan homed elsewhere, so the station keeps a requester for it. -/
def Env.requestsBus (e : Env) (b : Fin 24) : Bool :=
  match e.bus? b with
  | some x => !(x.home == e.self)
  | none => false

/-- The 24 bus numbers, ascending. -/
def allBuses : List (Fin 24) := List.finRange 24

def Env.homedBuses (e : Env) : List (Fin 24) := allBuses.filter e.homesBus
def Env.requestedBuses (e : Env) : List (Fin 24) := allBuses.filter e.requestsBus

/-- The byte names a bus of the plan. -/
def Env.busOfByte? (e : Env) (b : Byte) : Option (Fin 24) :=
  if h : b.toNat < 24 then if (e.bus? ⟨_, h⟩).isSome then some ⟨_, h⟩ else none else none

/-! ## The controls (section 7.1) -/

/-- What a control id names. -/
inductive ControlName where
  | level (s : Fin 32) | mute (s : Fin 32) | send1 (s : Fin 32) | send2 (s : Fin 32)
  | master (b : Fin 24) | masterMute (b : Fin 24)
  deriving DecidableEq, Repr

def controlName (c : Fin 176) : ControlName :=
  if h : c.val < 128 then
    have hs : c.val / 4 < 32 := by omega
    match c.val % 4 with
    | 0 => .level ⟨_, hs⟩
    | 1 => .mute ⟨_, hs⟩
    | 2 => .send1 ⟨_, hs⟩
    | _ => .send2 ⟨_, hs⟩
  else
    have hb : (c.val - 128) / 2 < 24 := by omega
    if c.val % 2 = 0 then .master ⟨_, hb⟩ else .masterMute ⟨_, hb⟩

def levelId (s : Fin 32) : Fin 176 := ⟨4 * s.val, by omega⟩
def masterId (b : Fin 24) : Fin 176 := ⟨128 + 2 * b.val, by omega⟩
def masterMuteId (b : Fin 24) : Fin 176 := ⟨129 + 2 * b.val, by omega⟩

/-- A strip control's id as a control id. -/
def stripControlId (c : Fin 128) : Fin 176 := ⟨c.val, by omega⟩

/-- R114: the control is live. -/
def Env.live (e : Env) (c : Fin 176) : Bool :=
  e.conf.isSome &&
    (match controlName c with
     | .master b | .masterMute b => e.homesBus b
     | _ => true)

/-- The 176 control ids, ascending. -/
def allControls : List (Fin 176) := List.finRange 176

/-! ## Sets of stations -/

def StationSet.has (s : StationSet) (x : Nat) : Bool := s.getLsbD x
def StationSet.add (s : StationSet) (x : Nat) : StationSet := s ||| BitVec.twoPow 24 x
def StationSet.remove (s : StationSet) (x : Nat) : StationSet := s &&& ~~~ (BitVec.twoPow 24 x)

/-- The 24 station numbers, ascending. -/
def allStations : List Nat := List.range 24

def StationSet.count (s : StationSet) : Nat := (allStations.filter fun x => StationSet.has s x).length

/-- The set of the stations that meet a test. -/
def stationsWhere (p : Nat → Bool) : StationSet :=
  allStations.foldl (fun s x => if p x then StationSet.add s x else s) 0

/-! ## One updater for each table -/

def Desk.control (d : Desk) (c : Fin 176) : Control := d.auto.controls[c]
def Desk.setControl (c : Fin 176) (x : Control) (d : Desk) : Desk :=
  { d with auto := { d.auto with controls := d.auto.controls.set c x } }

def Desk.stripOf (d : Desk) (s : Fin 32) : Strip := d.strip.strips[s]
def Desk.setStrip (s : Fin 32) (x : Strip) (d : Desk) : Desk :=
  { d with strip := { d.strip with strips := d.strip.strips.set s x } }

def Desk.homeOf (d : Desk) (b : Fin 24) : Home := d.home.homes[b]
def Desk.setHome (b : Fin 24) (x : Home) (d : Desk) : Desk :=
  { d with home := { d.home with homes := d.home.homes.set b x } }

def Desk.reqOf (d : Desk) (b : Fin 24) : Requester := d.home.reqs[b]
def Desk.setReq (b : Fin 24) (x : Requester) (d : Desk) : Desk :=
  { d with home := { d.home with reqs := d.home.reqs.set b x } }

def Desk.lineOf (d : Desk) (f : Fin 32) : Line := d.touch.lines[f]
def Desk.setLine (f : Fin 32) (x : Line) (d : Desk) : Desk :=
  { d with touch := { d.touch with lines := d.touch.lines.set f x } }

/-- Does `f` at each member of a list in turn. -/
def Desk.each {α : Type} (l : List α) (f : α → Desk → Desk) (d : Desk) : Desk := l.foldl (fun d a => f a d) d

/-! ## The pending notice list and the in-flight table (R49 to R53) -/

/-- The slot's waiting entry. -/
def Note.waiting? (n : Note) (slot : Slot) : Option Waiting := n.pending.find? fun w => w.slot == slot

/-- The slot's entry in the in-flight table. -/
def Note.flight? (n : Note) (slot : Slot) : Option Flight := n.flight.find? fun f => f.slot == slot

/-- R50, Queue: the slot's waiting entry is rewritten in its place, or a new entry joins at the newest end. -/
def Note.queue (slot : Slot) (kind : NoticeKind) (payload : BitVec 32) (n : Note) : Note :=
  if (n.waiting? slot).isSome then
    { n with pending := n.pending.map fun w =>
        if w.slot = slot then { slot := slot, kind := kind, payload := payload } else w }
  else { n with pending := n.pending ++ [{ slot := slot, kind := kind, payload := payload }] }

/-- R50, Withdraw: the slot's waiting entry leaves the list; the in-flight table is left as it is. -/
def Note.withdraw (slot : Slot) (n : Note) : Note :=
  { n with pending := n.pending.filter fun w => !(w.slot == slot) }

/-- R51: the oldest waiting entry whose slot has no entry in flight. -/
def Note.eligible? (n : Note) : Option Waiting := n.pending.find? fun w => (n.flight? w.slot).isNone

/-- R53: the slot's in-flight entry is closed. -/
def Note.close (slot : Slot) (n : Note) : Note :=
  { n with flight := n.flight.filter fun f => !(f.slot == slot) }

def Desk.queue (slot : Slot) (kind : NoticeKind) (payload : BitVec 32) (d : Desk) : Desk :=
  { d with note := d.note.queue slot kind payload }

def Desk.withdraw (slot : Slot) (d : Desk) : Desk := { d with note := d.note.withdraw slot }

/-- The bus field of a slot's notices (R42). -/
def Slot.bus : Slot → Nat
  | .claim b | .drive b | .echo b => b.val
  | .holdings | .solo | .roster => 0

/-- R45: the slot of a notice, from its kind and bus; none for a bus number that no slot has. -/
def slotOf? (kind : NoticeKind) (bus : Nat) : Option Slot :=
  match kind with
  | .claim | .release => if h : bus < 24 then some (.claim ⟨bus, h⟩) else none
  | .drive => if h : bus < 24 then some (.drive ⟨bus, h⟩) else none
  | .echo => if h : bus < 24 then some (.echo ⟨bus, h⟩) else none
  | .solo => some .solo
  | .holdings => some .holdings
  | .roster => some .roster

/-! ## The drive list (R91) -/

/-- Every fader mapped to the target enters the drive list with the level. -/
def Touch.drive (target : FaderTarget) (level : Value) (t : Touch) : Touch :=
  { t with drives := Vector.zipWith (fun m d => if m = target then some level else d) t.map t.drives }

def Desk.drive (target : FaderTarget) (level : Value) (d : Desk) : Desk :=
  { d with touch := d.touch.drive target level }

/-! ## Ramps (R73, R80, R96) -/

/-- A change of one factor's target; its ramp length is fixed later in the sample event (R73, log 6). -/
def Desk.retarget (r : FactorName) (g : Gain) (d : Desk) : Desk :=
  match r with
  | .level s => d.setStrip s { d.stripOf s with level := (d.stripOf s).level.retarget g }
  | .mute s => d.setStrip s { d.stripOf s with mute := (d.stripOf s).mute.retarget g }
  | .send1 s => d.setStrip s { d.stripOf s with fsend1 := (d.stripOf s).fsend1.retarget g }
  | .send2 s => d.setStrip s { d.stripOf s with fsend2 := (d.stripOf s).fsend2.retarget g }
  | .gate1 s => d.setStrip s { d.stripOf s with gate1 := (d.stripOf s).gate1.retarget g }
  | .gate2 s => d.setStrip s { d.stripOf s with gate2 := (d.stripOf s).gate2.retarget g }
  | .master b => d.setHome b { d.homeOf b with master := (d.homeOf b).master.retarget g }
  | .masterMute b => d.setHome b { d.homeOf b with mute := (d.homeOf b).mute.retarget g }

/-- The factor of a name. -/
def Desk.factor (r : FactorName) (d : Desk) : Factor :=
  match r with
  | .level s => (d.stripOf s).level
  | .mute s => (d.stripOf s).mute
  | .send1 s => (d.stripOf s).fsend1
  | .send2 s => (d.stripOf s).fsend2
  | .gate1 s => (d.stripOf s).gate1
  | .gate2 s => (d.stripOf s).gate2
  | .master b => (d.homeOf b).master
  | .masterMute b => (d.homeOf b).mute

/-- One sample event of one factor. -/
def Desk.advanceFactor (r : FactorName) (L : Nat) (d : Desk) : Desk :=
  match r with
  | .level s => d.setStrip s { d.stripOf s with level := (d.stripOf s).level.advance L }
  | .mute s => d.setStrip s { d.stripOf s with mute := (d.stripOf s).mute.advance L }
  | .send1 s => d.setStrip s { d.stripOf s with fsend1 := (d.stripOf s).fsend1.advance L }
  | .send2 s => d.setStrip s { d.stripOf s with fsend2 := (d.stripOf s).fsend2.advance L }
  | .gate1 s => d.setStrip s { d.stripOf s with gate1 := (d.stripOf s).gate1.advance L }
  | .gate2 s => d.setStrip s { d.stripOf s with gate2 := (d.stripOf s).gate2.advance L }
  | .master b => d.setHome b { d.homeOf b with master := (d.homeOf b).master.advance L }
  | .masterMute b => d.setHome b { d.homeOf b with mute := (d.homeOf b).mute.advance L }

end Sys2Proof.Machine
end

