-- ==== Sys2Proof/Machine/Position.lean ====
section
/-!
DEFINITION. POS: samples per frame, quarters, ticks and page crossings, and one sample event of the position counter
(chapter 1).
-/

namespace Sys2Proof.Machine

/-- Section 1.2: samples per frame, by sample rate, frame rate and cadence phase. -/
def spf (rate96 : Bool) (rate : FrameRate) (frame : FrameNo) : Nat :=
  match rate, rate96 with
  | .fps24, false => 2000
  | .fps24, true => 4000
  | .fps25, false => 1920
  | .fps25, true => 3840
  | .fps23976, false => 2002
  | .fps23976, true => 4004
  | .fps2997, false => if (frame.toNat % 5) % 2 = 0 then 1602 else 1601
  | .fps2997, true => if frame.toNat % 5 = 0 then 3204 else 3203

/-- R3: the cadence phase. -/
def cadencePhase (frame : FrameNo) : Nat := frame.toNat % 5

/-- R4: the offset at which quarter q of a frame of n samples begins. -/
def quarterStart (n q : Nat) : Nat := q * n / 4

/-- R4: the quarter that begins at the offset, if one does. -/
def quarterAt (n offset : Nat) : Option (BitVec 2) :=
  if offset = quarterStart n 0 then some 0
  else if offset = quarterStart n 1 then some 1
  else if offset = quarterStart n 2 then some 2
  else if offset = quarterStart n 3 then some 3
  else none

/-- R4: the tick index frame × 4 + q. -/
def tickOf (frame : FrameNo) (q : BitVec 2) : Tick := frame ++ q

/-- R4: tick index div 64. -/
def pageOf (t : Tick) : Page := t.extractLsb' 6 20

/-- R4: tick index mod 64. -/
def offsetOf (t : Tick) : BitVec 6 := t.extractLsb' 0 6

/-- R4: frame div 16. -/
def pageOfFrame (f : FrameNo) : Page := f.extractLsb' 4 20

/-- R7: the step from one frame number to another, modulo 16,777,216; none is a jump. -/
def stepClass (left entered : FrameNo) : Option Motion :=
  if entered = left + 1 then some .rolling
  else if entered = left then some .parked
  else if entered = left - 1 then some .reverse
  else none

def Motion.transport : Motion → Transport
  | .parked => .parked
  | .rolling => .rolling
  | .reverse => .reverse

/-- PARKED, ROLLING and REVERSE are the locked states. -/
def Transport.motion? : Transport → Option Motion
  | .parked => some .parked
  | .rolling => some .rolling
  | .reverse => some .reverse
  | .unlocked | .chasing => none

/-- R11: what entry into a locked state raises, from the previous motion. -/
def entryEvent (before : Option Motion) (now : Motion) : List PosEvent :=
  match before, now with
  | some .rolling, .rolling => []
  | _, .rolling => [.roll]
  | some .rolling, .parked => [.stop]
  | _, .parked => []
  | some .reverse, .reverse => []
  | _, .reverse => [.reverse]

/-- A tick as POS hands it on, with its page-crossing mark (R4, R5). -/
structure MadeTick where
  index    : Tick
  crossing : Bool
  deriving DecidableEq, Repr

/-- What one sample event makes of POS: its new state, the transport events in order, the tick if one is produced (R14). -/
structure PosOut where
  pos    : Pos
  events : List PosEvent
  made   : Option MadeTick
  deriving DecidableEq, Repr

/-- R4: in a locked state, an offset at a quarter start produces a tick, which becomes the current tick. -/
def produceTick (n : Nat) (crossing : Bool) (events : List PosEvent) (p : Pos) : PosOut :=
  match p.state.motion?, quarterAt n p.offset with
  | some _, some q =>
    let t := tickOf p.frame q
    { pos := { p with tick := some t, cold := false }, events := events, made := some { index := t, crossing := crossing } }
  | _, _ => { pos := p, events := events, made := none }

/-- R5: a step of +1 or −1 that leaves one page for another, while moving. -/
def crosses (left entered : FrameNo) (m : Motion) : Bool :=
  m != .parked && pageOfFrame left != pageOfFrame entered

/-- Entry into a frame with offset 0 in a locked state: its quarter 0 tick is produced at the same sample event
(R9, R10, R13). The first tick after UNLOCKED is no crossing (R5, log 28). -/
def enterLocked (rate96 : Bool) (rate : FrameRate) (left entered : FrameNo) (m : Motion) (events : List PosEvent)
    (p : Pos) : PosOut :=
  produceTick (spf rate96 rate entered) (crosses left entered m && !p.cold) events
    { p with state := m.transport, frame := entered, offset := 0 }

/-- R2, R13: entry into UNLOCKED from any state. -/
def Pos.unlock (p : Pos) : Pos := { Pos.reset with frame := p.frame }

/-- R8: a fresh start in UNLOCKED. -/
def takeEdgeUnlocked (f : FrameNo) : Pos :=
  { Pos.reset with state := .chasing, frame := f, chaseFrame := some f }

/-- R9, first item: an edge that is a fresh start in CHASING. -/
def takeEdgeFresh (f : FrameNo) (p : Pos) : PosOut :=
  let base := { p with frame := f, offset := 0, chaseFrame := some f, run := none, fly := 0 }
  match stepClass p.frame f with
  | some _ => { pos := base, events := [], made := none }
  | none => { pos := { base with before := none, tick := none }, events := [.jump], made := none }

/-- R9, second item: an edge on time with the chase frame present. A completed chase leaves the run and the motion before
chase absent (log 10). -/
def takeEdgeChasing (rate96 : Bool) (rate : FrameRate) (c f : FrameNo) (p : Pos) : PosOut :=
  let base := { p with frame := f, offset := 0, chaseFrame := some f, fly := 0 }
  match stepClass c f with
  | some m =>
    if p.run = some m then
      enterLocked rate96 rate p.frame f m (entryEvent p.before m) { base with run := none, before := none }
    else { pos := { base with run := some m }, events := [], made := none }
  | none => { pos := { base with run := none, before := none, tick := none }, events := [.jump], made := none }

/-- R9, third item: a due sample without an edge in CHASING. -/
def missEdgeChasing (p : Pos) : PosOut :=
  if 3 ≤ p.fly then { pos := p.unlock, events := [.refLost], made := none }
  else
    { pos := { p with offset := 0, chaseFrame := none, run := none, fly := p.fly + 1 }, events := [], made := none }

/-- R10: an edge at the due sample in the locked state of motion `m`. -/
def takeEdgeLocked (rate96 : Bool) (rate : FrameRate) (m : Motion) (f : FrameNo) (p : Pos) : PosOut :=
  match stepClass p.frame f with
  | some m' => enterLocked rate96 rate p.frame f m' (entryEvent (some m) m') { p with fly := 0 }
  | none =>
    { pos := { p with state := .chasing, frame := f, offset := 0, chaseFrame := some f, run := none, before := none,
                      fly := 0, tick := none },
      events := [.jump], made := none }

/-- R12: an off-time edge in the locked state of motion `m`. -/
def takeEdgeOffTime (m : Motion) (f : FrameNo) (p : Pos) : PosOut :=
  let base := { p with state := .chasing, frame := f, offset := 0, chaseFrame := some f, run := none,
                       before := some m, fly := 0 }
  match stepClass p.frame f with
  | some _ => { pos := base, events := [.framing], made := none }
  | none => { pos := { base with before := none, tick := none }, events := [.framing, .jump], made := none }

/-- R13: the frame that continues the motion. -/
def predicted (m : Motion) (f : FrameNo) : FrameNo :=
  match m with
  | .parked => f
  | .rolling => f + 1
  | .reverse => f - 1

/-- R13: a due sample without an edge in the locked state of motion `m`. -/
def missEdgeLocked (rate96 : Bool) (rate : FrameRate) (m : Motion) (p : Pos) : PosOut :=
  if 3 ≤ p.fly then { pos := p.unlock, events := [.refLost], made := none }
  else enterLocked rate96 rate p.frame (predicted m p.frame) m [] { p with fly := p.fly + 1 }

/-- R6: the sample event now taken is the due sample of the current frame. -/
def Pos.due (rate96 : Bool) (rate : FrameRate) (p : Pos) : Bool := spf rate96 rate p.frame ≤ p.offset + 1

/-- One sample event of POS with the frame rate known; `edge` is a valid frame edge (R1, R6 to R13). -/
def Pos.sample (rate96 : Bool) (rate : FrameRate) (edge : Option FrameNo) (p : Pos) : PosOut :=
  match p.state.motion? with
  | some m =>
    match edge, p.due rate96 rate with
    | some f, true => takeEdgeLocked rate96 rate m f p
    | some f, false => takeEdgeOffTime m f p
    | none, true => missEdgeLocked rate96 rate m p
    | none, false => produceTick (spf rate96 rate p.frame) false [] { p with offset := p.offset + 1 }
  | none =>
    match p.state, edge with
    | .unlocked, some f => { pos := takeEdgeUnlocked f, events := [], made := none }
    | .unlocked, none => { pos := p, events := [], made := none }
    | _, some f =>
      match p.chaseFrame, p.due rate96 rate with
      | some c, true => takeEdgeChasing rate96 rate c f p
      | _, _ => takeEdgeFresh f p
    | _, none =>
      if p.due rate96 rate then missEdgeChasing p
      else { pos := { p with offset := p.offset + 1 }, events := [], made := none }

/-- R1: the valid edge of a frame word; one whose valid bit is clear is no edge. -/
def FrameWord.edge (w : Option FrameWord) : Option FrameNo :=
  match w with
  | some w => if w.valid then some w.number else none
  | none => none

/-- The current offset lies in a quarter that ends here: the first quarter start above the offset, or the frame's end. -/
def nextQuarter (n offset : Nat) : Nat :=
  if offset < quarterStart n 1 then quarterStart n 1
  else if offset < quarterStart n 2 then quarterStart n 2
  else if offset < quarterStart n 3 then quarterStart n 3
  else n

/-- R73: the length of a ramp that starts at the sample event POS now stands at. `State.audio` asks it after every block's
phase, so the transport state and position "at the change" are those after the whole sample event (the model's choice,
log 32). -/
def rampLength (e : Env) : Nat :=
  match e.conf, e.pos.state.motion? with
  | some c, some _ => nextQuarter (spf e.rate96 c.rate e.pos.frame) e.pos.offset - e.pos.offset
  | _, _ => if e.rate96 then 1000 else 500

end Sys2Proof.Machine
end

