-- ==== Sys2Proof/Machine/Takes.lean ====
section
/-!
DEFINITION. TAKE: take slots and pages, overrun and truncation, the pass record queue and its reservations (chapter 9).
-/

namespace Sys2Proof.Machine

/-- The OPEN slot, if any (R157: at most one). -/
def Take.open? (t : Take) : Option (Fin 4 × TakePage) :=
  (List.finRange 4).findSome? fun i =>
    match t.slots[i] with
    | .opened p => some (i, p)
    | _ => none

/-- The lowest-numbered FREE slot (R158). -/
def Take.free? (t : Take) : Option (Fin 4) := (List.finRange 4).find? fun i => t.slots[i] == .free

/-- R160: the OPEN page becomes CLOSED and joins the newest end of the closing order. -/
def Take.closeOpen (t : Take) : Take :=
  match t.open? with
  | some (i, p) => { t with slots := t.slots.set i (.closed p), order := t.order ++ [i] }
  | none => t

/-- R160, R161: a tick of POS in `page` closes an OPEN page of another number and ends another lost page. -/
def Take.leavePage (page : Page) (t : Take) : Take :=
  let t1 := match t.open? with
    | some (_, p) => if p.page = page then t else t.closeOpen
    | none => t
  match t1.lost with
  | some l => if l = page then t1 else { t1 with lost := none }
  | none => t1

/-- R160, R161: AUTO reports that its open-pass count has reached 0. -/
def Take.lastPassClosed (t : Take) : Take := { t.closeOpen with lost := none }

/-- R159: the move is placed behind every move of a lower offset, or of the same offset and a lower control id. A later move
of one control at one offset stands in front of the earlier one (the model's choice: R159 gives no order, log 31). -/
def insertMove (m : Move) : List Move → List Move
  | [] => [m]
  | x :: rest =>
    if x.offset < m.offset ∨ (x.offset = m.offset ∧ x.control < m.control) then x :: insertMove m rest
    else m :: x :: rest

/-- What becomes of a move handed to TAKE. -/
inductive MoveFate where
  | kept | truncated | overrun
  deriving DecidableEq, Repr

/-- R158: a move of a page that no OPEN slot holds takes the lowest FREE slot, or makes its page the lost page. -/
def Take.openFor (page : Page) (m : Move) (t : Take) : Take × MoveFate :=
  match t.free? with
  | some i => ({ t with slots := t.slots.set i (.opened { page := page, moves := [m], truncated := false }) }, .kept)
  | none => ({ t with lost := some page }, .overrun)

/-- R158, R161, R162: TAKE takes a move for the tick. -/
def Take.accept (tick : Tick) (c : Fin 176) (v : Value) (t : Take) : Take × MoveFate :=
  let page := pageOf tick
  let m : Move := { offset := offsetOf tick, control := c, value := v }
  if t.lost = some page then (t, .overrun)
  else
    let t1 := { t with lost := none }
    match t1.open? with
    | some (i, p) =>
      if p.page = page then
        if p.moves.length < 1024 then
          ({ t1 with slots := t1.slots.set i (.opened { p with moves := insertMove m p.moves }) }, .kept)
        else ({ t1 with slots := t1.slots.set i (.opened { p with truncated := true }) }, .truncated)
      else t1.closeOpen.openFor page m
    | none => t1.openFor page m

/-- R164: room for one more open pass. -/
def Take.room (t : Take) : Bool := t.queue.length + t.reserved < 32

def Take.reserve (t : Take) : Take := { t with reserved := t.reserved + 1 }

/-- R164: the record of a closing pass joins the newest end and gives up its place. -/
def Take.file (r : PassRecord) (t : Take) : Take :=
  { t with queue := t.queue ++ [r], reserved := t.reserved - 1 }

/-- R163: the oldest CLOSED page, and TAKE with its slot freed. -/
def Take.collect (t : Take) : Option TakePage × Take :=
  match t.order with
  | i :: rest =>
    (match t.slots[i] with
     | .closed p => some p
     | _ => none,
     { t with slots := t.slots.set i .free, order := rest })
  | [] => (none, t)

end Sys2Proof.Machine
end

