-- ==== Sys2Proof/Machine/Pages.lean ====
section
/-!
DEFINITION. PLAY: the play window and span, the wanted record, values in force, and a page's entry (chapter 8).
-/

namespace Sys2Proof.Machine

/-- R142: the play window in the order of need: current, ahead near, ahead far, behind. -/
def playWindow (p : Pos) : List Page :=
  let c := pageOfFrame p.frame
  if p.state = .reverse then [c, c - 1, c - 2, c + 1] else [c, c + 1, c + 2, c - 1]

/-- R143: the page is in the play span. -/
def Play.inSpan (y : Play) (page : Page) : Bool :=
  match y.span with
  | some (first, last) => first ≤ page && page ≤ last
  | none => false

/-- The page a slot holds (R140). -/
def PlaySlot.page? : PlaySlot → Option Page
  | .free => none
  | .wanted p | .missing p => some p
  | .ready p => some p.number

def PlaySlot.isWanted : PlaySlot → Bool
  | .wanted _ => true
  | _ => false

/-- The slot holds the page as READY or MISSING. -/
def PlaySlot.settles (page : Page) : PlaySlot → Bool
  | .ready p => p.number == page
  | .missing p => p == page
  | _ => false

/-- Some slot holds the page as READY or MISSING. -/
def Play.settled (y : Play) (page : Page) : Bool := y.slots.toList.any (PlaySlot.settles page)

/-- R144 step 2: slots whose page is not both in the window and in the span are retired. -/
def Play.retire (window : List Page) (y : Play) : Play :=
  { y with slots := y.slots.map fun x =>
      match x.page? with
      | some page => if window.contains page && y.inSpan page then x else .free
      | none => x }

/-- Retires the WANTED slot, if any (R145). -/
def Play.dropWantedSlot (y : Play) : Play :=
  { y with slots := y.slots.map fun x => if x.isWanted then .free else x }

/-- The lowest-numbered FREE slot. -/
def Play.free? (y : Play) : Option (Fin 4) := (List.finRange 4).find? fun i => y.slots[i] == .free

/-- R145: the wanted record is set to, or moves to, a page. -/
def Play.want (page : Page) (y : Play) : Play :=
  let y1 := y.dropWantedSlot
  match y1.free? with
  | some i => { y1 with slots := y1.slots.set i (.wanted page), wanted := some { page := page, strays := 0 } }
  | none => { y1 with wanted := some { page := page, strays := 0 } }

/-- R145: the needed pages in the order of need. -/
def Play.needed (window : List Page) (y : Play) : List Page :=
  window.filter fun page => y.inSpan page && !y.settled page

/-- R144, R145: PLAY re-evaluates its slots against POS. -/
def Play.reevaluate (p : Pos) (y : Play) : Play :=
  let window := playWindow p
  let y1 := y.retire window
  match (y1.needed window).head?, y1.wanted with
  | none, _ => { y1.dropWantedSlot with wanted := none }
  | some page, some w => if w.page = page then y1 else y1.want page
  | some page, none => if p.state.motion?.isSome then y1.want page else y1

/-- The page held READY with the number (R152). -/
def Play.ready? (y : Play) (page : Page) : Option PlayPage :=
  y.slots.toList.findSome? fun x =>
    match x with
    | .ready p => if p.number = page then some p else none
    | _ => none

/-- R118, R152: the value a page gives a control at a tick offset. -/
def PlayPage.valueAt (p : PlayPage) (offset : BitVec 6) (c : Fin 176) : Option Value :=
  match (p.moves.filter fun m => m.control == c && m.offset ≤ offset).getLast? with
  | some m => some m.value
  | none => (p.entries.find? fun x => x.1 == c).map (·.2)

/-- R118, R152: the value in force of a control at a tick. -/
def Play.inForce (y : Play) (t : Tick) (c : Fin 176) : Option Value :=
  match y.ready? (pageOf t) with
  | some p => p.valueAt (offsetOf t) c
  | none => none

/-- R153: the page is late: in the span and held neither READY nor MISSING. -/
def Play.late (y : Play) (page : Page) : Bool := y.inSpan page && !y.settled page

/-- R144, R153: PLAY takes a tick. -/
def Play.tick (p : Pos) (t : Tick) (y : Play) : Play := { y.reevaluate p with entered := some (pageOf t) }

/-- R153: the tick enters a page that is late. -/
def Play.entersLate (p : Pos) (t : Tick) (y : Play) : Bool :=
  y.entered != some (pageOf t) && (y.reevaluate p).late (pageOf t)

/-- R144, R153: PLAY takes a JUMP; `p` is POS after the sample event of the JUMP. -/
def Play.jump (p : Pos) (y : Play) : Play := { y.reevaluate p with entered := none }

/-- R151: the page is put into the WANTED slot. -/
def Play.fill (pg : PlayPage) (y : Play) : Play :=
  { y with slots := y.slots.map fun x => if x = .wanted pg.number then .ready pg else x }

/-- R150: the WANTED slot becomes MISSING. -/
def Play.giveUp (y : Play) : Play :=
  { y with slots := y.slots.map fun x =>
      match x with
      | .wanted p => .missing p
      | _ => x }

/-- R143 step 2: every MISSING slot is retired. -/
def Play.retireMissing (y : Play) : Play :=
  { y with slots := y.slots.map fun x =>
      match x with
      | .missing _ => .free
      | _ => x }

end Sys2Proof.Machine
end

