-- ==== Sys2Proof/Machine/Controls.lean ====
section
/-!
DEFINITION. AUTO: the applied value of a control, touch and release, passes and their moves, and the steps of one tick
(chapter 7).
-/

namespace Sys2Proof.Machine

/-! ## The applied value (R120, R121) -/

/-- The last column of R120's table: the control is taking its surface value. -/
def Control.takesSurface (x : Control) : Bool :=
  match x.mode, x.pass with
  | .off, _ => true
  | .write, _ => true
  | .touch, .primed | .touch, .writing | .latch, .primed | .latch, .writing => true
  | _, _ => false

/-- R120: the applied value decided afresh between ticks. A gliding control keeps its latest glide value (R121) and a
holding control its held value (R128). -/
def Control.decided (x : Control) : Value :=
  match x.mode, x.pass with
  | .off, _ => x.surface
  | .write, _ => x.surface
  | .read, _ => x.playback
  | .touch, .idle | .latch, .idle => x.playback
  | .touch, .primed | .touch, .writing | .latch, .primed | .latch, .writing => x.surface
  | .touch, .gliding | .touch, .holding | .latch, .gliding | .latch, .holding => x.applied

/-- R121: W + (p − W) × j / G rounded to the nearest integer, halves away from zero. -/
def glideValue (w p : Value) (j g : Nat) : Value :=
  BitVec.ofNat 10 ((2 * (w.toNat * (g - j) + p.toNat * j) + g) / (2 * g))

/-- R98: an ECHO of a homed bus is queued with its applied values as they stand. -/
def Desk.queueEcho (b : Fin 24) (d : Desk) : Desk :=
  d.queue (.echo b) .echo
    (levelPayload (d.control (masterId b)).applied ((d.control (masterMuteId b)).applied.getLsbD 0))

/-- R99: the driver of the bus is none or the station itself. -/
def Desk.drivenHere (e : Env) (b : Fin 24) (d : Desk) : Bool :=
  match (d.homeOf b).driver with
  | none => true
  | some x => x == e.self

/-- R120: a change of applied value is handed on: to STRIP, or to HOME with its ECHO; a LEVEL or MASTER that does not take
its surface value also to the drive list (R91, R98, R99). -/
def Desk.handOn (e : Env) (c : Fin 176) (d : Desk) : Desk :=
  let v := (d.control c).applied
  let takes := (d.control c).takesSurface
  match controlName c with
  | .level s =>
    let d1 := d.retarget (.level s) (Gain.ofLevel v)
    if takes then d1 else d1.drive (.strip s) v
  | .mute s => d.retarget (.mute s) (Gain.ofMute v)
  | .send1 s => d.retarget (.send1 s) (Gain.ofLevel v)
  | .send2 s => d.retarget (.send2 s) (Gain.ofLevel v)
  | .master b =>
    let d1 := (d.retarget (.master b) (Gain.ofLevel v)).queueEcho b
    if takes && d.drivenHere e b then d1 else d1.drive (.bus b) v
  | .masterMute b => (d.retarget (.masterMute b) (Gain.ofMute v)).queueEcho b

/-- The applied value becomes `v`; only a change is handed on (R120). -/
def Desk.apply (e : Env) (c : Fin 176) (v : Value) (d : Desk) : Desk :=
  if (d.control c).applied = v then d
  else Desk.handOn e c (d.setControl c { d.control c with applied := v })

/-- R120: the applied value is decided afresh. -/
def Desk.decideApplied (e : Env) (c : Fin 176) (d : Desk) : Desk := Desk.apply e c (d.control c).decided d

/-- R115: a new surface value is stored, and acts at once where it is taken. -/
def Desk.setSurface (e : Env) (c : Fin 176) (v : Value) (d : Desk) : Desk :=
  Desk.decideApplied e c (d.setControl c { d.control c with surface := v })

/-! ## Moves (R125, R131) -/

/-- R131, R161, R162: DAMAGED is set on every pass open at this moment. -/
def Auto.markDamaged (a : Auto) : Auto :=
  { a with controls := a.controls.map fun x =>
      { x with openPass := x.openPass.map fun p => { p with damaged := true } } }

/-- A move is handed to TAKE and becomes the control's last move whether or not TAKE keeps it. -/
def Desk.appendMove (c : Fin 176) (t : Tick) (d : Desk) : Desk :=
  let v := (d.control c).applied
  let d1 := d.setControl c { d.control c with lastMove := some { tick := t, value := v, current := true } }
  match d1.take.accept t c v with
  | (k, .kept) => { d1 with take := k }
  | (k, .truncated) => Desk.raise .takeTruncated { d1 with take := k, auto := d1.auto.markDamaged }
  | (k, .overrun) => Desk.raise .takeOverrun { d1 with take := k, auto := d1.auto.markDamaged }

/-! ## Opening and closing passes (R123, R124, R132) -/

/-- R123: the punch window is absent or holds the tick. -/
def Auto.windowHolds (a : Auto) (t : Tick) : Bool :=
  match a.window with
  | none => true
  | some (inTick, outTick) => inTick ≤ t && t < outTick

/-- R123: the first three recording conditions. -/
def Desk.mayRecord (e : Env) (c : Fin 176) (t : Tick) (d : Desk) : Bool :=
  e.pos.state == .rolling && d.auto.windowHolds t && !(d.control c).safe

/-- R124 steps 1 to 3: the pass opens at tick `t`; its place in the queue is reserved (R164). -/
def Desk.openPass (c : Fin 176) (t : Tick) (d : Desk) : Desk :=
  let x := d.control c
  let p : OpenPass :=
    { serial := d.auto.nextSerial, mode := x.mode, punchIn := t, latest := t, glideStart := none, damaged := false,
      driverLost := false }
  let d1 := d.setControl c { x with openPass := some p, pass := .writing }
  { d1 with
    auto := { d1.auto with nextSerial := d1.auto.nextSerial + 1, openCount := d1.auto.openCount + 1 },
    take := d1.take.reserve }

/-- R132 step 3, R122: the pass state without an open pass. -/
def Control.restState (x : Control) : PassState :=
  match x.mode with
  | .off | .read => .idle
  | .touch | .latch => if x.touched then .primed else .idle
  | .write => .primed

/-- The summary of a pass as it closes (R132 step 1, R165). The punch-out tick is the last tick taken with the pass open, also
where a chase that stepped backward has put it before the punch-in tick, which R165 excludes in the same row (the model's
choice, log 35). -/
def OpenPass.record (p : OpenPass) (c : Fin 176) (r : CloseReason) : PassRecord :=
  { serial := p.serial, control := c, mode := p.mode, punchIn := p.punchIn, punchOut := p.latest, reason := r,
    damaged := p.damaged, driverLost := p.driverLost, glideStart := p.glideStart }

/-- R132 step 2: the open-pass count falls by one, and TAKE is told when it reaches 0. -/
def Desk.countClosed (d : Desk) : Desk :=
  let n := d.auto.openCount - 1
  let d1 := { d with auto := { d.auto with openCount := n } }
  if n = 0 then { d1 with take := d1.take.lastPassClosed } else d1

/-- R132: the control's open pass, if any, closes with the reason. -/
def Desk.closePass (e : Env) (r : CloseReason) (c : Fin 176) (d : Desk) : Desk :=
  let x := d.control c
  match x.openPass with
  | none => d
  | some p =>
    let d1 := { d with take := d.take.file (p.record c r) }
    let d2 := (d1.setControl c { x with openPass := none, glide := none, pass := x.restState }).countClosed
    Desk.decideApplied e c d2

/-- Every open pass closes with the reason, in ascending control id order (R132). -/
def Desk.closeAll (e : Env) (r : CloseReason) (d : Desk) : Desk := d.each allControls (Desk.closePass e r)

/-- R133: what AUTO does with a transport event. -/
def Desk.takeEvent (e : Env) (v : PosEvent) (d : Desk) : Desk :=
  match v with
  | .stop => d.closeAll e .stop
  | .jump => d.closeAll e .jump
  | .reverse => d.closeAll e .reverse
  | .refLost | .clockLost => d.closeAll e .ref
  | .roll | .framing => d

/-! ## Touch and release (R126 to R128, R131) -/

/-- The control becomes PRIMED and its applied value is decided afresh. -/
def Desk.prime (e : Env) (c : Fin 176) (d : Desk) : Desk :=
  Desk.decideApplied e c (d.setControl c { d.control c with pass := .primed })

/-- R124 step 5: the control's last move lies at the tick, left there since the tick was produced. -/
def Control.movedAt (t : Tick) (x : Control) : Bool :=
  match x.lastMove with
  | some m => m.tick == t && m.current
  | none => false

/-- R124: an opening between ticks, at the current tick. -/
def Desk.openBetween (e : Env) (c : Fin 176) (t : Tick) (d : Desk) : Desk :=
  let d1 := Desk.decideApplied e c (d.openPass c t)
  if (d1.control c).movedAt t then d1 else d1.appendMove c t

/-- R126: a touch of an idle TOUCH or LATCH control opens a pass at the current tick or primes the control. -/
def Desk.touchIdle (e : Env) (c : Fin 176) (d : Desk) : Desk :=
  match e.pos.tick with
  | some t =>
    if d.mayRecord e c t then
      if d.take.room then d.openBetween e c t else (d.raise .passFull).prime e c
    else d.prime e c
  | none => d.prime e c

/-- R128: a pass that was gliding or holding is taken back. -/
def Desk.takeBack (e : Env) (c : Fin 176) (d : Desk) : Desk :=
  let x := d.control c
  Desk.decideApplied e c
    (d.setControl c { x with pass := .writing, glide := none,
                             openPass := x.openPass.map fun p => { p with glideStart := none } })

/-- R115, R126, R128: a touch reaches a control. -/
def Desk.touchControl (e : Env) (c : Fin 176) (d : Desk) : Desk :=
  let d1 := d.setControl c { d.control c with touched := true }
  match (d1.control c).mode, (d1.control c).pass with
  | .touch, .idle | .latch, .idle => d1.touchIdle e c
  | .touch, .gliding | .latch, .gliding | .touch, .holding | .latch, .holding => d1.takeBack e c
  | _, _ => d1

/-- R127: the return to playback of a TOUCH-mode control. -/
def Desk.beginGlide (e : Env) (c : Fin 176) (d : Desk) : Desk :=
  let x := d.control c
  if x.glideLength = 0 then d.closePass e .release c
  else
    d.setControl c { x with pass := .gliding,
                            openPass := x.openPass.map fun p => { p with glideStart := e.pos.tick },
                            glide := some { start := x.applied, length := x.glideLength.toNat, taken := 0 } }

/-- R131: DRIVER_LOST is set on the control's open pass. -/
def Desk.markDriverLost (c : Fin 176) (d : Desk) : Desk :=
  let x := d.control c
  d.setControl c { x with openPass := x.openPass.map fun p => { p with driverLost := true } }

/-- R115, R126 to R128, R131: a release reaches a control; `lost` marks a driver lost. -/
def Desk.releaseControl (e : Env) (lost : Bool) (c : Fin 176) (d : Desk) : Desk :=
  let d0 := d.setControl c { d.control c with touched := false }
  let d1 := if lost then d0.markDriverLost c else d0
  match (d1.control c).mode, (d1.control c).pass with
  | .touch, .writing => d1.beginGlide e c
  | .latch, .writing => d1.setControl c { d1.control c with pass := .holding }
  | .touch, .primed | .latch, .primed =>
    Desk.decideApplied e c (d1.setControl c { d1.control c with pass := .idle })
  | _, _ => d1

/-! ## One tick (R138) -/

/-- A tick is produced: every last move is now one of an earlier tick (R124 step 5). -/
def Auto.ageMoves (a : Auto) : Auto :=
  { a with controls := a.controls.map fun x =>
      { x with lastMove := x.lastMove.map fun m => { m with current := false } } }

def Desk.ageMoves (d : Desk) : Desk := { d with auto := d.auto.ageMoves }

/-- R137: the pending abort fires. -/
def Desk.fireAbort (e : Env) (d : Desk) : Desk :=
  let n := d.auto.openCount
  let d1 := d.closeAll e .abort
  { d1 with auto := { d1.auto with pendingAbort := false } }.completeAbort (.fired n)

/-- R138 step 1. -/
def Desk.tickAbort (e : Env) (t : MadeTick) (d : Desk) : Desk :=
  if t.crossing && d.auto.pendingAbort then d.fireAbort e else d

/-- R138 step 2, R134. -/
def Desk.tickWindow (e : Env) (t : MadeTick) (d : Desk) : Desk :=
  match d.auto.window with
  | some (_, outTick) => if outTick ≤ t.index then d.closeAll e .window else d
  | none => d

/-- R118: the control takes its value in force at the tick, or keeps its playback value. -/
def Desk.takePlayback (e : Env) (t : Tick) (c : Fin 176) (d : Desk) : Desk :=
  match e.play.inForce t c with
  | some v => d.setControl c { d.control c with playback := v }
  | none => d

/-- The live controls, in ascending control id order. -/
def Env.liveControls (e : Env) : List (Fin 176) := allControls.filter e.live

/-- R138 step 4. -/
def Desk.tickGlide (c : Fin 176) (d : Desk) : Desk :=
  let x := d.control c
  match x.pass, x.glide with
  | .gliding, some g => d.setControl c { x with glide := some { g with taken := g.taken + 1 } }
  | _, _ => d

/-- R138 step 5, R123: a PRIMED control whose recording conditions hold opens a pass at the tick. -/
def Desk.tickPunchIn (e : Env) (t : Tick) (c : Fin 176) (d : Desk) : Desk :=
  if (d.control c).pass = .primed ∧ d.mayRecord e c t then
    if d.take.room then d.openPass c t else d.raise .passFull
  else d

/-- R138 step 6: for a gliding control the glide value, for every other the value of R120. -/
def Desk.tickApplied (e : Env) (c : Fin 176) (d : Desk) : Desk :=
  let x := d.control c
  match x.pass, x.glide with
  | .gliding, some g => Desk.apply e c (glideValue g.start x.playback g.taken g.length) d
  | _, _ => Desk.decideApplied e c d

/-- R125: the applied value differs from the value of the control's last move. -/
def Control.moved (x : Control) : Bool := x.lastMove.map (·.value) != some x.applied

/-- R138 step 7: in ROLLING an open pass appends its move; the tick becomes its latest tick. `opened` says the pass opened
at step 5 of this tick, which always appends its opening move. The latest tick may lie before the punch-in tick (log 35). -/
def Desk.tickMove (e : Env) (t : Tick) (opened : Bool) (c : Fin 176) (d : Desk) : Desk :=
  if (d.control c).openPass.isSome then
    let d1 := if e.pos.state = .rolling ∧ (opened ∨ (d.control c).moved) then d.appendMove c t else d
    d1.setControl c { d1.control c with openPass := (d1.control c).openPass.map fun p => { p with latest := t } }
  else d

/-- R138 step 8, R127: a glide whose count has reached its length closes its pass. -/
def Desk.tickGlideEnd (e : Env) (c : Fin 176) (d : Desk) : Desk :=
  match (d.control c).pass, (d.control c).glide with
  | .gliding, some g => if g.length ≤ g.taken then d.closePass e .release c else d
  | _, _ => d

/-- R138: AUTO takes one tick. -/
def Desk.takeTick (e : Env) (t : MadeTick) (d : Desk) : Desk :=
  let live := e.liveControls
  let d2 := (d.ageMoves.tickAbort e t).tickWindow e t
  let d3 := d2.each live (Desk.takePlayback e t.index)
  let d4 := d3.each live Desk.tickGlide
  let d5 := d4.each live (Desk.tickPunchIn e t.index)
  let d6 := d5.each live (Desk.tickApplied e)
  let d7 := d6.each live fun c d =>
    d.tickMove e t.index ((d4.control c).openPass.isNone && (d5.control c).openPass.isSome) c
  d7.each live (Desk.tickGlideEnd e)

/-- R119: a catch-up at the current tick. -/
def Desk.catchUp (e : Env) (t : Tick) (d : Desk) : Desk :=
  (d.each e.liveControls (Desk.takePlayback e t)).each e.liveControls (Desk.decideApplied e)

end Sys2Proof.Machine
end

