-- ==== Sys2Proof/Machine/Homes.lean ====
section
/-!
DEFINITION. HOME: the driver table, the lease, surface values at the home, and the requester of a bus homed elsewhere
(chapter 6).
-/

namespace Sys2Proof.Machine

/-- A mute as a control's value. -/
def muteValue (m : Bool) : Value := if m then 1 else 0

/-- A touch is delivered to both bus controls, to MASTER before MASTER MUTE (the model's choice: R100, R103 and R124 give no
order, log 30). -/
def Desk.touchBoth (e : Env) (b : Fin 24) (d : Desk) : Desk :=
  Desk.touchControl e (masterMuteId b) (Desk.touchControl e (masterId b) d)

/-- A release is delivered to both bus controls. -/
def Desk.releaseBoth (e : Env) (lost : Bool) (b : Fin 24) (d : Desk) : Desk :=
  Desk.releaseControl e lost (masterMuteId b) (Desk.releaseControl e lost (masterId b) d)

/-- The driver entry of a homed bus is written, its lease at 0. -/
def Desk.setDriver (b : Fin 24) (x : Option Nat) (d : Desk) : Desk :=
  d.setHome b { d.homeOf b with driver := x, lease := 0 }

/-- Surface values for both bus controls, MASTER first. -/
def Desk.setBusSurface (e : Env) (b : Fin 24) (level mute : Value) (d : Desk) : Desk :=
  Desk.setSurface e (masterMuteId b) mute (Desk.setSurface e (masterId b) level d)

/-! ## Notices at the home (R100 to R102) -/

/-- R100. -/
def Desk.homeClaim (e : Env) (b : Fin 24) (x : Nat) (d : Desk) : Desk × Mark :=
  match (d.homeOf b).driver with
  | none =>
    let d1 := d.setDriver b (some x)
    ((d1.setBusSurface e b (d.control (masterId b)).applied (d.control (masterMuteId b)).applied).touchBoth e b,
      .granted)
  | some y => if y = x then (d.setDriver b (some x), .granted) else (d, .refused)

/-- R101. -/
def Desk.homeDrive (e : Env) (b : Fin 24) (x : Nat) (level : Value) (muted : Bool) (d : Desk) : Desk × Mark :=
  if (d.homeOf b).driver = some x then
    ((d.setBusSurface e b level (muteValue muted)).setDriver b (some x), .accepted)
  else (d, .ignored)

/-- R102. -/
def Desk.homeRelease (e : Env) (b : Fin 24) (x : Nat) (d : Desk) : Desk × Mark :=
  if (d.homeOf b).driver = some x then ((d.setDriver b none).releaseBoth e false b, .taken) else (d, .stale)

/-! ## The station itself at its home (R99, R103) -/

/-- R103: a touch of the bus at its home. -/
def Desk.localClaim (e : Env) (b : Fin 24) (d : Desk) : Desk :=
  match (d.homeOf b).driver with
  | none =>
    let d1 := d.setDriver b (some e.self)
    (d1.setBusSurface e b (d1.homeOf b).level (muteValue (d1.homeOf b).muted)).touchBoth e b
  | some y => if y = e.self then d else d.raise .claimRefused

/-- R103: a release of the bus at its home. -/
def Desk.localRelease (e : Env) (b : Fin 24) (d : Desk) : Desk :=
  if (d.homeOf b).driver = some e.self then (d.setDriver b none).releaseBoth e false b else d

/-- R99: a SURFACE of MASTER at the home. -/
def Desk.homeSurfaceLevel (e : Env) (b : Fin 24) (v : Value) (d : Desk) : Desk :=
  let d1 := d.setHome b { d.homeOf b with level := v }
  if d1.drivenHere e b then d1.setSurface e (masterId b) v else d1

/-- R99: a SURFACE of MASTER MUTE at the home. -/
def Desk.homeSurfaceMute (e : Env) (b : Fin 24) (m : Bool) (d : Desk) : Desk :=
  let d1 := d.setHome b { d.homeOf b with muted := m }
  if d1.drivenHere e b then d1.setSurface e (masterMuteId b) (muteValue m) else d1

/-! ## The end of a remote drive (R104, R105) -/

/-- R104, R105: the drive ends with a release marked driver lost. -/
def Desk.loseDriver (e : Env) (b : Fin 24) (d : Desk) : Desk :=
  Desk.raise .driveLost ((d.setDriver b none).releaseBoth e true b)

/-- R104: one sample event of the lease of a homed bus. -/
def Desk.leaseStep (e : Env) (b : Fin 24) (d : Desk) : Desk :=
  let h := d.homeOf b
  match h.driver with
  | none => d
  | some x =>
    if x = e.self then d
    else if 2048 ≤ h.lease + 1 then d.loseDriver e b
    else d.setHome b { h with lease := h.lease + 1 }

/-- R105: station x has left the present set. -/
def Desk.driverGone (e : Env) (x : Nat) (b : Fin 24) (d : Desk) : Desk :=
  if (d.homeOf b).driver = some x then d.loseDriver e b else d

/-! ## The requester (R106 to R111) -/

/-- The requester's claim state is written. -/
def Desk.setClaim (b : Fin 24) (c : ClaimState) (d : Desk) : Desk := d.setReq b { d.reqOf b with claim := c }

/-- A DRIVE with the current local surface values is queued. -/
def Desk.queueDrive (b : Fin 24) (d : Desk) : Desk :=
  d.queue (.drive b) .drive (levelPayload (d.reqOf b).level (d.reqOf b).muted)

def Desk.queueClaim (b : Fin 24) (d : Desk) : Desk := d.queue (.claim b) .claim 0
def Desk.queueRelease (b : Fin 24) (d : Desk) : Desk := d.queue (.claim b) .release 0

/-- The slot has a waiting entry. -/
def Desk.waits (slot : Slot) (d : Desk) : Bool := (d.note.waiting? slot).isSome

/-- R106: back to DRIVING out of RELEASING. -/
def Desk.driveAgain (b : Fin 24) (d : Desk) : Desk :=
  (d.setReq b { d.reqOf b with claim := .driving, deferred := false }).queueDrive b

/-- R106: a touch reaches the requester. -/
def Desk.reqTouch (b : Fin 24) (d : Desk) : Desk :=
  let r := d.reqOf b
  match r.claim with
  | .none => (d.queueClaim b).setClaim b .claiming
  | .cancelling => d.setClaim b .claiming
  | .releasing =>
    if r.deferred then d.driveAgain b
    else
      match d.note.waiting? (.claim b) with
      | some w =>
        if w.kind = .release then (d.withdraw (.claim b)).driveAgain b
        else d.setReq b { r with reclaim := true }
      | none => (d.queueClaim b).setReq b { r with reclaim := true }
  | .claiming | .driving => d

/-- R107, R110: a release reaches the requester. -/
def Desk.reqRelease (b : Fin 24) (d : Desk) : Desk :=
  let r := d.reqOf b
  match r.claim with
  | .claiming =>
    if d.waits (.claim b) then (d.withdraw (.claim b)).setClaim b .none else d.setClaim b .cancelling
  | .driving =>
    if d.waits (.drive b) then d.setReq b { r with claim := .releasing, deferred := true }
    else (d.queueRelease b).setReq b { r with claim := .releasing, deferred := false }
  | .releasing =>
    if r.reclaim then (d.withdraw (.claim b)).setReq b { r with reclaim := false } else d
  | .none | .cancelling => d

/-- R107: the requester's reading of a mark on a returning CLAIM. -/
inductive ClaimAnswer where
  | granted | refused | none
  deriving DecidableEq, Repr

/-- R107; a mark no home writes for a CLAIM is read as a free value says (log 12). -/
def claimAnswer (m : Mark) : ClaimAnswer :=
  match m with
  | .granted => .granted
  | .refused => .refused
  | .none => .none
  | m =>
    match (Config.claimMarkReading m.code).val with
    | 0 => .granted
    | 1 => .refused
    | _ => .none

/-- R107: the return of a CLAIM. -/
def Desk.claimReturn (b : Fin 24) (m : Mark) (d : Desk) : Desk :=
  let r := d.reqOf b
  match r.claim, claimAnswer m with
  | .claiming, .granted => (d.setReq b { r with claim := .driving, keepalive := 0 }).queueDrive b
  | .claiming, .refused => Desk.raise .claimRefused (d.setClaim b .none)
  | .claiming, .none => Desk.raise .claimUnanswered (d.setClaim b .none)
  | .cancelling, .granted => (d.queueRelease b).setReq b { r with claim := .releasing, deferred := false }
  | .cancelling, _ => d.setClaim b .none
  | _, _ => d

/-- R110: the return of a RELEASE, with any mark. -/
def Desk.releaseReturn (b : Fin 24) (d : Desk) : Desk :=
  let r := d.reqOf b
  if r.claim = .releasing then
    if r.reclaim then d.setReq b { r with claim := .claiming, reclaim := false } else d.setClaim b .none
  else d

/-- R109: the mark ends the drive; one no home writes for a DRIVE does as a free value says (log 12). -/
def driveEnds (m : Mark) : Bool :=
  match m with
  | .ignored => true
  | .accepted | .none => false
  | m => Config.driveMarkEnds m.code

/-- R109, R111: a drive in DRIVING is lost. -/
def Desk.dropDrive (b : Fin 24) (d : Desk) : Desk :=
  Desk.raise .driveLost ((d.withdraw (.drive b)).setClaim b .none)

/-- R109: the return of a DRIVE. -/
def Desk.driveReturn (b : Fin 24) (m : Mark) (d : Desk) : Desk :=
  if (d.reqOf b).claim = .driving ∧ driveEnds m then d.dropDrive b else d

/-- R108, R110: NOTE reports a DRIVE placed. -/
def Desk.drivePlaced (b : Fin 24) (d : Desk) : Desk :=
  let r := d.reqOf b
  let d1 := d.setReq b { r with keepalive := 0 }
  if r.claim = .releasing ∧ r.deferred then
    (d1.queueRelease b).setReq b { r with keepalive := 0, deferred := false }
  else d1

/-- R108: one sample event of the keepalive count. -/
def Desk.keepaliveStep (b : Fin 24) (d : Desk) : Desk :=
  let r := d.reqOf b
  if (r.claim = .driving ∨ r.claim = .releasing) ∧ r.keepalive < 512 then
    let d1 := d.setReq b { r with keepalive := r.keepalive + 1 }
    if r.keepalive = 511 ∧ r.claim = .driving then d1.queueDrive b else d1
  else d

/-- R108, R110: a SURFACE of MASTER at the requester. -/
def Desk.reqSurfaceLevel (b : Fin 24) (v : Value) (d : Desk) : Desk :=
  let d1 := d.setReq b { d.reqOf b with level := v }
  if (d.reqOf b).claim = .driving then d1.queueDrive b else d1

/-- R108, R110: a SURFACE of MASTER MUTE at the requester. -/
def Desk.reqSurfaceMute (b : Fin 24) (m : Bool) (d : Desk) : Desk :=
  let d1 := d.setReq b { d.reqOf b with muted := m }
  if (d.reqOf b).claim = .driving then d1.queueDrive b else d1

/-- R111: an ECHO from the home. -/
def Desk.reqEcho (b : Fin 24) (level : Value) (muted : Bool) (d : Desk) : Desk :=
  let d1 := d.setReq b { d.reqOf b with echo := some (level, muted) }
  if (d.reqOf b).claim = .driving then d1 else d1.drive (.bus b) level

/-- R111: station x has left the present set, and homes bus b under this plan. -/
def Desk.homeGone (e : Env) (x : Nat) (b : Fin 24) (d : Desk) : Desk :=
  if (e.bus? b).map (·.home) = some x ∧ (d.reqOf b).claim = .driving then d.dropDrive b else d

/-! ## LEAVE (R113) -/

/-- R113, the home's side. -/
def Desk.leaveHome (e : Env) (b : Fin 24) (d : Desk) : Desk :=
  match (d.homeOf b).driver with
  | none => d
  | some _ => (d.setDriver b none).releaseBoth e false b

/-- R113, the requester's side. -/
def Desk.leaveReq (b : Fin 24) (d : Desk) : Desk :=
  d.setReq b { d.reqOf b with claim := .none, deferred := false, reclaim := false, keepalive := 0 }

/-! ## The settle factor (R97) -/

/-- R97: one sample event of the settle factor; `counting` says that the settle counter was above 0 before it. -/
def riseStep (rate96 counting : Bool) (rise : Option Nat) : Option Nat :=
  if counting then some 0
  else
    match rise with
    | none => none
    | some n => if (if rate96 then 1000 else 500) ≤ n + 1 then none else some (n + 1)

/-- The settle factor, as a gain. -/
def settleGain (rate96 : Bool) (rise : Option Nat) : Gain :=
  match rise with
  | none => Gain.one
  | some n => Gain.ratio n (if rate96 then 1000 else 500)

end Sys2Proof.Machine
end

