-- ==== Sys2Proof/Machine/Strips.lean ====
section
/-!
DEFINITION. STRIP and the audio of one sample event: solo bits, zone solo table and gates, send outputs and their
histories, home outputs and the stem stream, contributions and lanes (chapters 2, 4 and 6).
-/

namespace Sys2Proof.Machine

def allStrips : List (Fin 32) := List.finRange 32
def allZones : List (Fin 4) := List.finRange 4

/-! ## Console solo (R76 to R80) -/

/-- The zone of the bus a send feeds. -/
def Env.zoneOf? (e : Env) (send : Option Dest) : Option (Fin 4) :=
  match send with
  | some x => (e.bus? x.bus).map (·.zone)
  | none => none

/-- R76: the strip's solo counts for zone z. -/
def Strip.solosZone (e : Env) (x : Strip) (z : Fin 4) : Bool :=
  x.solo && (e.zoneOf? x.send1 == some z || e.zoneOf? x.send2 == some z)

/-- R76: the station's own zone solo bits from its strips. -/
def Desk.soloBits (e : Env) (d : Desk) : SoloBits :=
  allZones.foldl (fun bits z =>
    if d.strip.strips.toList.any (fun x => x.solosZone e z) then bits ||| BitVec.twoPow 4 z.val else bits) 0

/-- R77: the zone solo table takes four bits for station x. -/
def Desk.setZones (x : Nat) (bits : SoloBits) (d : Desk) : Desk :=
  let zones := Vector.ofFn fun z : Fin 4 =>
    if bits.getLsbD z.val then StationSet.add d.strip.zones[z] x else StationSet.remove d.strip.zones[z] x
  { d with strip := { d.strip with zones := zones } }

/-- R79: the zone is solo-active. -/
def Desk.soloActive (d : Desk) (z : Fin 4) : Bool := d.strip.zones[z] != 0

/-- The solo-active indications of the four zones, as bits. -/
def Desk.activeBits (d : Desk) : SoloBits :=
  allZones.foldl (fun bits z => if d.soloActive z then bits ||| BitVec.twoPow 4 z.val else bits) 0

/-- R79: the gate of one send. -/
def Desk.gateOpen (e : Env) (d : Desk) (x : Strip) (send : Option Dest) : Bool :=
  match e.zoneOf? send with
  | some z => !d.soloActive z || x.solo || x.safe
  | none => true

def gateGain (opened : Bool) : Gain := if opened then Gain.one else Gain.zero

/-- R79, R80: both gates of one strip. -/
def Desk.regateStrip (e : Env) (s : Fin 32) (d : Desk) : Desk :=
  let x := d.stripOf s
  Desk.retarget (.gate2 s) (gateGain (d.gateOpen e x x.send2))
    (Desk.retarget (.gate1 s) (gateGain (d.gateOpen e x x.send1)) d)

/-- R79: every gate of every strip is recomputed. -/
def Desk.regate (e : Env) (d : Desk) : Desk := d.each allStrips (Desk.regateStrip e)

/-- R76: the own bits are recomputed; a change enters the table and queues a SOLO. -/
def Desk.resolo (e : Env) (d : Desk) : Desk :=
  let bits := d.soloBits e
  if bits = d.strip.ownBits then d
  else
    let d1 := { d with strip := { d.strip with ownBits := bits } }
    (d1.setZones e.self bits).queue .solo .solo (soloPayload bits)

/-- R70, R75: solo bits and gates after a ROUTE or a SOLO. -/
def Desk.resoloAll (e : Env) (d : Desk) : Desk := (d.resolo e).regate e

/-- R77: NOTE hands over the solo bits of station x. -/
def Desk.stationSolo (e : Env) (x : Nat) (bits : SoloBits) (d : Desk) : Desk :=
  if x = e.self then d else (d.setZones x bits).regate e

/-- R78: station x leaves the zone solo table. -/
def Desk.stationGone (e : Env) (x : Nat) (d : Desk) : Desk := (d.setZones x 0).regate e

/-! ## Saturation -/

/-- Saturation to n bits, signed. -/
def saturate (n : Nat) (x : Int) : Int := max (-(2 ^ (n - 1) : Int)) (min (2 ^ (n - 1) - 1 : Int) x)

/-! ## Factors, home outputs and send outputs (R72, R94) -/

/-- One sample event of the six factors of a strip. -/
def Strip.advance (L : Nat) (x : Strip) : Strip :=
  { x with level := x.level.advance L, mute := x.mute.advance L, fsend1 := x.fsend1.advance L,
           fsend2 := x.fsend2.advance L, gate1 := x.gate1.advance L, gate2 := x.gate2.advance L }

def Home.advance (L : Nat) (x : Home) : Home := { x with master := x.master.advance L, mute := x.mute.advance L }

/-- One sample event of every factor. -/
def Desk.advanceAll (L : Nat) (d : Desk) : Desk :=
  { d with strip := { d.strip with strips := d.strip.strips.map (Strip.advance L) },
           home := { d.home with homes := d.home.homes.map (Home.advance L) } }

/-- R73: the six factors of a strip. -/
def Strip.fixLengths (L : Nat) (x : Strip) : Strip :=
  { x with level := x.level.fix L, mute := x.mute.fix L, fsend1 := x.fsend1.fix L, fsend2 := x.fsend2.fix L,
           gate1 := x.gate1.fix L, gate2 := x.gate2.fix L }

def Home.fixLengths (L : Nat) (x : Home) : Home := { x with master := x.master.fix L, mute := x.mute.fix L }

/-- R73: the length of every ramp whose change has been taken is fixed. -/
def Desk.fixLengths (L : Nat) (d : Desk) : Desk :=
  { d with strip := { d.strip with strips := d.strip.strips.map (Strip.fixLengths L) },
           home := { d.home with homes := d.home.homes.map (Home.fixLengths L) } }

/-- The bus a lane belongs to; none for an idle lane. -/
def Env.busOfLane? (e : Env) (n : Nat) : Option (Fin 24 × Bus) :=
  allBuses.findSome? fun b =>
    match e.bus? b with
    | some x => if x.first ≤ n && n < x.first + x.width then some (b, x) else none
    | none => none

/-- R94: the output of a lane of homed bus b for the lap sum handed over. -/
def Desk.homeOutput (d : Desk) (settle : Gain) (b : Fin 24) (lap : Int) : Int :=
  saturate 24 (Gain.round lap (((d.homeOf b).master.value.mul (d.homeOf b).mute.value).mul settle))

/-- R28, R32, R34: the lap sum of a lane: the arriving value, or zero where there is no good frame. -/
def lapOf (arriving : Option (Vector Lane 128)) (n : Nat) : Int :=
  match arriving with
  | some l => (l.toList.getD n 0).toInt
  | none => 0

/-- R94: the home output of a lane of a bus homed here; zero for any other lane. -/
def Desk.laneOutput (e : Env) (settle : Gain) (arriving : Option (Vector Lane 128)) (n : Nat) (d : Desk) : Int :=
  match e.busOfLane? n with
  | some (b, _) => if e.homesBus b then d.homeOutput settle b (lapOf arriving n) else 0
  | none => 0

/-- R95: the stem output stream of one sample event. -/
def Desk.stemStream (e : Env) (settle : Gain) (arriving : Option (Vector Lane 128)) (d : Desk) : Vector Sample 128 :=
  Vector.ofFn fun n : Fin 128 =>
    match e.busOfLane? n.val with
    | some (_, x) => if x.kind = .stem then BitVec.ofInt 24 (d.laneOutput e settle arriving n.val) else 0
    | none => 0

/-- R65 to R67: the source sample of strip s. -/
def Desk.sourceSample (e : Env) (settle : Gain) (arriving : Option (Vector Lane 128)) (samples : Vector Sample 32)
    (s : Fin 32) (d : Desk) : Int :=
  match (d.stripOf s).source with
  | .none => 0
  | .input => samples[s].toInt
  | .ret b k =>
    match e.bus? b with
    | some x => d.laneOutput e settle arriving (x.first + k)
    | none => 0

/-- R72: the output of a send of a strip. -/
def Strip.sendOutput (x : Strip) (send gate : Factor) (source : Int) : Lane :=
  BitVec.ofInt 32 (Gain.round source (((x.level.value.mul x.mute.value).mul send.value).mul gate.value))

/-- R30: a history takes the output of the current instant. -/
def pushHistory (v : Lane) (h : List Lane) : List Lane := (v :: h).take 48

/-- R72, R30: both send outputs of a strip are formed and written. -/
def Strip.form (x : Strip) (source : Int) : Strip :=
  { x with hist1 := pushHistory (x.sendOutput x.fsend1 x.gate1 source) x.hist1,
           hist2 := pushHistory (x.sendOutput x.fsend2 x.gate2 source) x.hist2 }

/-- R72: the outputs of all strips for the instant, from the home outputs of the same instant (R66). -/
def Desk.formOutputs (e : Env) (settle : Gain) (arriving : Option (Vector Lane 128)) (samples : Vector Sample 32)
    (d : Desk) : Desk :=
  let strips := Vector.ofFn fun s : Fin 32 => (d.stripOf s).form (d.sourceSample e settle arriving samples s)
  { d with strip := { d.strip with strips := strips } }

/-! ## Contributions and lanes (R26, R28 to R31) -/

/-- R26: the distance of station s from home h: the present stations passed going forward from h to s, s counted. -/
def distance (present : StationSet) (h s : Nat) : Nat :=
  (allStations.filter fun x =>
    StationSet.has present x && 0 < (x + 24 - h) % 24 && (x + 24 - h) % 24 ≤ (s + 24 - h) % 24).length

/-- R29: the lookback of a send: the distance, and P for an INPUT strip into a STEM. -/
def lookback (e : Env) (present : StationSet) (x : Bus) (src : Source) : Nat :=
  distance present x.home e.self +
    (match src, x.kind with
     | .input, .stem => StationSet.count present
     | _, _ => 0)

/-- R29: what one send of a strip puts into lane n. -/
def sendInto (e : Env) (present : StationSet) (n : Nat) (src : Source) (send : Option Dest) (hist : List Lane) : Int :=
  match send with
  | some t =>
    match e.bus? t.bus with
    | some x => if x.first + t.offset = n then (hist.getD (lookback e present x src) 0).toInt else 0
    | none => 0
  | none => 0

/-- R29: the station's own contribution for lane n. -/
def Desk.contribution (e : Env) (present : StationSet) (n : Nat) (d : Desk) : Int :=
  saturate 32 (d.strip.strips.toList.foldl (fun a x =>
    a + sendInto e present n x.source x.send1 x.hist1 + sendInto e present n x.source x.send2 x.hist2) 0)

/-- R28, R31, R32, R34: what lane n of the emitted frame carries. -/
def Desk.laneOut (e : Env) (present : StationSet) (contributes : Bool) (arriving : Option (Vector Lane 128))
    (n : Nat) (d : Desk) : Lane :=
  match e.busOfLane? n with
  | none => 0
  | some (_, x) =>
    let own := if contributes then d.contribution e present n else 0
    if !StationSet.has present x.home then 0
    else if x.home = e.self then BitVec.ofInt 32 own
    else BitVec.ofInt 32 (saturate 32 (lapOf arriving n + own))

/-- The 128 lanes of the emitted frame. -/
def Desk.lanesOut (e : Env) (present : StationSet) (contributes : Bool) (arriving : Option (Vector Lane 128))
    (d : Desk) : Vector Lane 128 :=
  Vector.ofFn fun n : Fin 128 => d.laneOut e present contributes arriving n.val

end Sys2Proof.Machine
end

