-- ==== Sys2Proof/Machine/Touches.lean ====
section
/-!
DEFINITION. TOUCH: touch targets, qualification of a line, and what TOUCHSET, MAP and SURFACE do to lines, map and targets
(chapter 5).
-/

namespace Sys2Proof.Machine

/-! ## Touch targets (R84 to R86) -/

inductive TouchTarget where
  | control (c : Fin 128)
  | bus (b : Fin 24)
  deriving DecidableEq, Repr

/-- R84: the touch target a fader is mapped to. -/
def FaderTarget.target? : FaderTarget → Option TouchTarget
  | .none => Option.none
  | .strip s => some (.control ⟨4 * s.val, by omega⟩)
  | .bus b => some (.bus b)

def Touch.target (t : Touch) : TouchTarget → TargetState
  | .control c => t.controls[c]
  | .bus b => t.buses[b]

def Touch.setTarget (x : TargetState) (k : TouchTarget) (t : Touch) : Touch :=
  match k with
  | .control c => { t with controls := t.controls.set c x }
  | .bus b => { t with buses := t.buses.set b x }

/-- R84: the target is touched. -/
def TargetState.touched (x : TargetState) : Bool := 0 < x.held || x.surfaced

/-- R84: a fader is mapped to the target. -/
def Touch.governed (t : Touch) (k : TouchTarget) : Bool := t.map.toList.any fun m => m.target? == some k

/-- R86: a touch is delivered to the target's owner. -/
def Desk.deliverTouch (e : Env) (k : TouchTarget) (d : Desk) : Desk :=
  match k with
  | .control c => d.touchControl e (stripControlId c)
  | .bus b => if e.homesBus b then d.localClaim e b else if e.requestsBus b then d.reqTouch b else d

/-- R86: a release is delivered to the target's owner. -/
def Desk.deliverRelease (e : Env) (k : TouchTarget) (d : Desk) : Desk :=
  match k with
  | .control c => d.releaseControl e false (stripControlId c)
  | .bus b => if e.homesBus b then d.localRelease e b else if e.requestsBus b then d.reqRelease b else d

/-- R85: a target's state changes; only a change between untouched and touched is delivered. -/
def Desk.changeTarget (e : Env) (k : TouchTarget) (f : TargetState → TargetState) (d : Desk) : Desk :=
  let before := d.touch.target k
  let now := f before
  let d1 := { d with touch := d.touch.setTarget now k }
  match before.touched, now.touched with
  | false, true => d1.deliverTouch e k
  | true, false => d1.deliverRelease e k
  | _, _ => d1

/-- The held count rises by one. -/
def Desk.holdTarget (e : Env) (k : Option TouchTarget) (d : Desk) : Desk :=
  match k with
  | some k => Desk.changeTarget e k (fun x => { x with held := x.held + 1 }) d
  | none => d

/-- The held count falls by one. -/
def Desk.dropTarget (e : Env) (k : Option TouchTarget) (d : Desk) : Desk :=
  match k with
  | some k => Desk.changeTarget e k (fun x => { x with held := x.held - 1 }) d
  | none => d

/-! ## One sample event of a line (R82, R83) -/

/-- Section 5.1: N, the qualify interval in sample events. -/
def intervalSamples (rate96 : Bool) (i : Fin 5) : Nat :=
  (if rate96 then 96 else 48) * (match i.val with | 0 => 0 | 1 => 1 | 2 => 2 | 3 => 4 | _ => 8)

/-- R82: the line is held. -/
def LineState.held : LineState → Bool
  | .touched | .qualifyRelease => true
  | .untouched | .qualifyTouch => false

/-- What a level read makes of a line (R82). -/
inductive LineEdge where
  | none | touch | release
  deriving DecidableEq, Repr

/-- R82: an enabled line reads its level. -/
def Line.read (N : Nat) (touched : Bool) (x : Line) : Line × LineEdge :=
  match x.state, touched with
  | .untouched, false => (x, .none)
  | .untouched, true =>
    if N = 0 then ({ x with state := .touched, count := 0 }, .touch)
    else ({ x with state := .qualifyTouch, count := 1 }, .none)
  | .qualifyTouch, true =>
    if N ≤ x.count + 1 then ({ x with state := .touched, count := 0 }, .touch)
    else ({ x with count := x.count + 1 }, .none)
  | .qualifyTouch, false => ({ x with state := .untouched, count := 0 }, .none)
  | .touched, true => (x, .none)
  | .touched, false =>
    if N = 0 then ({ x with state := .untouched, count := 0 }, .release)
    else ({ x with state := .qualifyRelease, count := 1 }, .none)
  | .qualifyRelease, false =>
    if N ≤ x.count + 1 then ({ x with state := .untouched, count := 0 }, .release)
    else ({ x with count := x.count + 1 }, .none)
  | .qualifyRelease, true => ({ x with state := .touched, count := 0 }, .none)

/-- R83: a qualified edge: latch, captured tick, delivery. -/
def Desk.lineEdge (e : Env) (f : Fin 32) (edge : LineEdge) (d : Desk) : Desk :=
  let x := d.lineOf f
  match edge with
  | .none => d
  | .touch =>
    (d.setLine f { x with touchLatch := true, lastTouch := e.pos.tick }).holdTarget e (d.touch.map[f]).target?
  | .release =>
    (d.setLine f { x with releaseLatch := true, lastRelease := e.pos.tick }).dropTarget e (d.touch.map[f]).target?

/-- R82, R83: one sample event of line f, whose level is `high`. -/
def Desk.lineStep (e : Env) (high : Bool) (f : Fin 32) (d : Desk) : Desk :=
  let x := d.lineOf f
  if x.enable then
    let r := x.read (intervalSamples e.rate96 x.interval) (high != x.activeLow)
    (d.setLine f r.1).lineEdge e f r.2
  else d

def allLines : List (Fin 32) := List.finRange 32

/-- R82: one sample event of TOUCH; lines are taken in ascending order (log 16). -/
def Desk.touchPhase (e : Env) (levels : BitVec 32) (d : Desk) : Desk :=
  d.each allLines fun f d => d.lineStep e (levels.getLsbD f.val) f

/-! ## TOUCHSET (R87) -/

/-- R87: an enabled line is disabled. -/
def Desk.disableLine (e : Env) (f : Fin 32) (d : Desk) : Desk :=
  let x := d.lineOf f
  let d1 := d.setLine f { x with enable := false, state := .untouched, count := 0, touchLatch := false,
                                 releaseLatch := false }
  if x.state.held then d1.dropTarget e (d.touch.map[f]).target? else d1

/-- R87: a taken TOUCHSET. -/
def Desk.setLineSettings (e : Env) (f : Fin 32) (enable activeLow : Bool) (interval : Fin 5) (d : Desk) : Desk :=
  let x := d.lineOf f
  let d1 := if x.enable && (!enable || activeLow != x.activeLow) then d.disableLine e f else d
  d1.setLine f { d1.lineOf f with enable := enable, activeLow := activeLow, interval := interval }

/-! ## MAP (R89) -/

/-- R89 step 5: the drive value of a new target; none removes the fader. -/
def Desk.mapDrive (e : Env) (m : FaderTarget) (d : Desk) : Option Value :=
  match m with
  | .none => none
  | .strip s => some (d.control (levelId s)).applied
  | .bus b => if e.homesBus b then some (d.control (masterId b)).applied else (d.reqOf b).echo.map (·.1)

/-- R89 step 2. -/
def Desk.ungovern (e : Env) (k : Option TouchTarget) (d : Desk) : Desk :=
  match k with
  | some k => if d.touch.governed k then d else Desk.changeTarget e k (fun x => { x with surfaced := false }) d
  | none => d

/-- R89: a MAP to another target, in the rule's order. -/
def Desk.remap (e : Env) (f : Fin 32) (m : FaderTarget) (d : Desk) : Desk :=
  let held := (d.lineOf f).state.held
  let d1 := if held then d.dropTarget e (d.touch.map[f]).target? else d
  let d2 := d1.ungovern e m.target?
  let d3 := { d2 with touch := { d2.touch with map := d2.touch.map.set f m } }
  let d4 := if held then d3.holdTarget e m.target? else d3
  { d4 with touch := { d4.touch with drives := d4.touch.drives.set f (d4.mapDrive e m) } }

/-! ## SURFACE (R90) -/

/-- The touched indication of a SURFACE. -/
inductive Indication where
  | absent | untouched | touched
  deriving DecidableEq, Repr

/-- R90: TOUCH takes the indication. -/
def Desk.indicate (e : Env) (k : TouchTarget) (i : Indication) (d : Desk) : Desk :=
  match i with
  | .absent => d
  | .touched => if d.touch.governed k then d else Desk.changeTarget e k (fun x => { x with surfaced := true }) d
  | .untouched => if d.touch.governed k then d else Desk.changeTarget e k (fun x => { x with surfaced := false }) d

end Sys2Proof.Machine
end

