-- ==== Sys2Proof/Machine/Notices.lean ====
section
/-!
DEFINITION. NOTE and the roster: changes of the present set, placement and return of notices, what a foreign notice does,
the work on the cells, deadlines, holdings and ages (chapter 3, R26, R27).
-/

namespace Sys2Proof.Machine

/-- The blocks of the desk act. -/
def State.onDesk (f : Env → Desk → Desk) (s : State) : State := { s with desk := f s.env s.desk }

/-- An event flag is set. -/
def State.raise (f : Flag) (s : State) : State := { s with desk := s.desk.raise f }

/-- R19: the relay is inserted. -/
def RingState.onRing : RingState → Bool
  | .inserted | .relocking | .conflict => true
  | .detached | .locking => false

/-! ## The roster (R26, R27) -/

/-- R27: 2P + 2. -/
def settleLength (present : StationSet) : Nat := 2 * StationSet.count present + 2

/-- R27, R105, R111, R78: a removed station is handed to HOME and to STRIP. -/
def Desk.handRemoved (e : Env) (x : Nat) (d : Desk) : Desk :=
  ((d.each e.homedBuses (Desk.driverGone e x)).each e.requestedBuses (Desk.homeGone e x)).stationGone e x

/-- The stations of one set that are not in another, ascending. -/
def stationsLost (before now : StationSet) : List Nat :=
  allStations.filter fun x => StationSet.has before x && !StationSet.has now x

/-- R27: RING applies a present set. -/
def State.applyRoster (now : StationSet) (s : State) : State :=
  let before := s.ring.present
  if now = before then s
  else
    let s1 := { s with ring := { s.ring with present := now, settle := settleLength now } }
    (s1.raise .rosterChange).onDesk fun e d => d.each (stationsLost before now) (Desk.handRemoved e)

/-! ## HOLDINGS (R55, R98) -/

/-- R55, R98: a HOLDINGS is queued with an ECHO of every homed bus, and the holdings timer becomes 0. -/
def Desk.queueHoldings (e : Env) (d : Desk) : Desk :=
  let d1 := d.queue .holdings .holdings 0
  Desk.each e.homedBuses Desk.queueEcho { d1 with note := { d1.note with timer := 0 } }

/-! ## Placement and return (R45, R47, R51) -/

/-- R56: the payload a notice is placed with. -/
def State.placedPayload (s : State) (w : Waiting) : BitVec 32 :=
  if w.kind = .holdings then
    holdingsPayload (match s.conf with | some c => c.digest | none => 0) s.desk.strip.ownBits
  else w.payload

/-- R51: NOTE tells the owner of the slot that its notice is placed. -/
def Desk.tellPlaced (slot : Slot) (d : Desk) : Desk :=
  match slot with
  | .drive b => d.drivePlaced b
  | _ => d

/-- R47, R51: an empty cell receives the oldest eligible entry. -/
def State.place (s : State) : State × BitVec 64 :=
  match s.desk.note.eligible? with
  | none => (s, 0)
  | some w =>
    let p := s.placedPayload w
    let note := s.desk.note.withdraw w.slot
    let note1 := { note with
      flight := note.flight ++ [{ slot := w.slot, kind := w.kind, payload := p, placed := s.instant }] }
    ({ s with desk := { s.desk with note := note1 }.tellPlaced w.slot },
      writeCell { kind := w.kind, origin := BitVec.ofNat 5 s.self, hop := 0, bus := BitVec.ofNat 5 (Slot.bus w.slot),
                  mark := .none, payload := p })

/-- R45, R54: the closing mark is handed to the owner of the slot. -/
def Desk.handMark (slot : Slot) (kind : NoticeKind) (m : Mark) (d : Desk) : Desk :=
  match slot, kind with
  | .claim b, .claim => d.claimReturn b m
  | .claim b, .release => d.releaseReturn b
  | .drive b, _ => d.driveReturn b m
  | _, _ => d

/-- An in-flight entry is closed with a mark (R53). -/
def Desk.closeFlight (slot : Slot) (kind : NoticeKind) (m : Mark) (d : Desk) : Desk :=
  Desk.handMark slot kind m { d with note := d.note.close slot }

/-- R45: the station's own notice has come back. -/
def State.strip (n : Notice) (s : State) : State :=
  match slotOf? n.kind n.bus.toNat with
  | some slot =>
    match s.desk.note.flight? slot with
    | some f =>
      if f.placed + n.hop.toNat + 1 = s.instant then { s with desk := s.desk.closeFlight slot n.kind n.mark } else s
    | none => s
  | none => s

/-! ## Foreign notices (R48, R57, R60, R61) -/

/-- The bus number as a bus of the plan homed here. -/
def Env.homedBus? (e : Env) (n : Nat) : Option (Fin 24) :=
  if h : n < 24 then if e.homesBus ⟨n, h⟩ then some ⟨n, h⟩ else none else none

/-- The bus number as a bus of the plan homed elsewhere. -/
def Env.requestedBus? (e : Env) (n : Nat) : Option (Fin 24) :=
  if h : n < 24 then if e.requestsBus ⟨n, h⟩ then some ⟨n, h⟩ else none else none

/-- R48: HOME answers a CLAIM, DRIVE or RELEASE of a bus it homes. -/
def Desk.answer (e : Env) (b : Fin 24) (n : Notice) (d : Desk) : Desk × Mark :=
  match n.kind with
  | .claim => d.homeClaim e b n.origin.toNat
  | .drive => d.homeDrive e b n.origin.toNat (payloadLevel n.payload) (payloadMuted n.payload)
  | .release => d.homeRelease e b n.origin.toNat
  | _ => (d, n.mark)

/-- R43, R48: the notice with the mark HOME writes, where it homes the bus and the mark is NONE. -/
def State.actAnswered (n : Notice) (s : State) : State × Notice :=
  match s.env.homedBus? n.bus.toNat with
  | some b =>
    if n.mark = .none then
      let r := s.desk.answer s.env b n
      ({ s with desk := r.1 }, { n with mark := r.2 })
    else (s, n)
  | none => (s, n)

/-- R48, R111: an ECHO from the home of a bus homed elsewhere. -/
def State.actEcho (n : Notice) (s : State) : State :=
  match s.env.requestedBus? n.bus.toNat with
  | some b =>
    if (s.env.bus? b).map (·.home) = some n.origin.toNat then
      { s with desk := s.desk.reqEcho b (payloadLevel n.payload) (payloadMuted n.payload) }
    else s
  | none => s

/-- R48, R61. -/
def State.actSolo (n : Notice) (s : State) : State :=
  if StationSet.has s.ring.present n.origin.toNat then
    s.onDesk fun e d => d.stationSolo e n.origin.toNat (payloadSolo n.payload)
  else s

/-- R39: a HOLDINGS with a differing digest. -/
def State.mismatch (s : State) : State :=
  Machine.State.raise .planMismatch
    (match s.ring.state with
     | .inserted | .relocking => { s with ring := { s.ring with state := .conflict } }
     | _ => s)

/-- The digest differs from the station's own. -/
def State.differs (s : State) (digest : BitVec 16) : Bool := s.conf.map (·.digest) != some digest

/-- R57, in its order. -/
def State.actHoldings (n : Notice) (s : State) : State :=
  let x := n.origin.toNat
  let s1 := s.applyRoster (StationSet.add s.ring.present x)
  let s2 := { s1 with desk := { s1.desk with note :=
    { s1.desk.note with ages := s1.desk.note.ages.setIfInBounds x (some 0) } } }
  let s3 := s2.onDesk fun e d => d.stationSolo e x (payloadHoldingsSolo n.payload)
  if s3.differs (payloadDigest n.payload) then s3.mismatch else s3

/-- Station x lies strictly between a and b, counting forward in ring order; with a equal to b every other station does
(section 2.1, R60). -/
def strictlyBetween (a b x : Nat) : Bool :=
  if a = b then x != a else 0 < (x + 24 - a) % 24 && (x + 24 - a) % 24 < (b + 24 - a) % 24

/-- R60: the present set after a ROSTER from announcer a with payload e. -/
def rosterAfter (self a e : Nat) (present : StationSet) : StationSet :=
  stationsWhere fun x =>
    x == e || x == a || (StationSet.has present x && (x == self || !strictlyBetween e a x))

/-- R60. -/
def State.actRoster (n : Notice) (s : State) : State :=
  let e := payloadRoster n.payload
  if e < 24 then s.applyRoster (rosterAfter s.self n.origin.toNat e s.ring.present) else s

/-- R48: a foreign notice is acted on. -/
def State.act (n : Notice) (s : State) : State × Notice :=
  if n.origin.toNat < 24 then
    match n.kind with
    | .claim | .drive | .release => s.actAnswered n
    | .echo => (s.actEcho n, n)
    | .solo => (s.actSolo n, n)
    | .holdings => (s.actHoldings n, n)
    | .roster => (s.actRoster n, n)
  else (s, n)

/-- R46: the cell a forwarded notice leaves in; empty above the hop limit. -/
def forward (n : Notice) : BitVec 64 :=
  if 48 < n.hop.toNat + 1 then 0 else writeCell { n with hop := n.hop + 1 }

/-! ## The cells of one arrival (R44) -/

/-- R44 to R47: the work on one cell. -/
def State.workCell (c : BitVec 64) (s : State) : State × BitVec 64 :=
  match readCell c with
  | .empty => s.place
  | .unreadable =>
    let s1 := { s with free := s.free + 1 }
    if Config.placesIntoUnreadable s.free then s1.place else (s1, 0)
  | .notice n =>
    if n.origin.toNat = s.self then (s.strip n, 0)
    else
      let r := s.act n
      (r.1, forward r.2)

/-- R44: the four cells in order. -/
def State.workCells (cells : Vector (BitVec 64) 4) (s : State) : State × Vector (BitVec 64) 4 :=
  let r0 := s.workCell cells[0]
  let r1 := r0.1.workCell cells[1]
  let r2 := r1.1.workCell cells[2]
  let r3 := r2.1.workCell cells[3]
  (r3.1, #v[r0.2, r1.2, r2.2, r3.2])

/-- R44: at a bad frame or a silent sample, placement only. -/
def State.placeCells (s : State) : State × Vector (BitVec 64) 4 := s.workCells (Vector.replicate 4 0)

/-! ## Counts of sample events (R54, R55, R58) -/

/-- R54: the entry's deadline has passed. -/
def Flight.overdue (instant : Nat) (f : Flight) : Bool := f.placed + 96 ≤ instant

/-- R54: the overdue entry of a slot is closed with the mark NONE. -/
def State.expireFlight (slot : Slot) (s : State) : State :=
  match s.desk.note.flight? slot with
  | some f => if f.overdue s.instant then { s with desk := s.desk.closeFlight slot f.kind .none } else s
  | none => s

/-- R54: every deadline, in the order of the table (log 16). -/
def State.expireFlights (s : State) : State :=
  (s.desk.note.flight.map (·.slot)).foldl (fun s slot => s.expireFlight slot) s

/-- R58: one sample event of one age. -/
def ageStep (a : Option Nat) : Option Nat := a.map fun n => if n < 4096 then n + 1 else n

/-- R58: the age reaches 4096 at this sample event. -/
def ageExpires (a : Option Nat) : Bool := a == some 4095

/-- R58: one sample event of station x's age. -/
def Desk.ageOf (e : Env) (x : Fin 24) (d : Desk) : Desk :=
  let a := d.note.ages[x]
  let d1 := { d with note := { d.note with ages := d.note.ages.set x (ageStep a) } }
  if ageExpires a then d1.stationGone e x.val else d1

/-- R55: one sample event of the holdings timer. -/
def Desk.timerStep (e : Env) (d : Desk) : Desk :=
  if 1024 ≤ d.note.timer + 1 then d.queueHoldings e
  else { d with note := { d.note with timer := d.note.timer + 1 } }

end Sys2Proof.Machine
end

