-- ==== Sys2Proof/Machine/Ring.lean ====
section
/-!
DEFINITION. RING: arrivals, adoption, relocking, silence and break head, the emitter check, and the phases of a JOIN
(chapter 2).
-/

namespace Sys2Proof.Machine

/-- R20: the tag count advances at every sample event. -/
def Ring.advanceTag (r : Ring) : Ring := { r with tag := r.tag + 1 }

/-- R21, R183: the arriving frame is good. -/
def Ring.good (f : WireFrame) (r : Ring) : Bool :=
  checkRight f && headerRight f && f.tag + 1 == r.tag && f.origin.toNat == r.origin

/-- R21: the consistency run takes an arrival. -/
def Ring.countRun (f : WireFrame) (r : Ring) : Ring :=
  let run :=
    if !checkRight f || !headerRight f then 0
    else if r.prev = some (f.tag - 1, f.origin) then r.run + 1
    else 1
  { r with run := run, prev := some (f.tag, f.origin) }

/-- R22, R23: the numbering of the upstream is adopted. -/
def Ring.adopt (f : WireFrame) (r : Ring) : Ring := { r with tag := f.tag + 1, origin := f.origin.toNat }

/-- R22 in LOCKING: any origin. -/
def Ring.adoptLocking (f : WireFrame) (r : Ring) : Ring :=
  if 8 ≤ r.run ∧ r.good f = false then r.adopt f else r

/-- R22 in RELOCKING: the condition on the origin. -/
def Ring.adoptRelocking (self : Nat) (f : WireFrame) (r : Ring) : Ring :=
  if 8 ≤ r.run ∧ r.good f = false ∧ (f.origin.toNat ≤ r.origin ∨ r.origin ≠ self) then r.adopt f else r

/-- R23 in INSERTED: a lower origin, at the eighth frame of the run. -/
def Ring.adoptInserted (f : WireFrame) (r : Ring) : Ring :=
  if r.run = 8 ∧ f.origin.toNat < r.origin then
    { r.adopt f with badRun := 0, settle := settleLength r.present }
  else r

/-- R22, R23: adoption at an arrival of an inserted station. -/
def Ring.adoption (self : Nat) (f : WireFrame) (r : Ring) : Ring :=
  match r.state with
  | .inserted => r.adoptInserted f
  | .relocking => r.adoptRelocking self f
  | _ => r

/-! ## The emitter check (R35) -/

/-- Section 2.1: the back count of station x seen from s. -/
def backCount (s x : Nat) : Nat := (s + 23 - x) % 24 + 1

/-- Section 2.1: the nearest present predecessor of s. -/
def nearestPredecessor (present : StationSet) (s : Nat) : Nat :=
  ((allStations.filter fun x => StationSet.has present x && x != s).foldl
    (fun (best : Option Nat) x =>
      match best with
      | none => some x
      | some y => if backCount s x < backCount s y then some x else some y) none).getD s

/-- R35: the present set after the emitter check on emitter e. -/
def emitterAfter (s e : Nat) (present : StationSet) : StationSet :=
  let u := nearestPredecessor present s
  if backCount s e < backCount s u then StationSet.add present e
  else if backCount s u < backCount s e then
    stationsWhere fun x => StationSet.has present x && (x == s || !strictlyBetween e s x)
  else present

/-- R35, R59: the emitter check; where it does not agree the change is applied and a ROSTER queued. -/
def State.emitterCheck (e : Nat) (s : State) : State :=
  if e = nearestPredecessor s.ring.present s.self then s
  else
    let s1 := s.applyRoster (emitterAfter s.self e s.ring.present)
    { s1 with desk := s1.desk.queue .roster .roster (rosterPayload e) }

/-! ## An arrival at an inserted station (R28, R32 to R35, R44) -/

/-- What the ring makes of one sample event: the state, the cells it emits, and the lanes of a good arrival. -/
structure RingOut where
  state    : State
  cells    : Vector (BitVec 64) 4
  arriving : Option (Vector Lane 128)

/-- R33: a good arrival counts. -/
def Ring.countGood (r : Ring) : Ring :=
  match r.state with
  | .relocking =>
    if 64 ≤ r.goodRun + 1 then
      { r with state := .inserted, badRun := 0, goodRun := r.goodRun + 1, settle := settleLength r.present }
    else { r with badRun := 0, goodRun := r.goodRun + 1 }
  | _ => { r with badRun := 0 }

/-- R33, R35, R44: the frame counts, and then come the emitter check and the cells, in the sender's order (log 3). That the
64th good frame returns the station to INSERTED, with its settle interval, before the cells of that same frame are worked is
the model's choice (R33 gives no order, log 33). -/
def State.goodArrival (checkFirst : Bool) (f : WireFrame) (s : State) : RingOut :=
  let s1 := { s with ring := s.ring.countGood }
  if checkFirst then
    let r := (s1.emitterCheck f.emitter.toNat).workCells f.cells
    { state := r.1, cells := r.2, arriving := some f.lanes }
  else
    let r := s1.workCells f.cells
    { state := r.1.emitterCheck f.emitter.toNat, cells := r.2, arriving := some f.lanes }

/-- R32, R33: a bad arrival counts; the 16th in a row relocks an INSERTED station. -/
def State.countBad (s : State) : State :=
  let r := { s.ring with badCount := countUp s.ring.badCount, badRun := s.ring.badRun + 1, goodRun := 0 }
  let s1 := Machine.State.raise .badFrame { s with ring := r }
  if r.state = .inserted ∧ 16 ≤ r.badRun then
    Machine.State.raise .relock { s1 with ring := { r with state := .relocking } }
  else s1

/-- R32: a bad arrival. -/
def State.badArrival (s : State) : RingOut :=
  let r := s.countBad.placeCells
  { state := r.1, cells := r.2, arriving := none }

/-- R34: a frame reaches a break head again. -/
def State.endSilence (s : State) : State :=
  let s1 := { s with ring := { s.ring with silent := 0, breakHead := false } }
  if s.ring.breakHead then s1.raise .ringBreak else s1

/-- R20, R21: an arrival at an inserted station. -/
def State.arrive (checkFirst : Bool) (f : WireFrame) (s : State) : RingOut :=
  let s1 := s.endSilence
  let s2 := { s1 with ring := (s1.ring.countRun f).adoption s1.self f }
  if s2.ring.good f then s2.goodArrival checkFirst f else s2.badArrival

/-- R34: a silent sample counts; the eighth makes the station break head. -/
def State.countSilent (s : State) : State :=
  let n := s.ring.silent + 1
  let s1 := { s with ring := { s.ring with run := 0, goodRun := 0, silent := n } }
  if n = 8 then Machine.State.raise .ringBreak { s1 with ring := { s1.ring with breakHead := true } } else s1

/-- R34: a silent sample. -/
def State.silence (s : State) : RingOut :=
  let r := s.countSilent.placeCells
  { state := r.1, cells := r.2, arriving := none }

/-! ## LOCKING (R36 to R38) -/

/-- R36, R37: the JOIN fails. -/
def State.failJoin (r : JoinResult) (s : State) : State :=
  { s with ring := { s.ring with state := .detached, origin := s.self }, desk := s.desk.completeJoin r }

/-- R37, R38: the relay inserts with a present set. -/
def State.insert (present : StationSet) (r : JoinResult) (s : State) : State :=
  let s1 := { s with ring := { s.ring with state := .inserted } }
  let s2 := (s1.applyRoster present).onDesk Desk.queueHoldings
  { s2 with desk := s2.desk.completeJoin r }

/-- The HOLDINGS notices in the cells, in cell order, with an origin that names a station (R183). -/
def heardHoldings (cells : Vector (BitVec 64) 4) : List Notice :=
  cells.toList.filterMap fun c =>
    match readCell c with
    | .notice n => if n.kind = .holdings ∧ n.origin.toNat < 24 then some n else none
    | _ => none

/-- R36: another station carries this station's number. -/
def heardSelf (self : Nat) (f : WireFrame) : Bool :=
  f.emitter.toNat == self || (heardHoldings f.cells).any fun n => n.origin.toNat == self

/-- R37: the listen phase reads the HOLDINGS of a good frame. -/
def State.listen (f : WireFrame) (s : State) : State :=
  let ns := heardHoldings f.cells
  if ns.any fun n => s.differs (payloadDigest n.payload) then
    Machine.State.raise .planMismatch (s.failJoin .planMismatch)
  else
    let heard := ns.foldl (fun h n => StationSet.add h n.origin.toNat) s.ring.join.heard
    { s with ring := { s.ring with join := { s.ring.join with heard := heard } } }

/-- R36: a good frame of the lock phase; the 64th ends the phase. -/
def Join.countLock (j : Join) : Join :=
  if 64 ≤ j.good + 1 then { j with good := j.good + 1, listening := true, listenTime := 0 }
  else { j with good := j.good + 1 }

/-- R36, R37: a good frame on the tap. -/
def State.tapGood (f : WireFrame) (s : State) : State :=
  let s1 := { s with ring := { s.ring with join := { s.ring.join with upstream := some f.emitter.toNat } } }
  if heardSelf s.self f then s1.failJoin .duplicate
  else if s1.ring.join.listening then s1.listen f
  else { s1 with ring := { s1.ring with join := s1.ring.join.countLock } }

/-- R36: a bad frame or a silent sample of the lock phase. -/
def State.tapOther (s : State) : State :=
  if s.ring.join.listening then s
  else { s with ring := { s.ring with join := { s.ring.join with good := 0 } } }

/-- R21, R22, R36: a frame on the tap. -/
def State.tap (f : WireFrame) (s : State) : State :=
  let r := (s.ring.countRun f).adoptLocking f
  let s1 := { s with ring := { r with join := { r.join with heardAny := true } } }
  if s1.ring.good f then s1.tapGood f else s1.tapOther

/-- R37: the present set a JOIN forms. -/
def Join.presentAfter (self : Nat) (j : Join) : StationSet :=
  let h := StationSet.add j.heard self
  match j.upstream with
  | some u => StationSet.add h u
  | none => h

/-- R37: one sample event of the listen phase; at the 1024th the relay inserts. `was` says that the listen phase had
begun before this sample event. -/
def State.listenStep (was : Bool) (s : State) : State :=
  if was && s.ring.state == .locking then
    let j := { s.ring.join with listenTime := s.ring.join.listenTime + 1 }
    let s1 := { s with ring := { s.ring with join := j } }
    if 1024 ≤ j.listenTime then s1.insert (j.presentAfter s.self) .joined else s1
  else s

/-- R38: no frame has reached the tap in the 4096 sp since the JOIN. -/
def State.firstInStep (s : State) : State :=
  if s.ring.state = .locking ∧ s.ring.join.heardAny = false ∧ 4096 ≤ s.ring.join.time then
    Machine.State.insert (StationSet.add 0 s.self) .firstIn { s with ring := { s.ring with origin := s.self } }
  else s

/-- R36 to R38: one sample event of LOCKING. -/
def State.lockingStep (rx : Option WireFrame) (s : State) : State :=
  let was := s.ring.join.listening
  let s1 := { s with ring := { s.ring with join := { s.ring.join with time := s.ring.join.time + 1 } } }
  let s2 := match rx with
    | some f => s1.tap f
    | none => Machine.State.tapOther { s1 with ring := { s1.ring with run := 0 } }
  (s2.listenStep was).firstInStep

/-! ## One sample event of RING -/

/-- R20: one sample event of RING; the station's instant has already advanced. -/
def State.ringPhase (checkFirst : Bool) (rx : Option WireFrame) (s : State) : RingOut :=
  let s1 := { s with ring := s.ring.advanceTag }
  match s.ring.state with
  | .detached =>
    { state := { s1 with ring := { s1.ring with run := 0 } }, cells := Vector.replicate 4 0, arriving := none }
  | .locking => { state := s1.lockingStep rx, cells := Vector.replicate 4 0, arriving := none }
  | .inserted | .relocking | .conflict =>
    match rx with
    | some f => s1.arrive checkFirst f
    | none => s1.silence

end Sys2Proof.Machine
end

