-- ==== Sys2Proof/Machine/Sample.lean ====
section
/-!
DEFINITION. One sample event of the whole part: counts of sample events, the phases of POS, RING and TOUCH in the sender's
order, then the audio and the emitted frame (log 2).
-/

namespace Sys2Proof.Machine

/-! ## Counts of sample events -/

/-- The station's sample event count advances (R53). -/
def State.advanceInstant (s : State) : State := { s with instant := s.instant + 1 }

/-- R27: the settle counter falls by one and stops at 0. -/
def State.settleStep (s : State) : State := { s with ring := { s.ring with settle := s.ring.settle - 1 } }

/-- R97: one sample event of the settle factor, with the settle counter as the previous sample event left it. -/
def State.riseStep (counting : Bool) (s : State) : State :=
  { s with desk := { s.desk with home := { s.desk.home with
      rise := Machine.riseStep s.rate96 counting s.desk.home.rise } } }

/-- The 24 station numbers as indices. -/
def stationIndices : List (Fin 24) := List.finRange 24

/-- The counts of NOTE and HOME: deadlines, ages, holdings timer, leases, keepalives (R54, R55, R58, R104, R108). -/
def State.countStep (s : State) : State :=
  let s1 := s.expireFlights
  let s2 := s1.onDesk fun e d => d.each stationIndices (Desk.ageOf e)
  let s3 := if s2.ring.state.onRing then s2.onDesk Desk.timerStep else s2
  let s4 := s3.onDesk fun e d => d.each e.homedBuses (Desk.leaseStep e)
  s4.onDesk fun e d => d.each e.requestedBuses Desk.keepaliveStep

/-- Every count that a sample event moves, before any block takes what arrives. -/
def State.timers (s : State) : State :=
  (((s.advanceInstant).riseStep (0 < s.ring.settle)).settleStep).countStep

/-! ## POS (R14) -/

/-- R11, R133, R144: what a transport event does at its neighbours. -/
def State.takePosEvent (v : PosEvent) (s : State) : State :=
  let s1 := (s.raise v.flag).onDesk fun e d => d.takeEvent e v
  if v = .jump then { s1 with play := s1.play.jump s1.pos } else s1

/-- R138, R144, R153, R160: what a tick does at TAKE, PLAY and AUTO. -/
def State.takeTick (t : MadeTick) (s : State) : State :=
  let s1 := { s with desk := { s.desk with take := s.desk.take.leavePage (pageOf t.index) } }
  let s2 := if s1.play.entersLate s1.pos t.index then s1.raise .pageLate else s1
  let s3 := { s2 with play := s2.play.tick s2.pos t.index }
  s3.onDesk fun e d => d.takeTick e t

/-- What POS makes of the sample event; nothing while UNCONFIGURED (R1). -/
def State.posOut (edge : Option FrameNo) (s : State) : PosOut :=
  match s.conf with
  | some c => s.pos.sample s.rate96 c.rate edge
  | none => { pos := s.pos, events := [], made := none }

/-- POS's part of a sample event, with all it hands to its neighbours. -/
def State.posPhase (edge : Option FrameNo) (s : State) : State :=
  let out := s.posOut edge
  let s1 := out.events.foldl (fun s v => s.takePosEvent v) { s with pos := out.pos }
  match out.made with
  | some t => s1.takeTick t
  | none => s1

/-! ## Audio (R72, R94, R95) -/

/-- The audio of the sample event: factors, home outputs, stem stream, send outputs. A ramp that starts takes its length from
POS as the phases of the sample event leave it (R73; the model's choice where POS changes in that same event, log 32). -/
def State.audio (samples : Vector Sample 32) (arriving : Option (Vector Lane 128)) (s : State) : State :=
  let e := s.env
  let settle := settleGain s.rate96 s.desk.home.rise
  let d := s.desk.advanceAll (rampLength e)
  { s with desk := d.formOutputs e settle arriving samples, stem := d.stemStream e settle arriving }

/-- R20, R28, R31: the frame the station emits, by its ring state and present set at the start of the sample event
(log 18). -/
def State.emit (start : Ring) (cells : Vector (BitVec 64) 4) (arriving : Option (Vector Lane 128)) (s : State) : State :=
  if start.state.onRing then
    { s with emitted := some (buildFrame s.self s.ring.tag s.ring.origin cells
        (s.desk.lanesOut s.env start.present (start.state == .inserted) arriving)) }
  else { s with emitted := none }

/-! ## The whole sample event -/

/-- A state with what RING made of the sample event, if RING has taken it. -/
structure Taken where
  state    : State
  cells    : Vector (BitVec 64) 4
  arriving : Option (Vector Lane 128)

def Taken.pos (p : Period) (t : Taken) : Taken := { t with state := t.state.posPhase (FrameWord.edge p.edge) }

def Taken.ring (p : Period) (t : Taken) : Taken :=
  let out := t.state.ringPhase p.checkFirst p.rx
  { state := out.state, cells := out.cells, arriving := out.arriving }

def Taken.touch (p : Period) (t : Taken) : Taken :=
  { t with state := t.state.onDesk fun e d => d.touchPhase e p.levels }

/-- The three phases in the sender's order (log 2). -/
def Taken.phases (p : Period) (t : Taken) : Taken :=
  match p.order with
  | .posRingTouch => ((t.pos p).ring p).touch p
  | .posTouchRing => ((t.pos p).touch p).ring p
  | .ringPosTouch => ((t.ring p).pos p).touch p
  | .ringTouchPos => ((t.ring p).touch p).pos p
  | .touchPosRing => ((t.touch p).pos p).ring p
  | .touchRingPos => ((t.touch p).ring p).pos p

/-- One sample event, the word clock being present and RESET high. -/
def State.sample (p : Period) (s : State) : State :=
  let t := Taken.phases p { state := s.timers, cells := Vector.replicate 4 0, arriving := none }
  (t.state.audio p.samples t.arriving).emit s.ring t.cells t.arriving

end Sys2Proof.Machine
end

