-- ==== Sys2Proof/Machine/Operands.lean ====
section
/-!
DEFINITION. The operand forms of the Bay Link commands: what each code of a field names (11.3, R184), the lane plan of a
CONFIGURE (11.4), and the reading of a route (R69).
-/

namespace Sys2Proof.Machine

/-! ## Codes -/

def modeOfCode? (c : Byte) : Option Mode :=
  match c.toNat with
  | 0 => some .off | 1 => some .read | 2 => some .touch | 3 => some .latch | 4 => some .write | _ => none

/-- A safe byte or a form byte of two codes (11.3, R184). -/
def flagOfCode? (c : Byte) : Option Bool :=
  match c.toNat with
  | 0 => some false | 1 => some true | _ => none

def indicationOfCode? (c : Byte) : Option Indication :=
  match c.toNat with
  | 0 => some .absent | 1 => some .touched | 2 => some .untouched | _ => none

/-- A byte below n as an index. -/
def indexOf? (n : Nat) (c : Byte) : Option (Fin n) := if h : c.toNat < n then some ⟨_, h⟩ else none

/-- R89: the target of a MAP. -/
def mapTarget? (e : Env) (form target : Byte) : Option FaderTarget :=
  match form.toNat with
  | 0 => some .none
  | 1 => (indexOf? 32 target).map .strip
  | 2 => (e.busOfByte? target).map .bus
  | _ => none

/-- What a SURFACE names (R90). -/
inductive SurfaceName where
  | control (c : Fin 128)
  | level (b : Fin 24)
  | mute (b : Fin 24)
  deriving DecidableEq, Repr

/-- R90, R184: what the target form and the id name. -/
def surfaceName? (e : Env) (form target : Byte) : Option SurfaceName :=
  match form.toNat with
  | 0 => (indexOf? 128 target).map .control
  | 1 => (e.busOfByte? target).map .level
  | 2 => (e.busOfByte? target).map .mute
  | _ => none

/-- R90: the value is in the range of what is named. -/
def SurfaceName.fits (k : SurfaceName) (v : BitVec 16) : Bool :=
  match k with
  | .control c => if isMuteId c.val then v.toNat ≤ 1 else v.toNat ≤ 1023
  | .level _ => v.toNat ≤ 1023
  | .mute _ => v.toNat ≤ 1

/-- R90: the touch target a SURFACE names; bus b for either kind. -/
def SurfaceName.target (k : SurfaceName) : TouchTarget :=
  match k with
  | .control c => .control c
  | .level b | .mute b => .bus b

/-! ## Routes (R68, R69, R184) -/

/-- A bus of the plan with a lane offset below its width. -/
def readDest (e : Env) (bus offset : Byte) : Option Dest :=
  match e.busOfByte? bus with
  | some b =>
    match e.bus? b with
    | some x => if offset.toNat < x.width then some { bus := b, offset := offset.toNat } else none
    | none => none
  | none => none

/-- R69 check 2: a send; the outer none is out of range, FFh is NONE and leaves the offset unread (R184). -/
def readSend (e : Env) (bus offset : Byte) : Option (Option Dest) :=
  if bus = 0xFF then some none else (readDest e bus offset).map some

/-- R69 check 2: the source; bus and offset are read for RETURN only (R184). -/
def readSource (e : Env) (form bus offset : Byte) : Option Source :=
  match form.toNat with
  | 0 => some .none
  | 1 => some .input
  | 2 => (readDest e bus offset).map fun t => .ret t.bus t.offset
  | _ => none

def Env.isPremix (e : Env) (b : Fin 24) : Bool :=
  match e.bus? b with
  | some x => x.kind == .premix
  | none => false

/-- R69 check 3: a RETURN source is of a PREMIX homed here. -/
def sourceHomed (e : Env) (src : Source) : Bool :=
  match src with
  | .ret b _ => e.homesBus b && e.isPremix b
  | _ => true

/-- A send feeds a PREMIX. -/
def sendsPremix (e : Env) (send : Option Dest) : Bool :=
  match send with
  | some t => e.isPremix t.bus
  | none => false

/-- R69 check 4, the loop rule. -/
def loops (e : Env) (src : Source) (send1 send2 : Option Dest) : Bool :=
  match src with
  | .ret _ _ => sendsPremix e send1 || sendsPremix e send2
  | _ => false

/-! ## The lane plan (R24, R25, 11.4) -/

def rateOfCode? (c : Byte) : Option FrameRate :=
  match c.toNat with
  | 0 => some .fps24 | 1 => some .fps25 | 2 => some .fps23976 | 3 => some .fps2997 | _ => none

def FrameRate.code : FrameRate → Byte
  | .fps24 => 0 | .fps25 => 1 | .fps23976 => 2 | .fps2997 => 3

/-- One bus record (11.4); none when its own PLAN tests fail (R24). -/
def readBus (first width home z : Byte) : Option Bus :=
  let zone := z.extractLsb' 0 4
  if h : zone.toNat < 4 then
    if 1 ≤ width.toNat ∧ width.toNat ≤ 16 ∧ first.toNat + width.toNat - 1 ≤ 127 ∧ home.toNat ≤ 23 then
      some { kind := if z.getLsbD 4 then .stem else .premix, first := first.toNat, width := width.toNat,
             home := home.toNat, zone := ⟨_, h⟩ }
    else none
  else none

/-- The bus records, in list order. -/
def readBuses : List Byte → Option (List Bus)
  | [] => some []
  | a :: b :: c :: d :: rest =>
    match readBus a b c d, readBuses rest with
    | some x, some xs => some (x :: xs)
    | _, _ => none
  | _ => none

/-- R24: the two buses share no lane. -/
def Bus.apart (x y : Bus) : Bool := x.first + x.width ≤ y.first || y.first + y.width ≤ x.first

/-- R24 step 3, R184: the frame rate and the plan, when every PLAN test is passed. -/
def readPlan (p : List Byte) : Option (FrameRate × List Bus) :=
  match p with
  | rate :: n :: rest =>
    if n.toNat ≤ 24 ∧ rest.length = 4 * n.toNat then
      match rateOfCode? rate, readBuses rest with
      | some r, some buses => if buses.Pairwise fun x y => x.apart y = true then some (r, buses) else none
      | _, _ => none
    else none
  | _ => none

/-- The bus records with bits 7 to 5 of their last byte as zero (R182, 11.4). -/
def canonicalBuses : List Byte → List Byte
  | a :: b :: c :: d :: rest => a :: b :: c :: (d &&& 0x1F) :: canonicalBuses rest
  | l => l

/-- R25: the plan digest. -/
def planDigest (p : List Byte) : BitVec 16 := crc16 (p.take 2 ++ canonicalBuses (p.drop 2))

end Sys2Proof.Machine
end

