-- ==== Sys2Proof/Machine/Links.lean ====
section
/-!
DEFINITION. LINK: transfers, the taking of a command and its reply, overruns, and the status record (chapter 10, 11.7).
-/

namespace Sys2Proof.Machine

/-! ## Transfers (R169 to R171) -/

/-- The idle pattern for a transfer of n bits (R169). -/
def idleBits (n : Nat) : List Bool := List.replicate n true

/-- What LDO carries for n bits while the reply is held: the reply, then free values (R170, log 9). -/
def heldBits (r : Reply) (free n : Nat) : List Bool :=
  (bitsOf r.bytes ++ (List.range (n - 8 * r.bytes.length)).map fun i => Config.ldoAfterReply (free + i)).take n

/-- R170: a transfer of n bits presents the held reply, and reads it when it clocks the whole of it. -/
def State.present (r : Reply) (n : Nat) (s : State) : State :=
  { s with ldo := heldBits r s.free n, free := s.free + (n - 8 * r.bytes.length),
           link := if 8 * r.bytes.length ≤ n then { s.link with state := .ready } else s.link }

/-- LDO carries the idle pattern for a transfer of n bits (R169, R170, R180). -/
def State.idle (n : Nat) (s : State) : State := { s with ldo := idleBits n }

/-- R170: what a transfer of n bits does whether or not it carries a message. -/
def State.transfer (n : Nat) (s : State) : State :=
  match s.link.state with
  | .held r => s.present r n
  | _ => s.idle n

/-- R171: a message while LINK is WORKING or REPLY_HELD, in a transfer of n bits. -/
def State.overrun (n : Nat) (s : State) : State :=
  let s1 := { s with link := { s.link with overruns := countUp s.link.overruns } }
  (s1.raise .linkOverrun).transfer n

/-- What taking a command leaves: the state after its effects, and its reply. -/
structure Answered where
  state : State
  reply : Reply

/-- R170, R171, R180: a transfer of n bits that carries a message. In READY the command is taken and its reply prepared;
while RESET is low the transfer is ignored, and LDO is idle. -/
def State.message (n : Nat) (body : State → Answered) (s : State) : State :=
  if s.resetLow then s.idle n
  else
    match s.link.state with
    | .ready =>
      let a := body s
      { a.state with link := { a.state.link with state := .working a.reply }, ldo := idleBits n }
    | _ => s.overrun n

/-- R169: a transfer that carries the message of a command with a payload of `length` bytes, and `tail` bits after it. -/
def State.command (length tail : Nat) (body : State → Answered) (s : State) : State :=
  s.message (8 * (5 + length) + tail) body

/-- R172: REFUSED changes nothing. -/
def State.refuse (kind : Byte) (r : Reason) (s : State) : Answered := { state := s, reply := .refused kind r }

def State.done (kind : Byte) (data : List Byte) (s : State) : Answered := { state := s, reply := .done kind data }

/-- R172: a command that fails LINK's tests. -/
def State.refuseFormat (kind : Byte) (s : State) : Answered :=
  { state := { s with link := { s.link with formats := countUp s.link.formats } }, reply := .refused kind .format }

/-- R172 and section 10.4: a command not taken while UNCONFIGURED is refused with STATE. -/
def State.configured (kind : Byte) (body : Conf → State → Answered) (s : State) : Answered :=
  match s.conf with
  | some c => body c s
  | none => s.refuse kind .state

/-- R170: the reply is formed. -/
def State.formReply (s : State) : State :=
  if s.resetLow then s
  else
    match s.link.state with
    | .working r => { s with link := { s.link with state := .held r } }
    | _ => s

/-- R170, R180: a transfer of n bits that carries no message. -/
def State.emptyTransfer (n : Nat) (s : State) : State := if s.resetLow then s.idle n else s.transfer n

/-! ## The status record (R175, 11.7) -/

def Transport.code : Transport → Nat
  | .unlocked => 0 | .chasing => 1 | .parked => 2 | .rolling => 3 | .reverse => 4

def RingState.code : RingState → Nat
  | .detached => 0 | .locking => 1 | .inserted => 2 | .relocking => 3 | .conflict => 4

/-- The spf of the current frame; a free value while no frame rate is known (log 26). -/
def State.spfNow (s : State) : Nat :=
  match s.conf with
  | some c => spf s.rate96 c.rate s.pos.frame
  | none => (Config.spfUnconfigured s.free).toNat

def State.statusPosition (s : State) : List Byte :=
  bytesOf 1 s.pos.state.code ++ bytesOf 3 s.pos.frame.toNat ++ bytesOf 2 s.pos.offset ++
    bytesOf 1 (cadencePhase s.pos.frame) ++ bytesOf 2 s.spfNow ++ bytesOf 1 s.pos.fly ++ tickBytes s.pos.tick ++
    pageBytes (s.pos.tick.map pageOf)

def State.statusConfiguration (s : State) : List Byte :=
  bytesOf 1 (bit s.conf.isSome 0) ++ bytesOf 1 s.strap.toNat ++ bytesOf 1 (bit s.rate96 0) ++
    (match s.conf with
     | some c => c.rate.code :: bytesOf 2 c.digest.toNat
     | none => [0xFF, 0, 0])

def State.statusRing (s : State) : List Byte :=
  bytesOf 1 s.ring.state.code ++ bytesOf 3 s.ring.present.toNat ++ bytesOf 1 (StationSet.count s.ring.present) ++
    bytesOf 1 (bit s.ring.breakHead 0 + bit (0 < s.ring.settle) 1) ++ bytesOf 2 s.ring.badCount.toNat

def PlaySlot.statusBytes (x : PlaySlot) : List Byte :=
  (match x with
   | .free => 0 | .wanted _ => 1 | .ready _ => 2 | .missing _ => 3) :: pageBytes x.page?

def State.statusPlay (s : State) : List Byte :=
  (match s.play.wanted with
   | some w => pageBytes (some w.page) ++ bytesOf 1 w.strays
   | none => pageBytes none ++ [0]) ++ s.play.slots.toList.flatMap PlaySlot.statusBytes

/-- R167, 11.7. The move count of a FREE slot, to which neither gives a value, is written as 0 (the model's choice, log 34). -/
def TakeSlot.statusBytes (x : TakeSlot) : List Byte :=
  match x with
  | .free => 0 :: pageBytes none ++ bytesOf 2 0
  | .opened p => 1 :: pageBytes (some p.page) ++ bytesOf 2 p.moves.length
  | .closed p => 2 :: pageBytes (some p.page) ++ bytesOf 2 p.moves.length

def State.statusTake (s : State) : List Byte :=
  s.desk.take.slots.toList.flatMap TakeSlot.statusBytes ++ bytesOf 1 s.desk.take.queue.length ++
    bytesOf 1 s.desk.take.reserved ++ pageBytes s.desk.take.lost

/-- A set of lines as 32 bits. -/
def lineSet (p : Line → Bool) (t : Touch) : Nat :=
  allLines.foldl (fun a f => a + bit (p t.lines[f]) f.val) 0

/-- The number of drive list entries. -/
def Touch.driveCount (t : Touch) : Nat := (t.drives.toList.filter (·.isSome)).length

def State.statusTouch (s : State) : List Byte :=
  bytesOf 4 (lineSet (·.touchLatch) s.desk.touch) ++ bytesOf 4 (lineSet (·.releaseLatch) s.desk.touch) ++
    bytesOf 1 s.desk.touch.driveCount

/-- The attention causes, bit i for row i of R178. -/
def State.causeByte (s : State) : Nat :=
  s.causes.foldr (fun c a => bit c 0 + 2 * a) 0

def JoinResult.code : JoinResult → Byte
  | .joined => 1 | .firstIn => 2 | .planMismatch => 3 | .duplicate => 4 | .abandoned => 5

def State.statusLink (s : State) : List Byte :=
  bytesOf 3 s.desk.ev.flags.toNat ++ bytesOf 3 s.link.mask.toNat ++ bytesOf 1 s.causeByte ++
    [match s.desk.ev.join with | some r => r.code | none => 0] ++
    (match s.desk.ev.abort with
     | some (.fired n) => 1 :: bytesOf 1 n
     | some .superseded => [2, 0]
     | none => [0, 0]) ++
    bytesOf 2 s.link.overruns.toNat ++ bytesOf 2 s.link.formats.toNat

/-- 11.7: payload bytes 1 to 103. -/
def State.statusRecord (s : State) : List Byte :=
  s.statusPosition ++ s.statusConfiguration ++ s.statusRing ++ s.statusPlay ++ s.statusTake ++ s.statusTouch ++
    s.statusLink

/-- R175: what a STATUS clears once it is reported. -/
def State.clearReported (s : State) : State :=
  let lines := s.desk.touch.lines.map fun x => { x with touchLatch := false, releaseLatch := false }
  { s with desk := { s.desk with touch := { s.desk.touch with lines := lines }, ev := Events.reset },
           free := if s.conf.isSome then s.free else s.free + 1 }

end Sys2Proof.Machine
end

