-- ==== Sys2Proof/Machine/Commands.lean ====
section
/-!
DEFINITION. The meanings of the twenty Bay Link commands (section 10.4), one definition each over `State.command`.
-/

namespace Sys2Proof.Machine

/-! ## RING's commands -/

/-- R24, R173: CONFIGURE as its owner takes it. -/
def State.configure (payload : List Byte) (s : State) : Answered :=
  match s.conf with
  | some _ => s.refuse 0x01 .state
  | none =>
    if 24 ≤ s.strap.toNat then s.refuse 0x01 .strap
    else
      match readPlan payload with
      | none => s.refuse 0x01 .plan
      | some (rate, buses) =>
        let digest := planDigest payload
        Machine.State.done 0x01 (bytesOf 2 digest.toNat)
          { s with conf := some { rate := rate, plan := buses, digest := digest } }

def execConfigure (payload : List Byte) (s : State) (tail : Nat := 0) : Host.Outcome State Fault Refusal :=
  .next (s.command payload.length tail fun s =>
    if configureLength payload then s.configure payload else s.refuseFormat 0x01)

/-- R36: JOIN taken in DETACHED. -/
def State.startJoin (s : State) : State :=
  { s with ring := { s.ring with state := .locking, join := Join.reset },
           desk := { s.desk with ev := { s.desk.ev with join := none } } }

/-- R36. -/
def State.join (s : State) : Answered :=
  match s.ring.state with
  | .detached => { state := s.startJoin, reply := .accepted 0x02 }
  | .locking => s.refuse 0x02 .busy
  | .inserted | .relocking | .conflict => s.refuse 0x02 .state

def execJoin (s : State) (tail : Nat := 0) : Host.Outcome State Fault Refusal :=
  .next (s.command 0 tail (State.configured 0x02 fun _ s => s.join))

/-- R40: the ring block after LEAVE. -/
def Ring.leave (self : Nat) (r : Ring) : Ring :=
  { r with state := .detached, present := 0, settle := 0, badRun := 0, goodRun := 0, run := 0, silent := 0,
           breakHead := false, origin := self }

/-- R40, R64: NOTE after LEAVE. -/
def Note.leave (n : Note) : Note := { n with pending := [], flight := [], timer := 0 }

/-- R40, R113, R135: the desk at LEAVE: a JOIN in LOCKING is abandoned, open passes close, claims drop, NOTE empties. -/
def Desk.leave (e : Env) (locking : Bool) (d : Desk) : Desk :=
  let d1 := if locking then d.completeJoin .abandoned else d
  let d2 := d1.closeAll e .left
  let d3 := (d2.each e.homedBuses (Desk.leaveHome e)).each e.requestedBuses Desk.leaveReq
  { d3 with note := d3.note.leave }

/-- R40. -/
def State.leave (s : State) : State :=
  { s with ring := s.ring.leave s.self, desk := s.desk.leave s.env (s.ring.state == .locking) }

def execLeave (s : State) (tail : Nat := 0) : Host.Outcome State Fault Refusal :=
  .next (s.command 0 tail (State.configured 0x03 fun _ s => s.leave.done 0x03 []))

/-! ## STRIP's commands -/

/-- 11.3: the solo byte of a reply. -/
def Desk.soloByte (d : Desk) : Byte := d.activeBits ++ d.strip.ownBits

/-- R70: a taken ROUTE. -/
def Desk.route (e : Env) (s : Fin 32) (src : Source) (send1 send2 : Option Dest) (d : Desk) : Desk :=
  (d.setStrip s { d.stripOf s with source := src, send1 := send1, send2 := send2 }).resoloAll e

/-- R69: the checks after STATE, in their order; `Except.error` is the refusal. -/
def routeChecks (e : Env) (strip form bus offset bus1 offset1 bus2 offset2 : Byte) :
    Except Reason (Fin 32 × Source × Option Dest × Option Dest) :=
  match indexOf? 32 strip, readSource e form bus offset, readSend e bus1 offset1, readSend e bus2 offset2 with
  | some s, some src, some send1, some send2 =>
    if !sourceHomed e src then .error .notHome
    else if loops e src send1 send2 then .error .loop
    else .ok (s, src, send1, send2)
  | _, _, _, _ => .error .range

/-- R69, R70. -/
def State.route (strip form bus offset bus1 offset1 bus2 offset2 : Byte) (s : State) : Answered :=
  match routeChecks s.env strip form bus offset bus1 offset1 bus2 offset2 with
  | .error r => s.refuse 0x04 r
  | .ok (n, src, send1, send2) =>
    let t := s.onDesk fun e d => d.route e n src send1 send2
    t.done 0x04 [t.desk.soloByte]

def execRoute (strip form bus offset bus1 offset1 bus2 offset2 : Byte) (s : State) (tail : Nat := 0) :
    Host.Outcome State Fault Refusal :=
  .next (s.command 8 tail (State.configured 0x04 fun _ s => s.route strip form bus offset bus1 offset1 bus2 offset2))

/-- R75: a taken SOLO; bits 7 to 2 of the flags are not read (R184). -/
def Desk.solo (e : Env) (s : Fin 32) (flags : Byte) (d : Desk) : Desk :=
  (d.setStrip s { d.stripOf s with solo := flags.getLsbD 0, safe := flags.getLsbD 1 }).resoloAll e

/-- R75. -/
def State.solo (strip flags : Byte) (s : State) : Answered :=
  match indexOf? 32 strip with
  | none => s.refuse 0x05 .range
  | some n =>
    let t := s.onDesk fun e d => d.solo e n flags
    t.done 0x05 [t.desk.soloByte]

def execSolo (strip flags : Byte) (s : State) (tail : Nat := 0) : Host.Outcome State Fault Refusal :=
  .next (s.command 2 tail (State.configured 0x05 fun _ s => s.solo strip flags))

/-! ## TOUCH's commands -/

def LineState.code : LineState → Byte
  | .untouched => 0 | .qualifyTouch => 1 | .touched => 2 | .qualifyRelease => 3

/-- R88, 11.3: the line in the reply to TOUCHSET. -/
def Line.bytes (x : Line) : List Byte :=
  bytesOf 1 (bit x.enable 0 + bit x.activeLow 1) ++ bytesOf 1 x.interval.val ++ [x.state.code] ++
    bytesOf 1 (bit x.touchLatch 0 + bit x.releaseLatch 1) ++ tickBytes x.lastTouch ++ tickBytes x.lastRelease

/-- R87, R88; bits 7 to 2 of the flags are not read (R184). -/
def State.touchset (line flags interval : Byte) (s : State) : Answered :=
  match indexOf? 32 line, indexOf? 5 interval with
  | some f, some i =>
    let t := s.onDesk fun e d => d.setLineSettings e f (flags.getLsbD 0) (flags.getLsbD 1) i
    t.done 0x06 (t.desk.lineOf f).bytes
  | _, _ => s.refuse 0x06 .range

def execTouchset (line flags interval : Byte) (s : State) (tail : Nat := 0) : Host.Outcome State Fault Refusal :=
  .next (s.command 3 tail (State.configured 0x06 fun _ s => s.touchset line flags interval))

/-- R89. -/
def State.mapFader (fader form target : Byte) (s : State) : Answered :=
  match indexOf? 32 fader, mapTarget? s.env form target with
  | some f, some m =>
    if s.desk.touch.map[f] = m then s.done 0x07 []
    else Machine.State.done 0x07 [] (s.onDesk fun e d => d.remap e f m)
  | _, _ => s.refuse 0x07 .range

def execMap (fader form target : Byte) (s : State) (tail : Nat := 0) : Host.Outcome State Fault Refusal :=
  .next (s.command 3 tail (State.configured 0x07 fun _ s => s.mapFader fader form target))

/-- R90: the value is handed on. -/
def Desk.surfaceValue (e : Env) (k : SurfaceName) (v : Value) (d : Desk) : Desk :=
  match k with
  | .control c => d.setSurface e (stripControlId c) v
  | .level b => if e.homesBus b then d.homeSurfaceLevel e b v else d.reqSurfaceLevel b v
  | .mute b => if e.homesBus b then d.homeSurfaceMute e b (v.getLsbD 0) else d.reqSurfaceMute b (v.getLsbD 0)

/-- R90. -/
def State.surface (form target : Byte) (value : BitVec 16) (indication : Byte) (s : State) : Answered :=
  match surfaceName? s.env form target, indicationOfCode? indication with
  | some k, some i =>
    if k.fits value then
      Machine.State.done 0x08 [] (s.onDesk fun e d =>
        (d.surfaceValue e k (value.setWidth 10)).indicate e k.target i)
    else s.refuse 0x08 .range
  | _, _ => s.refuse 0x08 .range

def execSurface (form target : Byte) (value : BitVec 16) (indication : Byte) (s : State) (tail : Nat := 0) :
    Host.Outcome State Fault Refusal :=
  .next (s.command 5 tail (State.configured 0x08 fun _ s => s.surface form target value indication))

/-- R92, 11.3: the drive list, in ascending fader order. -/
def Touch.driveBytes (t : Touch) : List Byte :=
  bytesOf 1 t.driveCount ++ allLines.flatMap fun f =>
    match t.drives[f] with
    | some v => bytesOf 1 f.val ++ bytesOf 2 v.toNat
    | none => []

/-- R92. -/
def State.drives (s : State) : Answered :=
  Machine.State.done 0x09 s.desk.touch.driveBytes
    { s with desk := { s.desk with touch := { s.desk.touch with drives := Vector.replicate 32 none } } }

def execDrives (s : State) (tail : Nat := 0) : Host.Outcome State Fault Refusal := .next (s.command 0 tail State.drives)

/-! ## AUTO's commands -/

def PassState.code : PassState → Byte
  | .idle => 0 | .primed => 1 | .writing => 2 | .gliding => 3 | .holding => 4

/-- R117, 11.3: the record in the reply to CONTROL. -/
def Control.bytes (x : Control) : List Byte :=
  [x.mode.code] ++ bytesOf 1 (bit x.safe 0) ++ bytesOf 1 x.glideLength.toNat ++ bytesOf 1 (bit x.touched 0) ++
    bytesOf 2 x.surface.toNat ++ bytesOf 2 x.playback.toNat ++ bytesOf 2 x.applied.toNat ++ [x.pass.code] ++
    (match x.openPass with
     | some p => 1 :: bytesOf 2 p.serial.toNat
     | none => [0, 0, 0])

/-- R116 checks 2 and 3. -/
def controlChecks (e : Env) (id mode safe glide : Byte) : Except Reason (Fin 176 × Mode × Bool × BitVec 6) :=
  match indexOf? 176 id, modeOfCode? mode, flagOfCode? safe with
  | some c, some m, some f =>
    if glide.toNat ≤ 63 then
      match controlName c with
      | .master b | .masterMute b =>
        if (e.bus? b).isNone then .error .range
        else if e.homesBus b then .ok (c, m, f, glide.setWidth 6)
        else .error .notHome
      | _ => .ok (c, m, f, glide.setWidth 6)
    else .error .range
  | _, _, _ => .error .range

/-- R117, in its order. -/
def Desk.setControlSettings (e : Env) (c : Fin 176) (m : Mode) (safe : Bool) (glide : BitVec 6) (d : Desk) : Desk :=
  let x := d.control c
  let d1 := if x.mode ≠ m ∨ x.safe ≠ safe then d.closePass e .mode c else d
  let x1 := { d1.control c with mode := m, safe := safe, glideLength := glide }
  let x2 := if x1.openPass.isSome then x1 else { x1 with pass := x1.restState }
  Desk.decideApplied e c (d1.setControl c x2)

/-- R116, R117. -/
def State.controlCommand (id mode safe glide : Byte) (s : State) : Answered :=
  match controlChecks s.env id mode safe glide with
  | .error r => s.refuse 0x0A r
  | .ok (c, m, f, g) =>
    let t := s.onDesk fun e d => d.setControlSettings e c m f g
    t.done 0x0A (t.desk.control c).bytes

def execControl (id mode safe glide : Byte) (s : State) (tail : Nat := 0) : Host.Outcome State Fault Refusal :=
  .next (s.command 4 tail (State.configured 0x0A fun _ s => s.controlCommand id mode safe glide))

/-- R134, R184: the window a WINDOW names; the ticks are not read when the form is clear. -/
def windowOf? (form : Byte) (inTick outTick : BitVec 32) : Option (Option (Tick × Tick)) :=
  match flagOfCode? form with
  | some false => some none
  | some true =>
    if inTick.toNat < outTick.toNat ∧ outTick.toNat ≤ 67108863 then
      some (some (inTick.setWidth 26, outTick.setWidth 26))
    else none
  | none => none

/-- R134. -/
def State.window (form : Byte) (inTick outTick : BitVec 32) (s : State) : Answered :=
  match windowOf? form inTick outTick with
  | some w =>
    Machine.State.done 0x0B [] { s with desk := { s.desk with auto := { s.desk.auto with window := w } } }
  | none => s.refuse 0x0B .range

def execWindow (form : Byte) (inTick outTick : BitVec 32) (s : State) (tail : Nat := 0) :
    Host.Outcome State Fault Refusal :=
  .next (s.command 9 tail (State.configured 0x0B fun _ s => s.window form inTick outTick))

/-- R136: the desk after ABORT NOW. -/
def Desk.abortNow (e : Env) (d : Desk) : Desk :=
  let d1 := { d with ev := { d.ev with abort := none } }
  let d2 := d1.closeAll e .abort
  if d.auto.pendingAbort then
    { d2 with auto := { d2.auto with pendingAbort := false } }.completeAbort .superseded
  else d2

/-- R136. -/
def State.abortNow (s : State) : Answered :=
  Machine.State.done 0x0C (bytesOf 1 s.desk.auto.openCount) (s.onDesk Desk.abortNow)

def execAbortNow (s : State) (tail : Nat := 0) : Host.Outcome State Fault Refusal :=
  .next (s.command 0 tail (State.configured 0x0C fun _ s => s.abortNow))

/-- R137. -/
def State.abortAtPageEnd (s : State) : Answered :=
  if s.desk.auto.pendingAbort then s.refuse 0x0D .busy
  else
    { state := { s with desk := { s.desk with auto := { s.desk.auto with pendingAbort := true },
                                              ev := { s.desk.ev with abort := none } } },
      reply := .accepted 0x0D }

def execAbortAtPageEnd (s : State) (tail : Nat := 0) : Host.Outcome State Fault Refusal :=
  .next (s.command 0 tail (State.configured 0x0D fun _ s => s.abortAtPageEnd))

/-! ## PLAY's commands -/

/-- R143, R184: the span a SPAN names; the pages are not read when the form is clear. -/
def spanOf? (form : Byte) (first last : BitVec 24) : Option (Option (Page × Page)) :=
  match flagOfCode? form with
  | some false => some none
  | some true =>
    if first.toNat ≤ last.toNat ∧ last.toNat ≤ 1048575 then some (some (first.setWidth 20, last.setWidth 20))
    else none
  | none => none

/-- R143 steps 1 to 3. -/
def Play.setSpan (span : Option (Page × Page)) (p : Pos) (y : Play) : Play :=
  Machine.Play.reevaluate p (Machine.Play.retireMissing { y with span := span })

/-- R143. -/
def State.setSpan (form : Byte) (first last : BitVec 24) (s : State) : Answered :=
  match spanOf? form first last with
  | some w => Machine.State.done 0x0E [] { s with play := s.play.setSpan w s.pos }
  | none => s.refuse 0x0E .range

def execSpan (form : Byte) (first last : BitVec 24) (s : State) (tail : Nat := 0) : Host.Outcome State Fault Refusal :=
  .next (s.command 7 tail (State.configured 0x0E fun _ s => s.setSpan form first last))

/-- The result of a DELIVER, with the test that failed (R147, R149). -/
inductive Delivery where
  | taken (p : PlayPage)
  | stray
  | badCheck
  | badForm
  deriving DecidableEq, Repr

/-- R147: the tests in their order. -/
def deliveryOf (payload : List Byte) (y : Play) : Delivery :=
  if pageCheckRight payload then
    match readPage payload with
    | some p => if y.wanted.map (·.page) = some p.number then .taken p else .stray
    | none => .badForm
  else .badCheck

/-- R149, R150: a stray against the wanted record; the fourth makes the page MISSING. -/
def State.countStray (s : State) : State :=
  match s.play.wanted with
  | none => s
  | some w =>
    if 4 ≤ w.strays + 1 then
      let y := { s.play.giveUp with wanted := some { w with strays := 0 } }
      Machine.State.raise .pageMissing { s with play := y.reevaluate s.pos }
    else { s with play := { s.play with wanted := some { w with strays := w.strays + 1 } } }

/-- R151: a page is taken; a catch-up follows when the current tick lies in it. -/
def State.takePage (p : PlayPage) (s : State) : State :=
  let y := s.play.fill p
  let y1 : Play := { y with wanted := (y.wanted.map fun w => ({ w with strays := 0 } : Wanted)) }
  let s1 := { s with play := y1.reevaluate s.pos }
  match s1.pos.tick with
  | some t => if pageOf t = p.number then s1.onDesk fun e d => d.catchUp e t else s1
  | none => s1

/-- R149: the effect of each result. -/
def State.deliverEffect (r : Delivery) (s : State) : State :=
  match r with
  | .taken p => s.takePage p
  | .stray => s.countStray
  | .badCheck | .badForm => (s.raise .pageRejected).countStray

/-- 11.3: result and failed test. -/
def Delivery.codes : Delivery → List Byte
  | .taken _ => [0, 0] | .stray => [1, 0] | .badCheck => [2, 1] | .badForm => [2, 2]

/-- The wanted page and the stray count of a DELIVER reply (11.3). -/
def Play.wantedBytes (y : Play) : List Byte :=
  match y.wanted with
  | some w => pageBytes (some w.page) ++ bytesOf 1 w.strays
  | none => pageBytes none ++ [0]

/-- R147 to R151. -/
def State.deliver (payload : List Byte) (s : State) : Answered :=
  let r := deliveryOf payload s.play
  let t := s.deliverEffect r
  t.done 0x0F (r.codes ++ t.play.wantedBytes)

def execDeliver (payload : List Byte) (s : State) (tail : Nat := 0) : Host.Outcome State Fault Refusal :=
  .next (s.command payload.length tail fun s =>
    if deliverLength payload then s.configured 0x0F fun _ s => s.deliver payload else s.refuseFormat 0x0F)

/-! ## TAKE's commands -/

/-- R163. -/
def State.takeCommand (s : State) : Answered :=
  let r := s.desk.take.collect
  Machine.State.done 0x10 (takeData r.2.order.length r.1) { s with desk := { s.desk with take := r.2 } }

def execTake (s : State) (tail : Nat := 0) : Host.Outcome State Fault Refusal :=
  .next (s.command 0 tail State.takeCommand)

/-- R166, 11.3: the records returned and the number that remain. -/
def passesData (queue : List PassRecord) : List Byte :=
  bytesOf 1 (queue.drop 8).length ++ bytesOf 1 (queue.take 8).length ++ (queue.take 8).flatMap PassRecord.bytes

/-- R166. -/
def State.passes (s : State) : Answered :=
  Machine.State.done 0x11 (passesData s.desk.take.queue)
    { s with desk := { s.desk with take := { s.desk.take with queue := s.desk.take.queue.drop 8 } } }

def execPasses (s : State) (tail : Nat := 0) : Host.Outcome State Fault Refusal := .next (s.command 0 tail State.passes)

/-! ## LINK's commands -/

/-- R175. -/
def State.status (s : State) : Answered := { state := s.clearReported, reply := .done 0x12 s.statusRecord }

def execStatus (s : State) (tail : Nat := 0) : Host.Outcome State Fault Refusal := .next (s.command 0 tail State.status)

/-- R177; bits 23 and 22 are not read (R184). -/
def State.setMask (m : BitVec 24) (s : State) : Answered :=
  Machine.State.done 0x13 (bytesOf 3 (m.setWidth 22).toNat) { s with link := { s.link with mask := m.setWidth 22 } }

def execMask (m : BitVec 24) (s : State) (tail : Nat := 0) : Host.Outcome State Fault Refusal :=
  .next (s.command 3 tail (State.setMask m))

/-- R41: the ring block after RESTART. -/
def Ring.restart (r : Ring) : Ring :=
  { r with state := if r.state = .locking then .detached else r.state, badCount := 0 }

/-- R81: the SOLO of four 0 bits that RESTART queues where the own bits held a 1. -/
def Desk.restartSolo (own : SoloBits) (d : Desk) : Desk :=
  if own = 0 then d else d.queue .solo .solo (soloPayload 0)

/-- R63, R81, R93, R112, R139, R168, R179: the desk after RESTART; `inserted` says that the relay is inserted. The settle
factor (R112) and the heard-holdings ages (R63) are kept. That the SOLO of R81 stands before the HOLDINGS of R63 and its
ECHOs in the emptied pending list is the model's choice (the rules order both only after the emptying, log 29). -/
def Desk.restart (e : Env) (inserted : Bool) (d : Desk) : Desk :=
  let fresh : Desk :=
    { note := { Note.reset with ages := d.note.ages }, strip := StripBlock.reset,
      home := { HomeBlock.reset with rise := d.home.rise }, touch := Touch.reset, auto := Auto.reset,
      take := Take.reset, ev := Events.reset }
  let d1 := fresh.restartSolo d.strip.ownBits
  if inserted then d1.queueHoldings e else d1

/-- R179. -/
def State.restart (s : State) : State :=
  { s with ring := s.ring.restart, play := Play.reset, desk := s.desk.restart s.env s.ring.state.onRing,
           link := Link.reset }

def execRestart (s : State) (tail : Nat := 0) : Host.Outcome State Fault Refusal :=
  .next (s.command 0 tail fun s => s.restart.done 0x14 [])

end Sys2Proof.Machine
end

