-- ==== Sys2Proof/Machine/Events.lean ====
section
/-!
DEFINITION. The meanings of the other rows: transfers that carry no command, the RESET line, the word clock, whole sample
events, and the parts of a sample event that the table names as steps of their own (log 1).
-/

namespace Sys2Proof.Machine

/-! ## LINK and RESET -/

/-- R172: a transfer whose message fails LINK's tests. A message that passes them is another row's, and changes nothing
here (log 1). While RESET is low every transfer is ignored, and LDO is idle (R180). -/
def State.reject (ldi : List Bool) (s : State) : State :=
  if s.resetLow then s.idle ldi.length
  else if carriesMessage ldi ∧ decodeTransfer ldi = none then
    s.message ldi.length (State.refuseFormat ((bytesIn ldi).headD 0))
  else s

def execFormat (ldi : List Bool) (s : State) : Host.Outcome State Fault Refusal := .next (s.reject ldi)

/-- R170: a transfer without a message. -/
def execPoll (clocked : Nat) (s : State) : Host.Outcome State Fault Refusal := .next (s.emptyTransfer clocked)

/-- R170: the reply is formed. -/
def execReplyFormed (s : State) : Host.Outcome State Fault Refusal := .next s.formReply

/-- R170: a transfer without a message, in which a held reply may be read. -/
def execReplyRead (clocked : Nat) (s : State) : Host.Outcome State Fault Refusal := .next (s.emptyTransfer clocked)

/-- R171: a message sent while WORKING or REPLY_HELD; in READY it is a command, not an overrun (log 1). While RESET is low
every transfer is ignored, and LDO is idle (R180). -/
def State.discard (ldi : List Bool) (s : State) : State :=
  if s.resetLow then s.idle ldi.length
  else if carriesMessage ldi ∧ s.link.state ≠ .ready then s.overrun ldi.length
  else s

def execLinkOverrun (ldi : List Bool) (s : State) : Host.Outcome State Fault Refusal := .next (s.discard ldi)

/-- R180: RESET is held low. The word clock, the queue of commands and the free values run on (log 15). -/
def State.hold (s : State) : State :=
  { State.cold s.strap s.rate96 with resetLow := true, clock := s.clock, pending := s.pending, free := s.free }

/-- R18, R180: RESET rises and the straps are read. -/
def State.rise (strap : BitVec 5) (rate96 : Bool) (s : State) : State :=
  { State.cold strap rate96 with clock := s.clock, pending := s.pending, free := s.free }

def execHardwareReset (s : State) : Host.Outcome State Fault Refusal := .next s.hold

def execResetRise (strap : BitVec 5) (rate96 : Bool) (s : State) : Host.Outcome State Fault Refusal :=
  .next (if s.resetLow then s.rise strap rate96 else s)

/-! ## The word clock (R2) -/

/-- R2, R133: the loss of a word clock that was present. -/
def State.loseClock (s : State) : State :=
  let s1 := { s with clock := false, pos := s.pos.unlock, emitted := none }
  (s1.raise .clockLost).onDesk fun e d => d.takeEvent e .clockLost

def execClockLost (s : State) : Host.Outcome State Fault Refusal :=
  .next (if s.resetLow then { s with clock := false } else if s.clock then s.loseClock else s)

def execClockReturn (s : State) : Host.Outcome State Fault Refusal := .next { s with clock := true }

/-! ## Whole sample events (R20) -/

/-- RESET is high and the word clock is present: sample events reach the part (R2, R180). -/
def State.live (s : State) : Bool := !s.resetLow && s.clock

/-- A sample event, where there are any. -/
def State.sampled (p : Period) (s : State) : State := if s.live then s.sample p else s

def execSampleEvent (p : Period) (s : State) : Host.Outcome State Fault Refusal := .next (s.sampled p)

/-- R1, R10: a sample event that carries a valid frame edge. -/
def execFrameEdge (number : FrameNo) (p : Period) (s : State) : Host.Outcome State Fault Refusal :=
  .next (s.sampled { p with edge := some { number := number, valid := true } })

/-- R20, R28: a sample event at which a frame has arrived. -/
def execFrameArrival (f : WireFrame) (p : Period) (s : State) : Host.Outcome State Fault Refusal :=
  .next (s.sampled { p with rx := some f })

/-- R32: a sample event at which a frame has arrived; the part judges the frame. -/
def execBadFrame (f : WireFrame) (p : Period) (s : State) : Host.Outcome State Fault Refusal :=
  .next (s.sampled { p with rx := some f })

/-- R34: a sample event at which no frame has arrived. -/
def execSilentSample (p : Period) (s : State) : Host.Outcome State Fault Refusal :=
  .next (s.sampled { p with rx := none })

/-- R36: a sample event at which a frame is heard on the tap. -/
def execTapFrame (f : WireFrame) (p : Period) (s : State) : Host.Outcome State Fault Refusal :=
  .next (s.sampled { p with rx := some f })

/-! ## POS's part of a sample event (log 1) -/

/-- The part of a sample event that a row names, where there are sample events and the named event comes about. -/
def State.part (comes : Bool) (act : State → State) (s : State) : State := if s.live && comes then act s else s

/-- POS's part of a sample event by itself, with the ramp lengths of the changes it hands on fixed at it (R73, log 6). -/
def State.posAlone (edge : Option FrameNo) (s : State) : State :=
  (s.posPhase edge).onDesk fun e d => d.fixLengths (rampLength e)

/-- R13: the sample event now taken is a due sample, in CHASING or a locked state. -/
def State.dueNow (s : State) : Bool :=
  match s.conf with
  | some c => s.pos.state != .unlocked && s.pos.due s.rate96 c.rate
  | none => false

/-- R13: a due sample without an edge. -/
def execFlywheel (s : State) : Host.Outcome State Fault Refusal := .next (s.part s.dueNow (State.posAlone none))

/-- R138: the sample event produces a tick. -/
def execTick (edge : Option FrameNo) (s : State) : Host.Outcome State Fault Refusal :=
  .next (s.part (s.posOut edge).made.isSome (State.posAlone edge))

/-- R137: the sample event produces a page crossing with an abort pending. -/
def State.abortDue (edge : Option FrameNo) (s : State) : Bool :=
  s.desk.auto.pendingAbort &&
    (match (s.posOut edge).made with
     | some t => t.crossing
     | none => false)

def execAbortFired (edge : Option FrameNo) (s : State) : Host.Outcome State Fault Refusal :=
  .next (s.part (s.abortDue edge) (State.posAlone edge))

/-- R127: the tick now produced is the last of the control's glide. -/
def State.glideDue (c : Fin 176) (edge : Option FrameNo) (s : State) : Bool :=
  s.env.live c && (s.desk.control c).pass == .gliding && (s.posOut edge).made.isSome &&
    (match (s.desk.control c).glide with
     | some g => g.length ≤ g.taken + 1
     | none => false)

def execGlideEnd (c : Fin 176) (edge : Option FrameNo) (s : State) : Host.Outcome State Fault Refusal :=
  .next (s.part (s.glideDue c edge) (State.posAlone edge))

/-! ## STRIP's, HOME's and TOUCH's parts -/

/-- R73: the ramp length of a change taken at the sample event now taken: POS stands then one sample event on, at which no
edge comes (log 6). -/
def State.nextRampLength (s : State) : Nat := rampLength { s.env with pos := (s.posOut none).pos }

/-- R74: the last step of a ramp. -/
def execRampEnd (r : FactorName) (s : State) : Host.Outcome State Fault Refusal :=
  .next (s.part ((s.desk.factor r).atLastStep s.nextRampLength)
    (State.onDesk fun _ d => d.advanceFactor r s.nextRampLength))

/-- R27: the settle counter reaches 0. -/
def execSettleEnd (s : State) : Host.Outcome State Fault Refusal :=
  .next (s.part (s.ring.settle == 1) fun s => (s.riseStep true).settleStep)

/-- R97: the settle factor reaches 1. -/
def State.riseDue (s : State) : Bool :=
  s.ring.settle == 0 && s.desk.home.rise.isSome && (Machine.riseStep s.rate96 false s.desk.home.rise).isNone

def execSettleRiseEnd (s : State) : Host.Outcome State Fault Refusal :=
  .next (s.part s.riseDue (State.riseStep false))

/-- The line's next reading of a level qualifies an edge (R82). -/
def State.edgeDue (f : Fin 32) (edge : LineEdge) (s : State) : Bool :=
  let x := s.desk.lineOf f
  x.enable && (x.read (intervalSamples s.rate96 x.interval) (edge == .touch)).2 == edge

/-- R83: a touch qualifies. -/
def execTouchQualified (f : Fin 32) (s : State) : Host.Outcome State Fault Refusal :=
  .next (s.part (s.edgeDue f .touch)
    (State.onDesk fun e d => d.lineStep e (!(d.lineOf f).activeLow) f))

/-- R83: a release qualifies. -/
def execReleaseQualified (f : Fin 32) (s : State) : Host.Outcome State Fault Refusal :=
  .next (s.part (s.edgeDue f .release) (State.onDesk fun e d => d.lineStep e (d.lineOf f).activeLow f))

/-! ## RING's part (log 1) -/

/-- RING's part of a sample event, the station's instant advanced. The cells are worked, and the entries placed stand in
flight, but the frame that would carry the cells belongs to the whole sample event: here they are dropped and none is emitted
(the model's choice, log 36). -/
def State.ringAlone (checkFirst : Bool) (rx : Option WireFrame) (s : State) : State :=
  (s.advanceInstant.ringPhase checkFirst rx).state

/-- The ring block after the arrival's run and adoption, the tag count advanced (R20 to R23). -/
def State.heard (f : WireFrame) (s : State) : Ring := (s.ring.advanceTag.countRun f).adoption s.self f

/-- R34: the eighth silent sample. -/
def execRingBreak (s : State) : Host.Outcome State Fault Refusal :=
  .next (s.part (s.ring.state.onRing && s.ring.silent == 7) (State.ringAlone true none))

/-- R23: the eighth frame of a run with a lower origin. -/
def execTagAdoption (f : WireFrame) (checkFirst : Bool) (s : State) : Host.Outcome State Fault Refusal :=
  .next (s.part (s.ring.state == .inserted && (s.ring.advanceTag.countRun f).run == 8 && f.origin.toNat < s.ring.origin)
    (State.ringAlone checkFirst (some f)))

/-- R33: the sixteenth bad frame in a row. -/
def execRelock (f : WireFrame) (s : State) : Host.Outcome State Fault Refusal :=
  .next (s.part (s.ring.state == .inserted && s.ring.badRun == 15 && !((s.heard f).good f))
    (State.ringAlone true (some f)))

/-- R33: the 64th good frame in a row. -/
def execRelockComplete (f : WireFrame) (checkFirst : Bool) (s : State) : Host.Outcome State Fault Refusal :=
  .next (s.part (s.ring.state == .relocking && s.ring.goodRun == 63 && (s.heard f).good f)
    (State.ringAlone checkFirst (some f)))

/-- R36: the 64th good frame of the lock phase. -/
def execLockPhaseEnd (f : WireFrame) (s : State) : Host.Outcome State Fault Refusal :=
  .next (s.part (s.ring.state == .locking && !s.ring.join.listening && s.ring.join.good == 63 &&
      ((s.ring.advanceTag.countRun f).adoptLocking f).good f)
    (State.ringAlone true (some f)))

/-- R37: the 1024th sample event of the listen phase. -/
def execListenPhaseEnd (rx : Option WireFrame) (s : State) : Host.Outcome State Fault Refusal :=
  .next (s.part (s.ring.state == .locking && s.ring.join.listening && s.ring.join.listenTime == 1023)
    (State.ringAlone true rx))

/-- R38: the 4096th sample event with no frame on the tap. -/
def execFirstIn (s : State) : Host.Outcome State Fault Refusal :=
  .next (s.part (s.ring.state == .locking && !s.ring.join.heardAny && s.ring.join.time == 4095)
    (State.ringAlone true none))

/-! ## NOTE's and HOME's counts -/

/-- R54: the slot's entry is lost 96 sp after its placement. -/
def State.deadlineDue (slot : Slot) (s : State) : Bool :=
  match s.desk.note.flight? slot with
  | some f => f.overdue (s.instant + 1)
  | none => false

def execNoticeDeadline (slot : Slot) (s : State) : Host.Outcome State Fault Refusal :=
  .next (s.part (s.deadlineDue slot) fun s => s.advanceInstant.expireFlight slot)

/-- R55: the holdings timer comes to 1024. -/
def execHoldingsTimer (s : State) : Host.Outcome State Fault Refusal :=
  .next (s.part (s.ring.state.onRing && s.desk.note.timer == 1023) (State.onDesk Desk.timerStep))

/-- R58: station x's age comes to 4096. -/
def execHoldingsExpiry (x : Fin 24) (s : State) : Host.Outcome State Fault Refusal :=
  .next (s.part (ageExpires s.desk.note.ages[x]) (State.onDesk fun e d => d.ageOf e x))

/-- R104: a remote driver of a homed bus whose lease comes to 2048. -/
def State.leaseDue (b : Fin 24) (s : State) : Bool :=
  s.env.homesBus b && (s.desk.homeOf b).lease == 2047 &&
    (match (s.desk.homeOf b).driver with
     | some x => x != s.self
     | none => false)

def execLeaseExpiry (b : Fin 24) (s : State) : Host.Outcome State Fault Refusal :=
  .next (s.part (s.leaseDue b) (State.onDesk fun e d => d.leaseStep e b))

/-- R108: the keepalive count of a driving requester comes to 512. -/
def execKeepalive (b : Fin 24) (s : State) : Host.Outcome State Fault Refusal :=
  .next (s.part (s.env.requestsBus b && (s.desk.reqOf b).claim == .driving && (s.desk.reqOf b).keepalive == 511)
    (State.onDesk fun _ d => d.keepaliveStep b))

end Sys2Proof.Machine
end

