-- ==== Sys2Proof/Machine/Dispatch.lean ====
section
/-!
DEFINITION. One arm for each command: the call of its meaning.
-/

namespace Sys2Proof.Machine

def exec (i : Instr) (s : State) : Host.Outcome State Fault Refusal :=
  match i with
  | .configure payload tail => Sys2Proof.Machine.execConfigure payload s tail
  | .join tail => Sys2Proof.Machine.execJoin s tail
  | .leave tail => Sys2Proof.Machine.execLeave s tail
  | .route strip form bus offset bus1 offset1 bus2 offset2 tail => Sys2Proof.Machine.execRoute strip form bus offset bus1 offset1 bus2 offset2 s tail
  | .solo strip flags tail => Sys2Proof.Machine.execSolo strip flags s tail
  | .touchset line flags interval tail => Sys2Proof.Machine.execTouchset line flags interval s tail
  | .map fader form target tail => Sys2Proof.Machine.execMap fader form target s tail
  | .surface form target value indication tail => Sys2Proof.Machine.execSurface form target value indication s tail
  | .drives tail => Sys2Proof.Machine.execDrives s tail
  | .control id mode safe glide tail => Sys2Proof.Machine.execControl id mode safe glide s tail
  | .window form inTick outTick tail => Sys2Proof.Machine.execWindow form inTick outTick s tail
  | .abortNow tail => Sys2Proof.Machine.execAbortNow s tail
  | .abortAtPageEnd tail => Sys2Proof.Machine.execAbortAtPageEnd s tail
  | .span form first last tail => Sys2Proof.Machine.execSpan form first last s tail
  | .deliver payload tail => Sys2Proof.Machine.execDeliver payload s tail
  | .take tail => Sys2Proof.Machine.execTake s tail
  | .passes tail => Sys2Proof.Machine.execPasses s tail
  | .status tail => Sys2Proof.Machine.execStatus s tail
  | .mask set tail => Sys2Proof.Machine.execMask set s tail
  | .restart tail => Sys2Proof.Machine.execRestart s tail
  | .format ldi => Sys2Proof.Machine.execFormat ldi s
  | .poll clocked => Sys2Proof.Machine.execPoll clocked s
  | .replyFormed => Sys2Proof.Machine.execReplyFormed s
  | .replyRead clocked => Sys2Proof.Machine.execReplyRead clocked s
  | .linkOverrun ldi => Sys2Proof.Machine.execLinkOverrun ldi s
  | .hardwareReset => Sys2Proof.Machine.execHardwareReset s
  | .resetRise strap rate96 => Sys2Proof.Machine.execResetRise strap rate96 s
  | .sampleEvent p => Sys2Proof.Machine.execSampleEvent p s
  | .clockLost => Sys2Proof.Machine.execClockLost s
  | .clockReturn => Sys2Proof.Machine.execClockReturn s
  | .frameEdge number p => Sys2Proof.Machine.execFrameEdge number p s
  | .flywheel => Sys2Proof.Machine.execFlywheel s
  | .tick edge => Sys2Proof.Machine.execTick edge s
  | .abortFired edge => Sys2Proof.Machine.execAbortFired edge s
  | .glideEnd c edge => Sys2Proof.Machine.execGlideEnd c edge s
  | .rampEnd r => Sys2Proof.Machine.execRampEnd r s
  | .touchQualified f => Sys2Proof.Machine.execTouchQualified f s
  | .releaseQualified f => Sys2Proof.Machine.execReleaseQualified f s
  | .frameArrival f p => Sys2Proof.Machine.execFrameArrival f p s
  | .badFrame f p => Sys2Proof.Machine.execBadFrame f p s
  | .silentSample p => Sys2Proof.Machine.execSilentSample p s
  | .ringBreak => Sys2Proof.Machine.execRingBreak s
  | .tagAdoption f checkFirst => Sys2Proof.Machine.execTagAdoption f checkFirst s
  | .relock f => Sys2Proof.Machine.execRelock f s
  | .relockComplete f checkFirst => Sys2Proof.Machine.execRelockComplete f checkFirst s
  | .settleEnd => Sys2Proof.Machine.execSettleEnd s
  | .settleRiseEnd => Sys2Proof.Machine.execSettleRiseEnd s
  | .tapFrame f p => Sys2Proof.Machine.execTapFrame f p s
  | .lockPhaseEnd f => Sys2Proof.Machine.execLockPhaseEnd f s
  | .listenPhaseEnd rx => Sys2Proof.Machine.execListenPhaseEnd rx s
  | .firstIn => Sys2Proof.Machine.execFirstIn s
  | .noticeDeadline slot => Sys2Proof.Machine.execNoticeDeadline slot s
  | .holdingsTimer => Sys2Proof.Machine.execHoldingsTimer s
  | .holdingsExpiry x => Sys2Proof.Machine.execHoldingsExpiry x s
  | .leaseExpiry b => Sys2Proof.Machine.execLeaseExpiry b s
  | .keepalive b => Sys2Proof.Machine.execKeepalive b s

end Sys2Proof.Machine
end

