-- ==== Sys2Proof/Safety.lean ====
section
/-!
DEFINITION. The terms that claims use: when LINK takes a command and what taking it leaves, when sample events reach the
part, the real number a gain stands for, the invariants of POS, RING, NOTE, PLAY, TAKE and the pass record queue, and a safe
run.
-/

namespace Sys2Proof.Machine

/-- R170: RESET is high and LINK is READY. -/
def State.ready (s : State) : Prop := s.resetLow = false ∧ s.link.state = .ready

/-- R170: the state after a command with a payload of `length` bytes is taken from a transfer that clocks `tail` bits after
its message: `s` holds its effects, `r` its reply, and LDO carried the idle pattern throughout. That the whole transfer is
one step is the model's choice (log 7). -/
def State.taken (length tail : Nat) (r : Reply) (s : State) : State :=
  { s with link := { s.link with state := .working r }, ldo := idleBits (8 * (5 + length) + tail) }

/-- R2, R180: sample events reach the part. -/
def State.clocked (s : State) : Prop := s.resetLow = false ∧ s.clock = true

/-- R170: what a transfer of n bits shows on LDO and does to the link state: a held reply is presented from its first bit,
and is read when the whole of it is clocked; else LDO is idle and the link state stays. -/
def Presented (n : Nat) (s t : State) : Prop :=
  t.ldo.length = n ∧
  (∀ r, s.link.state = .held r → 8 * r.bytes.length ≤ n →
    t.link.state = .ready ∧ t.ldo.take (8 * r.bytes.length) = bitsOf r.bytes) ∧
  (∀ r, s.link.state = .held r → n < 8 * r.bytes.length → t.link.state = .held r ∧ t.ldo = (bitsOf r.bytes).take n) ∧
  ((∀ r, s.link.state ≠ .held r) → t.link.state = s.link.state ∧ t.ldo = idleBits n)

/-- The two states differ at most in LINK, LDO and the model's counter of free values. -/
def SameButLink (s t : State) : Prop := t = { s with link := t.link, ldo := t.ldo, free := t.free }

/-- The two states differ at most in the desk, the link state and LDO, which carried the idle pattern for a transfer of a
command with a payload of `length` bytes and `tail` bits after its message (R170, log 7). -/
def SameButDesk (length tail : Nat) (s t : State) : Prop :=
  t = { s with desk := t.desk, link := { s.link with state := t.link.state }, ldo := idleBits (8 * (5 + length) + tail) }

/-- What a sample event never changes: RESET, the word clock, straps, configuration, LINK, LDO and the queue. -/
def SameOutsideSample (s t : State) : Prop :=
  t.resetLow = s.resetLow ∧ t.clock = s.clock ∧ t.strap = s.strap ∧ t.rate96 = s.rate96 ∧ t.conf = s.conf ∧
  t.link = s.link ∧ t.ldo = s.ldo ∧ t.pending = s.pending

/-- What NOTE, HOME, STRIP and TOUCH hold of the routing and of the settings of their own commands: sources, sends, solo
flags, line settings and the fader map. -/
def SameSettings (d d' : Desk) : Prop :=
  (∀ n : Fin 32, (d'.stripOf n).source = (d.stripOf n).source ∧ (d'.stripOf n).send1 = (d.stripOf n).send1 ∧
    (d'.stripOf n).send2 = (d.stripOf n).send2 ∧ (d'.stripOf n).solo = (d.stripOf n).solo ∧
    (d'.stripOf n).safe = (d.stripOf n).safe) ∧
  (∀ f : Fin 32, (d'.lineOf f).enable = (d.lineOf f).enable ∧ (d'.lineOf f).activeLow = (d.lineOf f).activeLow ∧
    (d'.lineOf f).interval = (d.lineOf f).interval) ∧
  d'.touch.map = d.touch.map ∧
  (∀ c : Fin 176, (d'.control c).mode = (d.control c).mode ∧ (d'.control c).safe = (d.control c).safe ∧
    (d'.control c).glideLength = (d.control c).glideLength) ∧
  d'.auto.window = d.auto.window

/-- The real number an exact factor stands for: the sum of c × 10^(e/160) over its terms, divided by `den` (log 21). -/
noncomputable def Gain.toReal (g : Gain) : ℝ :=
  (g.terms.map fun t => (t.2 : ℝ) * (10 : ℝ) ^ ((t.1 : ℝ) / 160)).sum / (g.den : ℝ)

/-- A factor the model can hold: a denominator above 0, and powers of the 160th root of 10 below 10 (log 21). -/
def Gain.wf (g : Gain) : Prop := g.den ≠ 0 ∧ ∀ t ∈ g.terms, t.1 < 160

/-- The records that the open passes leave when they all close at once with a reason, in ascending order of control id
(R132, R165; that the punch-out tick is the latest tick also before the punch-in tick is log 35's choice). -/
def Desk.openRecords (r : CloseReason) (d : Desk) : List PassRecord :=
  (List.finRange 176).filterMap fun c => (d.control c).openPass.map fun p => p.record c r

/-- R132: between the two states every open pass has closed with the reason, no pass has opened, and the records have joined
the queue's newest end. -/
def Desk.closedBy (r : CloseReason) (d d' : Desk) : Prop :=
  (∀ c : Fin 176, (d'.control c).openPass = none) ∧ d'.take.queue = d.take.queue ++ d.openRecords r

/-- POS comes before RING and TOUCH in the sample event of the period (log 2), and no lease runs out in it (R104), so that
nothing reaches a pass before POS does. -/
def State.posComesFirst (p : Period) (s : State) : Prop :=
  (p.order = .posRingTouch ∨ p.order = .posTouchRing) ∧
  ∀ b x, (s.desk.homeOf b).driver = some x → x ≠ s.self → (s.desk.homeOf b).lease < 2047

/-- No block but POS reaches AUTO at a sample event: the station is DETACHED, no line is enabled, no bus has a driver. -/
def State.autoLeftAlone (s : State) : Prop :=
  s.ring.state = .detached ∧ (∀ f : Fin 32, (s.desk.lineOf f).enable = false) ∧ ∀ b, (s.desk.homeOf b).driver = none

/-- The event flag is set (R176). -/
def State.flag (f : Flag) (s : State) : Bool := s.desk.flag f

/-- POS at rest: what R2, R13 and R17 make of every part but the frame number, and no tick produced since (R5). -/
def Pos.resting (p : Pos) : Prop :=
  p.offset = 0 ∧ p.chaseFrame = none ∧ p.run = none ∧ p.before = none ∧ p.fly = 0 ∧ p.tick = none ∧ p.cold = true

/-- The invariant of POS: UNLOCKED while UNCONFIGURED, at rest in UNLOCKED, a current tick in a locked state, which is not
cold (R5), the offset below spf, the flywheel count at most 3 (section 1.4, R1, R13, R16). -/
def State.posInv (s : State) : Prop :=
  (s.conf = none → s.pos.state = .unlocked) ∧
  (s.pos.state = .unlocked → s.pos.resting) ∧
  (s.pos.state.motion?.isSome → s.pos.tick.isSome ∧ s.pos.cold = false) ∧
  (∀ c, s.conf = some c → s.pos.offset < spf s.rate96 c.rate s.pos.frame) ∧
  s.pos.fly ≤ 3

/-- The invariant of RING: a station with an invalid strap is never configured and an UNCONFIGURED one never leaves
DETACHED (R18, R36); the present set holds the station itself while the relay is inserted and is empty otherwise (R26); a
settle interval lasts at most 50 sp (R27); only an inserted station is break head (R34, R40). -/
def State.ringInv (s : State) : Prop :=
  (24 ≤ s.self → s.conf = none) ∧
  (s.conf = none → s.ring.state = .detached) ∧
  (s.ring.state.onRing = true → StationSet.has s.ring.present s.self = true) ∧
  (s.ring.state.onRing = false → s.ring.present = 0) ∧
  s.ring.settle ≤ 50 ∧
  (s.ring.breakHead = true → s.ring.state.onRing = true)

/-- R49: no slot has two waiting entries or two entries in flight. -/
def Note.wf (n : Note) : Prop := (n.pending.map (·.slot)).Nodup ∧ (n.flight.map (·.slot)).Nodup

/-- R140, R145: no two slots hold the same page, a slot is WANTED exactly for the page of the wanted record, and the stray
count is at most 3. -/
def Play.wf (y : Play) : Prop :=
  (∀ (i j : Fin 4) (n : Page), y.slots[i].page? = some n → y.slots[j].page? = some n → i = j) ∧
  (∀ n : Page, (∃ i : Fin 4, y.slots[i] = .wanted n) ↔ y.wanted.map (·.page) = some n) ∧
  (∀ w, y.wanted = some w → w.strays ≤ 3)

/-- The take page a slot holds (R157). -/
def TakeSlot.page? : TakeSlot → Option TakePage
  | .free => none
  | .opened p | .closed p => some p

/-- R157: the closing order lists exactly the CLOSED slots, each once; at most one slot is OPEN; a take page holds 1 to 1024
moves. -/
def Take.wf (t : Take) : Prop :=
  t.order.Nodup ∧ (∀ i : Fin 4, i ∈ t.order ↔ ∃ p, t.slots[i] = .closed p) ∧
  (∀ (i j : Fin 4) (p q : TakePage), t.slots[i] = .opened p → t.slots[j] = .opened q → i = j) ∧
  (∀ (i : Fin 4) (p : TakePage), t.slots[i].page? = some p → 1 ≤ p.moves.length ∧ p.moves.length ≤ 1024)

/-- The number of controls with an open pass. -/
def Auto.openPasses (a : Auto) : Nat := a.controls.toList.countP fun x => x.openPass.isSome

/-- R122: the pass states that go with an open pass. -/
def PassState.isOpen : PassState → Bool
  | .writing | .gliding | .holding => true
  | .idle | .primed => false

/-- The invariant of AUTO and TAKE: a control has an open pass exactly in WRITING, GLIDING and HOLDING, the open-pass count
counts the open passes, the reservations equal it, and records and open passes together never exceed 32 (R122, R164). -/
def Desk.passInv (d : Desk) : Prop :=
  (∀ c : Fin 176, (d.control c).openPass.isSome = (d.control c).pass.isOpen) ∧
  d.auto.openCount = d.auto.openPasses ∧ d.take.reserved = d.auto.openCount ∧
  d.take.queue.length + d.take.reserved ≤ 32

/-- A safe run: every step answers a next state, and the invariants hold in it. -/
def SafeFrom : Nat → State → Prop
  | 0, s => s.posInv ∧ s.ringInv
  | n + 1, s => s.posInv ∧ s.ringInv ∧ ∃ t, step s = .next t ∧ SafeFrom n t

end Sys2Proof.Machine
end

