-- ==== Sys2Proof/Certificates/Slice0/Obligations.lean ====
section
/-!
DEFINITION. The statements for the provers: what the commands and events of the part do, what they leave alone, where each
completes, and the invariants that every step keeps.
-/

open Sys2Proof Sys2Proof.Machine

/-! ## The queue -/

/-- A step takes the command at the front of the queue, on the state with the queue's rest. -/
def Obligations.StepRunsFrontCommand : Prop :=
  ∀ (c : Instr) (rest : List Instr) (s : State), s.pending = c :: rest → step s = exec c { s with pending := rest }

/-- No command adds to, takes from or reorders the queue; every command answers a next state.
With an empty queue the block idles (the model's choice, log 5). -/
def Obligations.QueueOfCommands : Prop :=
  (∀ (c : Instr) (s : State), ∃ t, exec c s = .next t ∧ t.pending = s.pending) ∧
  (∀ s : State, s.pending = [] → step s = .next s)

/-! ## Messages (R169, R172, 11.3) -/

/-- Every command's message, with as many bits clocked after it as the command says, is read back as the command (R169, R172,
11.3). -/
def Obligations.MessageRoundTrip : Prop :=
  ∀ (i : Instr) (m : List Byte) (extra : List Bool), WellFormed i = true → encodeMessage i = some m →
    extra.length = tailOf i → decodeTransfer (bitsOf m ++ extra) = some i

/-- Whatever a transfer carries is read as a command only where it begins with that command's message; the bits after the
message are those the command says (R172). -/
def Obligations.OnlyMessagesDecode : Prop :=
  ∀ (ldi : List Bool) (i : Instr), decodeTransfer ldi = some i →
    WellFormed i = true ∧ ∃ m extra, encodeMessage i = some m ∧ ldi = bitsOf m ++ extra ∧ extra.length = tailOf i

/-- The check of R182: its value on the bytes 31h to 39h and on no bytes, and 0 over bytes followed by their own check. -/
def Obligations.CheckWord : Prop :=
  crc16 [0x31, 0x32, 0x33, 0x34, 0x35, 0x36, 0x37, 0x38, 0x39] = 0x29B1 ∧ crc16 [] = 0xFFFF ∧
    ∀ bs : List Byte, crc16 (bs ++ bytesOf 2 (crc16 bs).toNat) = 0

/-! ## LINK (chapter 10) -/

/-- R171: a message while LINK is WORKING or REPLY_HELD is discarded: LINK_OVERRUN is raised and the overrun count rises,
saturating; the transfer still presents and may read a held reply; nothing else changes. It holds of each of the twenty
commands with any bits after its message, and of LINK_OVERRUN itself with any bits that carry a message. That the whole
transfer is one step is the model's choice (log 7). -/
def Obligations.OverrunDiscardsTheMessage : Prop :=
  (∀ (i : Instr) (k : Byte) (p : List Byte) (s : State), payloadOf i = some (k, p) → s.resetLow = false →
    s.link.state ≠ .ready → ∃ t, exec i s = .next t ∧ Presented (8 * (5 + p.length) + tailOf i) s t ∧
      t = { s with desk := s.desk.raise .linkOverrun, ldo := t.ldo, free := t.free,
                   link := { s.link with state := t.link.state, overruns := countUp s.link.overruns } }) ∧
  (∀ (ldi : List Bool) (s : State), carriesMessage ldi = true → s.resetLow = false → s.link.state ≠ .ready →
    ∃ t, exec (.linkOverrun ldi) s = .next t ∧ Presented ldi.length s t ∧
      t = { s with desk := s.desk.raise .linkOverrun, ldo := t.ldo, free := t.free,
                   link := { s.link with state := t.link.state, overruns := countUp s.link.overruns } }) ∧
  (∀ d : Desk, (d.raise .linkOverrun).flag .linkOverrun = true) ∧
  (∀ c : BitVec 16, (countUp c).toNat = min (c.toNat + 1) 65535)

/-- R170: POLL and REPLY_READ are transfers without a message, of any number of bits: they present, and may read, a held
reply, and change nothing else; REPLY_FORMED moves WORKING to REPLY_HELD with the reply that was prepared. That a transfer is
one step is the model's choice (log 7). -/
def Obligations.TransfersWithoutMessage : Prop :=
  (∀ (n : Nat) (c : Instr) (s : State), c = .poll n ∨ c = .replyRead n → s.resetLow = false →
    ∃ t, exec c s = .next t ∧ Presented n s t ∧ SameButLink s t ∧ t.link = { s.link with state := t.link.state }) ∧
  (∀ (r : Reply) (s : State), s.resetLow = false → s.link.state = .working r →
    exec .replyFormed s = .next { s with link := { s.link with state := .held r } })

/-- R172: a message that fails LINK's tests is refused with FORMAT, the format count rises, and nothing else changes.
Section 10.4: while UNCONFIGURED every command but CONFIGURE, DRIVES, TAKE, PASSES, STATUS, MASK and RESTART is refused
with STATE and changes nothing. LDO is idle for all the bits of the transfer (R170), which is one step (log 7). -/
def Obligations.RefusedByLinkOrWhileUnconfigured : Prop :=
  (∀ (k : Byte) (ldi : List Bool) (s : State), s.ready → (bytesIn ldi).head? = some k → k ≠ 0xFF →
    decodeTransfer ldi = none →
    exec (.format ldi) s =
      .next { s with link := { s.link with formats := countUp s.link.formats, state := .working (.refused k .format) },
                     ldo := idleBits ldi.length }) ∧
  (∀ (i : Instr) (k : Byte) (p : List Byte) (s : State), WellFormed i = true → payloadOf i = some (k, p) → s.ready →
    s.conf = none → k ∉ [0x01, 0x09, 0x10, 0x11, 0x12, 0x13, 0x14] →
    exec i s = .next (s.taken p.length (tailOf i) (.refused k .state)))

/-- R177: MASK replaces the mask with the 22 flag bits given, in every state of the part, replies with the mask now in force
and changes nothing else. LDO is idle for all the bits of the transfer (R170), which is one step (log 7). -/
def Obligations.MaskResult : Prop :=
  ∀ (m : BitVec 24) (tail : Nat) (s : State), s.ready →
    exec (.mask m tail) s = .next (State.taken 3 tail (.done 0x13 (bytesOf 3 (m.toNat % 2 ^ 22)))
      { s with link := { s.link with mask := BitVec.ofNat 22 m.toNat } })

/-- R175: STATUS replies with the record of the instant, then clears the flags, both latch sets and both completion records,
and changes nothing else (the counter of free values is the model's own, log 26).
11.7: the record has 103 bytes; the transport state, the frame, the ring state, the present set, P, the flags, the mask
and the two counts stand at their places (the byte numbers of 11.7 count from 1). -/
def Obligations.StatusReportsThenClears : Prop :=
  (∀ (tail : Nat) (s : State), s.ready → ∃ t, exec (.status tail) s = .next t ∧
    t.link.state = .working (.done 0x12 s.statusRecord) ∧ t.ldo = idleBits (8 * 5 + tail) ∧
    t.desk.ev = { flags := 0, join := none, abort := none } ∧
    (∀ f : Fin 32, t.desk.lineOf f = { s.desk.lineOf f with touchLatch := false, releaseLatch := false }) ∧
    t = { s with desk := { s.desk with ev := t.desk.ev, touch := { s.desk.touch with lines := t.desk.touch.lines } },
                 link := { s.link with state := t.link.state }, ldo := t.ldo, free := t.free }) ∧
  (∀ s : State, s.statusRecord.length = 103 ∧
    s.statusRecord.take 4 = bytesOf 1 s.pos.state.code ++ bytesOf 3 s.pos.frame.toNat ∧
    (s.statusRecord.drop 23).take 5 = bytesOf 1 s.ring.state.code ++ bytesOf 3 s.ring.present.toNat ++
      bytesOf 1 (StationSet.count s.ring.present) ∧
    (s.statusRecord.drop 89).take 6 = bytesOf 3 s.desk.ev.flags.toNat ++ bytesOf 3 s.link.mask.toNat ∧
    s.statusRecord.drop 99 = bytesOf 2 s.link.overruns.toNat ++ bytesOf 2 s.link.formats.toNat)

/-- R178: LATN is high exactly while one of the six causes holds, whatever the link state, and low during a hardware reset;
the status record reports the causes, one bit for each row. -/
def Obligations.LatnCauses : Prop :=
  (∀ s : State, s.resetLow = false →
    (s.latn = true ↔
      (∃ f : Flag, s.flag f = true ∧ s.link.mask.getLsbD f.number = false) ∨
      (s.desk.ev.join.isSome ∨ s.desk.ev.abort.isSome) ∨
      (∃ (i : Fin 4) (p : TakePage), s.desk.take.slots[i] = .closed p) ∨ s.desk.take.queue ≠ [] ∨
      s.play.wanted.isSome ∨ (∃ f : Fin 32, s.desk.touch.drives[f].isSome))) ∧
  (∀ s : State, s.resetLow = true → s.latn = false) ∧
  (∀ s : State, (s.statusRecord.drop 95).take 1 = bytesOf 1 s.causeByte) ∧
  (∀ (s : State) (i : Fin 6), s.causeByte.testBit i.val = s.causes.getD i.val false)

/-- R176: an event flag that is set stays set through every command and event but STATUS, RESTART and the hardware reset. -/
def Obligations.FlagsStaySet : Prop :=
  ∀ (c : Instr) (f : Flag) (s t : State), (∀ n, c ≠ .status n ∧ c ≠ .restart n) → c ≠ .hardwareReset →
    (∀ x r, c ≠ .resetRise x r) → exec c s = .next t → s.flag f = true → t.flag f = true

/-- R179: what RESTART keeps, what it gives its reset value, and what it queues: the pending list is emptied (R63) and then
holds a SOLO of four 0 bits where the own bits held a 1 (R81), and on the ring a HOLDINGS and an ECHO of every homed bus with
the reset master values (R63, R98, R112), and nothing else. Which of these is the older is left open (log 29). -/
def Obligations.RestartResult : Prop :=
  ∀ (tail : Nat) (s : State), s.ready → ∃ t, exec (.restart tail) s = .next t ∧
    t.ring = { s.ring with badCount := 0,
                           state := if s.ring.state = .locking then .detached else s.ring.state } ∧
    t.play = Play.reset ∧ t.desk.strip = StripBlock.reset ∧ t.desk.touch = Touch.reset ∧ t.desk.auto = Auto.reset ∧
    t.desk.take = Take.reset ∧ t.desk.home = { HomeBlock.reset with rise := s.desk.home.rise } ∧
    t.desk.note.flight = [] ∧ t.desk.note.ages = s.desk.note.ages ∧ t.desk.note.timer = 0 ∧ t.desk.note.wf ∧
    t.desk.note.waiting? .solo =
      (if s.desk.strip.ownBits = 0 then none else some { slot := .solo, kind := .solo, payload := 0 }) ∧
    (t.desk.note.waiting? .holdings).map (·.kind) = (if s.ring.state.onRing then some .holdings else none) ∧
    t.desk.note.waiting? .roster = none ∧
    (∀ b : Fin 24, t.desk.note.waiting? (.claim b) = none ∧ t.desk.note.waiting? (.drive b) = none ∧
      t.desk.note.waiting? (.echo b) =
        (if s.ring.state.onRing && s.env.homesBus b then some { slot := .echo b, kind := .echo, payload := 927 }
         else none)) ∧
    t.desk.ev = Events.reset ∧
    t.link = { state := .working (.done 0x14 []), mask := 0, overruns := 0, formats := 0 } ∧
    t = { s with ring := t.ring, play := t.play, desk := t.desk, link := t.link, ldo := idleBits (8 * 5 + tail) }

/-! ## Hardware reset (R180) and reset values -/

/-- R180, R18: while RESET is low every block is at its hardware-reset values and the lines are low; when it rises the part
has read its straps, LINK is READY and the part is UNCONFIGURED. While RESET is low a transfer of any kind presents the idle
pattern and changes nothing else, and no other event does anything but a change of the word clock. That the word clock's
presence runs on through the reset (t.clock = s.clock) is the model's choice (log 15). -/
def Obligations.HardwareReset : Prop :=
  (∀ s : State, ∃ t, exec .hardwareReset s = .next t ∧ t.resetLow = true ∧ t.lrdy = false ∧ t.latn = false ∧
    t.conf = none ∧ t.pos = Pos.reset ∧ t.ring = Ring.reset s.self ∧ t.play = Play.reset ∧ t.desk = Desk.reset ∧
    t.link = Link.reset ∧ t.emitted = none ∧ t.stem = Vector.replicate 128 0 ∧ t.clock = s.clock) ∧
  (∀ (x : BitVec 5) (r : Bool) (s : State), s.resetLow = true → ∃ t, exec (.resetRise x r) s = .next t ∧
    t.resetLow = false ∧ t.strap = x ∧ t.rate96 = r ∧ t.lrdy = true ∧ t.latn = false ∧ t.conf = none ∧
    t.pos = Pos.reset ∧ t.ring = Ring.reset x.toNat ∧ t.play = Play.reset ∧ t.desk = Desk.reset ∧
    t.link = Link.reset ∧ t.emitted = none ∧ t.stem = Vector.replicate 128 0 ∧ t.clock = s.clock) ∧
  (∀ (c : Instr) (n : Nat) (s : State), s.resetLow = true → clockedOf c = some n →
    exec c s = .next { s with ldo := idleBits n }) ∧
  (∀ (c : Instr) (s : State), s.resetLow = true → clockedOf c = none → c ≠ .hardwareReset → (∀ x r, c ≠ .resetRise x r) →
    c ≠ .clockLost → c ≠ .clockReturn → exec c s = .next s)

/-- R17, R41, R62, R81, R93, R112, R139, R156, R168, R180: the values the chapters give for the hardware reset. That the
JOIN's marks heardAny and listening are clear is the model's choice (log 23). The invariants hold at reset. -/
def Obligations.ResetValuesAndInvariants : Prop :=
  (State.reset.conf = none ∧ State.reset.pos.state = .unlocked ∧ State.reset.pos.frame = 0 ∧ State.reset.pos.resting ∧
  State.reset.ring.state = .detached ∧ State.reset.ring.tag = 0 ∧ State.reset.ring.origin = State.reset.self ∧
  State.reset.ring.present = 0 ∧ State.reset.ring.badCount = 0 ∧ State.reset.ring.settle = 0 ∧
  State.reset.ring.breakHead = false ∧ State.reset.ring.run = 0 ∧ State.reset.ring.badRun = 0 ∧
  State.reset.ring.goodRun = 0 ∧ State.reset.ring.silent = 0 ∧
  State.reset.ring.join = { good := 0, time := 0, heardAny := false, listening := false, listenTime := 0, heard := 0,
                            upstream := none } ∧
  State.reset.desk.note.pending = [] ∧ State.reset.desk.note.flight = [] ∧
  State.reset.desk.note.timer = 0 ∧ (∀ x : Fin 24, State.reset.desk.note.ages[x] = none)) ∧
  (∀ n : Fin 32, State.reset.desk.stripOf n =
    { source := .none, send1 := none, send2 := none, solo := false, safe := false,
      level := { value := Gain.zero, target := Gain.zero, ramp := .held },
      mute := { value := Gain.one, target := Gain.one, ramp := .held },
      fsend1 := { value := Gain.zero, target := Gain.zero, ramp := .held },
      fsend2 := { value := Gain.zero, target := Gain.zero, ramp := .held },
      gate1 := { value := Gain.one, target := Gain.one, ramp := .held },
      gate2 := { value := Gain.one, target := Gain.one, ramp := .held },
      hist1 := List.replicate 48 0, hist2 := List.replicate 48 0 }) ∧
  (State.reset.desk.strip.ownBits = 0 ∧ (∀ z : Fin 4, State.reset.desk.strip.zones[z] = 0) ∧
  settleGain false State.reset.desk.home.rise = Gain.one ∧
  (∀ b : Fin 24, State.reset.desk.homeOf b =
      { master := { value := Gain.one, target := Gain.one, ramp := .held },
        mute := { value := Gain.one, target := Gain.one, ramp := .held },
        driver := none, lease := 0, level := 927, muted := false } ∧
    State.reset.desk.reqOf b = { claim := .none, deferred := false, reclaim := false, level := 927, muted := false,
                                 keepalive := 0, echo := none }) ∧
  (∀ f : Fin 32, State.reset.desk.lineOf f =
      { enable := false, activeLow := false, interval := 2, state := .untouched, count := 0, touchLatch := false,
        releaseLatch := false, lastTouch := none, lastRelease := none } ∧
    State.reset.desk.touch.map[f] = .strip f ∧ State.reset.desk.touch.drives[f] = none) ∧
  (∀ k : TouchTarget, State.reset.desk.touch.target k = { held := 0, surfaced := false })) ∧
  ((∀ c : Fin 176, State.reset.desk.control c =
    { mode := .off, safe := false, glideLength := 0, touched := false,
      surface := if 128 ≤ c.val ∧ c.val % 2 = 0 then 927 else 0,
      playback := if 128 ≤ c.val ∧ c.val % 2 = 0 then 927 else 0,
      applied := if 128 ≤ c.val ∧ c.val % 2 = 0 then 927 else 0,
      pass := .idle, openPass := none, lastMove := none, glide := none }) ∧
  State.reset.desk.auto.window = none ∧ State.reset.desk.auto.pendingAbort = false ∧
  State.reset.desk.auto.nextSerial = 0 ∧ State.reset.desk.auto.openCount = 0) ∧
  ((∀ i : Fin 4, State.reset.play.slots[i] = .free ∧ State.reset.desk.take.slots[i] = .free) ∧
  State.reset.play.wanted = none ∧ State.reset.play.span = none ∧ State.reset.play.entered = none ∧
  State.reset.desk.take.order = [] ∧ State.reset.desk.take.lost = none ∧ State.reset.desk.take.queue = [] ∧
  State.reset.desk.take.reserved = 0 ∧
  State.reset.link = { state := .ready, mask := 0, overruns := 0, formats := 0 } ∧
  State.reset.desk.ev = { flags := 0, join := none, abort := none }) ∧
  (State.reset.posInv ∧ State.reset.ringInv ∧ State.reset.desk.note.wf ∧ State.reset.desk.passInv ∧
    State.reset.play.wf ∧ State.reset.desk.take.wf)

/-! ## Invariants that every step keeps -/

/-- Section 1.4: POS is UNLOCKED while UNCONFIGURED, at rest in UNLOCKED, has a current tick in a locked state, and its
offset stays below spf. -/
def Obligations.PosInvariantKept : Prop :=
  ∀ s t : State, s.posInv → step s = .next t → t.posInv

/-- R18, R26, R27, R34: the present set holds the station exactly while its relay is inserted. -/
def Obligations.RingInvariantKept : Prop :=
  ∀ s t : State, s.ringInv → step s = .next t → t.ringInv

/-- R122, R164: open passes, reservations and pass states agree, and records and open passes together never exceed 32. -/
def Obligations.PassInvariantKept : Prop :=
  ∀ s t : State, s.desk.passInv → step s = .next t → t.desk.passInv

/-! ## POS (chapter 1) -/

/-- R10, R11, R4: at the due sample of a locked state, an edge whose step is +1, 0 or −1 makes the state that of the step,
the frame the edge's, the offset 0 and the flywheel count 0, and produces the frame's quarter 0 tick; ROLL, STOP and REVERSE
are raised as R11 says, and a motion that continues raises none of them.
R5: the tick is a page crossing exactly where the step is +1 or −1 and leaves one page for another.
R132, R133: STOP and REVERSE close every open pass with their reason, in ascending order of control id. Where POS comes before
RING and TOUCH in the sample event (the sender's choice, log 2) and no lease runs out in it, these are its first records. -/
def Obligations.FrameEdgeOnTime : Prop :=
  ∀ (s : State) (c : Conf) (m m' : Motion) (f : FrameNo) (p : Period), s.clocked → s.conf = some c →
    s.pos.state = m.transport → s.pos.due s.rate96 c.rate = true → stepClass s.pos.frame f = some m' →
    ∃ t, exec (.frameEdge f p) s = .next t ∧ t.pos.state = m'.transport ∧ t.pos.frame = f ∧ t.pos.offset = 0 ∧
      t.pos.fly = 0 ∧ t.pos.tick = some (BitVec.ofNat 26 (f.toNat * 4)) ∧
      t.flag .roll = (s.flag .roll || decide (m' = .rolling ∧ m ≠ .rolling)) ∧
      t.flag .stop = (s.flag .stop || decide (m' = .parked ∧ m = .rolling)) ∧
      t.flag .reverse = (s.flag .reverse || decide (m' = .reverse ∧ m ≠ .reverse)) ∧
      (s.posInv → (s.posOut (some f)).made = some
        { index := BitVec.ofNat 26 (f.toNat * 4),
          crossing := decide (m' ≠ .parked ∧ s.pos.frame.toNat / 16 ≠ f.toNat / 16) }) ∧
      (∀ r, m' = .parked ∧ m = .rolling ∧ r = .stop ∨ m' = .reverse ∧ m ≠ .reverse ∧ r = .reverse →
        s.posComesFirst p → s.desk.take.queue ++ s.desk.openRecords r <+: t.desk.take.queue) ∧
      SameOutsideSample s t

/-- R8, R10, R12: a fresh start from UNLOCKED, a jump at the due sample of a locked state, and an off-time edge in a locked
state all enter CHASING at the edge's frame with that chase frame and offset 0; a jump raises JUMP and clears the current
tick; an off-time edge raises FRAMING and keeps the motion and the current tick where its step is no jump.
R9, R11: in CHASING an edge that is off time, or finds the chase frame absent, is a fresh start; an edge on time whose step is
the run's completes the chase, and any other step of +1, 0 or −1 sets the run; a jump raises JUMP.
R5: the first tick after UNLOCKED is no crossing. That the tick which completes any other chase is one by its step and pages,
also a chase that a JUMP began, is the model's reading (log 28, DEDUCED and unsafe); that a completed chase leaves the run
absent is the model's reading too (log 10).
R132, R133: a JUMP closes every open pass with reason JUMP, in ascending order of control id; where POS comes before RING and
TOUCH in the sample event (the sender's choice, log 2) and no lease runs out in it, these are its first records. FRAMING closes
none: where no other block reaches AUTO, all of AUTO and TAKE is as before. -/
def Obligations.FrameEdgeIntoChase : Prop :=
  (∀ (s : State) (c : Conf) (f : FrameNo) (p : Period), s.clocked → s.conf = some c →
    (s.pos.state = .unlocked → ∃ t, exec (.frameEdge f p) s = .next t ∧ t.pos.state = .chasing ∧ t.pos.frame = f ∧
      t.pos.offset = 0 ∧ t.pos.chaseFrame = some f ∧ t.pos.tick = none ∧ SameOutsideSample s t) ∧
    (∀ m : Motion, s.pos.state = m.transport → s.pos.due s.rate96 c.rate = true → stepClass s.pos.frame f = none →
      ∃ t, exec (.frameEdge f p) s = .next t ∧ t.pos.state = .chasing ∧ t.pos.frame = f ∧ t.pos.offset = 0 ∧
        t.pos.chaseFrame = some f ∧ t.pos.tick = none ∧ t.flag .jump = true ∧ t.play.entered = none ∧
        (s.posComesFirst p → s.desk.take.queue ++ s.desk.openRecords .jump <+: t.desk.take.queue) ∧ SameOutsideSample s t) ∧
    (∀ m : Motion, s.pos.state = m.transport → s.pos.due s.rate96 c.rate = false →
      ∃ t, exec (.frameEdge f p) s = .next t ∧ t.pos.state = .chasing ∧ t.pos.frame = f ∧ t.pos.offset = 0 ∧
        t.pos.chaseFrame = some f ∧ t.flag .framing = true ∧
        ((stepClass s.pos.frame f).isSome → t.pos.tick = s.pos.tick ∧ t.pos.before = some m ∧
          (s.autoLeftAlone → t.desk.auto = s.desk.auto ∧ t.desk.take = s.desk.take)) ∧
        (stepClass s.pos.frame f = none → t.flag .jump = true ∧ t.pos.tick = none ∧
          (s.posComesFirst p → s.desk.take.queue ++ s.desk.openRecords .jump <+: t.desk.take.queue)) ∧
        SameOutsideSample s t)) ∧
  (∀ (s : State) (c : Conf) (f : FrameNo) (p : Period), s.clocked → s.conf = some c → s.pos.state = .chasing →
    (s.pos.due s.rate96 c.rate = false ∨ s.pos.chaseFrame = none → ∃ t, exec (.frameEdge f p) s = .next t ∧
      ((stepClass s.pos.frame f).isSome →
        t.pos = { s.pos with frame := f, offset := 0, chaseFrame := some f, run := none, fly := 0 }) ∧
      (stepClass s.pos.frame f = none → t.flag .jump = true ∧ t.play.entered = none ∧
        t.pos = { s.pos with frame := f, offset := 0, chaseFrame := some f, run := none, fly := 0, before := none,
                             tick := none } ∧
        (s.posComesFirst p → s.desk.take.queue ++ s.desk.openRecords .jump <+: t.desk.take.queue)) ∧
      SameOutsideSample s t) ∧
    (∀ x m, s.pos.due s.rate96 c.rate = true → s.pos.chaseFrame = some x → stepClass x f = some m →
      ∃ t, exec (.frameEdge f p) s = .next t ∧ SameOutsideSample s t ∧
        (s.pos.run ≠ some m →
          t.pos = { s.pos with frame := f, offset := 0, chaseFrame := some f, fly := 0, run := some m }) ∧
        (s.pos.run = some m → t.pos.state = m.transport ∧ t.pos.frame = f ∧ t.pos.offset = 0 ∧ t.pos.fly = 0 ∧
          t.pos.run = none ∧ t.pos.before = none ∧ t.pos.tick = some (BitVec.ofNat 26 (f.toNat * 4)) ∧
          t.flag .roll = (s.flag .roll || decide (m = .rolling ∧ s.pos.before ≠ some .rolling)) ∧
          t.flag .stop = (s.flag .stop || decide (m = .parked ∧ s.pos.before = some .rolling)) ∧
          t.flag .reverse = (s.flag .reverse || decide (m = .reverse ∧ s.pos.before ≠ some .reverse)) ∧
          (s.posOut (some f)).made = some
            { index := BitVec.ofNat 26 (f.toNat * 4),
              crossing := decide (m ≠ .parked ∧ s.pos.frame.toNat / 16 ≠ f.toNat / 16 ∧ s.pos.cold = false) })) ∧
    (∀ x, s.pos.due s.rate96 c.rate = true → s.pos.chaseFrame = some x → stepClass x f = none →
      ∃ t, exec (.frameEdge f p) s = .next t ∧ t.flag .jump = true ∧ t.play.entered = none ∧ SameOutsideSample s t ∧
        (s.posComesFirst p → s.desk.take.queue ++ s.desk.openRecords .jump <+: t.desk.take.queue) ∧
        t.pos = { s.pos with frame := f, offset := 0, chaseFrame := some f, fly := 0, run := none, before := none,
                             tick := none }))

/-- R13: a due sample without an edge moves a locked position to the frame that continues its motion, raises the flywheel
count and produces the quarter 0 tick; the fourth in a row raises REF_LOST and leaves POS at rest in UNLOCKED with its frame.
R9: in CHASING it makes the offset 0 and the chase frame and run absent, and the fourth in a row unlocks likewise.
R132, R133: REF_LOST closes every open pass with reason REF, in ascending order of control id.
That the row is POS's part of the sample event alone, with the other blocks as they were, is the model's choice (log 1); so is
the instant at which a ramp length is fixed (log 6). -/
def Obligations.FlywheelResult : Prop :=
  (∀ (s : State) (c : Conf) (m : Motion), s.clocked → s.conf = some c → s.pos.state = m.transport →
    s.pos.due s.rate96 c.rate = true →
    (s.pos.fly < 3 → ∃ t, exec .flywheel s = .next t ∧ t.pos.state = s.pos.state ∧ t.pos.frame = predicted m s.pos.frame ∧
      t.pos.offset = 0 ∧ t.pos.fly = s.pos.fly + 1 ∧
      t.pos.tick = some (BitVec.ofNat 26 ((predicted m s.pos.frame).toNat * 4)) ∧ SameOutsideSample s t ∧
      t.ring = s.ring ∧ t.instant = s.instant ∧ t.stem = s.stem ∧ t.emitted = s.emitted) ∧
    (s.pos.fly = 3 → ∃ t, exec .flywheel s = .next t ∧ t.pos.state = .unlocked ∧ t.pos.frame = s.pos.frame ∧
      t.pos.resting ∧ t.flag .refLost = true ∧ s.desk.closedBy .ref t.desk ∧ SameOutsideSample s t ∧
      t.ring = s.ring ∧ t.play = s.play)) ∧
  (∀ (s : State) (c : Conf), s.clocked → s.conf = some c → s.pos.state = .chasing → s.pos.due s.rate96 c.rate = true →
    (s.pos.fly < 3 → ∃ t, exec .flywheel s = .next t ∧
      t.pos = { s.pos with offset := 0, chaseFrame := none, run := none, fly := s.pos.fly + 1 } ∧
      t = { s with pos := t.pos, desk := s.desk.fixLengths (if s.rate96 then 1000 else 500) }) ∧
    (s.pos.fly = 3 → ∃ t, exec .flywheel s = .next t ∧ t.pos.state = .unlocked ∧ t.pos.frame = s.pos.frame ∧
      t.pos.resting ∧ t.flag .refLost = true ∧ s.desk.closedBy .ref t.desk ∧ SameOutsideSample s t ∧
      t.ring = s.ring ∧ t.play = s.play))

/-- R4, R6: between edges a locked position moves by one sample, and at the start of quarter q the tick frame × 4 + q
becomes the current tick; PLAY has then entered the tick's page (R153).
R118, R120, R121: at a tick every live control takes its value in force, if there is one, as playback value and the value of
its mode and pass state as applied value; a glide not at its end counts the tick and applies the glide value.
R118, R152: the value in force is that of the control's latest move at or before the tick in the page held READY, else that of
its entry in the page; there is none without such a page. That the row is POS's part of the sample event alone, with RING and
the audio as they were, is the model's choice (log 1). -/
def Obligations.TickResult : Prop :=
  (∀ (s : State) (c : Conf) (m : Motion) (q : Fin 4), s.clocked → s.conf = some c → s.pos.state = m.transport →
    0 < q.val → s.pos.offset + 1 = q.val * spf s.rate96 c.rate s.pos.frame / 4 →
    ∃ t, exec (.tick none) s = .next t ∧
      t.pos = { s.pos with offset := s.pos.offset + 1, cold := false,
                           tick := some (BitVec.ofNat 26 (s.pos.frame.toNat * 4 + q.val)) } ∧
      t.play.entered = some (BitVec.ofNat 20 ((s.pos.frame.toNat * 4 + q.val) / 64)) ∧ SameOutsideSample s t ∧
      t.ring = s.ring ∧ t.instant = s.instant ∧ t.stem = s.stem ∧ t.emitted = s.emitted) ∧
  (∀ (s : State) (edge : Option FrameNo) (k : MadeTick), s.clocked → (s.posOut edge).made = some k →
    ∃ t, exec (.tick edge) s = .next t ∧ t.pos = (s.posOut edge).pos ∧ SameOutsideSample s t ∧
      (∀ c, (t.desk.control c).playback =
        if s.env.live c then (t.play.inForce k.index c).getD (s.desk.control c).playback
        else (s.desk.control c).playback) ∧
      (∀ c x, s.env.live c = true → t.desk.control c = x → x.pass ≠ .gliding →
        (x.mode = .off ∨ x.mode = .write ∨
            (x.mode = .touch ∨ x.mode = .latch) ∧ (x.pass = .primed ∨ x.pass = .writing) → x.applied = x.surface) ∧
        (x.mode = .read ∨ (x.mode = .touch ∨ x.mode = .latch) ∧ x.pass = .idle → x.applied = x.playback)) ∧
      (∀ c g, (s.posOut edge).events = [] → s.desk.auto.pendingAbort = false →
        (∀ i o, s.desk.auto.window = some (i, o) → k.index < o) → s.env.live c = true →
        (s.desk.control c).pass = .gliding → (s.desk.control c).glide = some g → g.taken + 1 < g.length →
        (t.desk.control c).pass = .gliding ∧ (t.desk.control c).glide = some { g with taken := g.taken + 1 } ∧
        (t.desk.control c).applied = glideValue g.start (t.desk.control c).playback (g.taken + 1) g.length)) ∧
  (∀ (w p : Value) (j g : Nat), 0 < g → j ≤ g →
    2 * g * (glideValue w p j g).toNat ≤ 2 * (w.toNat * (g - j) + p.toNat * j) + g ∧
    2 * (w.toNat * (g - j) + p.toNat * j) + g < 2 * g * ((glideValue w p j g).toNat + 1)) ∧
  (∀ (y : PlayPage) (o : BitVec 6) (c : Fin 176),
    (∀ l m r, y.moves = l ++ m :: r → m.control = c → m.offset ≤ o → (∀ x ∈ r, ¬ (x.control = c ∧ x.offset ≤ o)) →
      y.valueAt o c = some m.value) ∧
    ((∀ x ∈ y.moves, ¬ (x.control = c ∧ x.offset ≤ o)) →
      (∀ l v r, y.entries = l ++ (c, v) :: r → (∀ x ∈ l, x.1 ≠ c) → y.valueAt o c = some v) ∧
      ((∀ x ∈ y.entries, x.1 ≠ c) → y.valueAt o c = none))) ∧
  (∀ (w : Play) (k : Tick) (c : Fin 176), w.wf →
    (∀ (i : Fin 4) (y : PlayPage), w.slots[i] = .ready y → y.number.toNat = k.toNat / 64 →
      w.inForce k c = y.valueAt (BitVec.ofNat 6 (k.toNat % 64)) c) ∧
    ((∀ (i : Fin 4) (y : PlayPage), w.slots[i] = .ready y → y.number.toNat ≠ k.toNat / 64) → w.inForce k c = none))

/-- R2: the loss of a word clock unlocks POS, raises CLOCK_LOST and stops the station's emission, its ring state, roster and
numbering kept; the return raises nothing and changes nothing else. R132, R133: the loss closes every open pass with reason
REF, in ascending order of control id. That the stem stream keeps its last values (t.stem = s.stem) is the model's choice
(log 22). -/
def Obligations.WordClock : Prop :=
  (∀ s : State, s.clocked → ∃ t, exec .clockLost s = .next t ∧ t.clock = false ∧ t.pos.state = .unlocked ∧
    t.pos.frame = s.pos.frame ∧ t.pos.resting ∧ t.flag .clockLost = true ∧ s.desk.closedBy .ref t.desk ∧
    t.ring = s.ring ∧ t.play = s.play ∧ t.emitted = none ∧ t.stem = s.stem ∧ t.instant = s.instant ∧
    t.conf = s.conf ∧ t.link = s.link ∧
    t.desk.home.reqs = s.desk.home.reqs ∧ t.desk.touch.lines = s.desk.touch.lines ∧ SameSettings s.desk t.desk) ∧
  (∀ s : State, exec .clockReturn s = .next { s with clock := true }) ∧
  (∀ (s : State) (p : Period), s.clock = false → exec (.sampleEvent p) s = .next s)

/-! ## Sample events and the ring (chapters 1, 2) -/

/-- R19, R20, R95: at a sample event of a station that is DETACHED the tag count and the sample event count advance, the
settle counter falls, nothing is emitted and every slot of the stem stream is zero; the present set and the configuration
stay, and while UNCONFIGURED so does POS (R1). That the consistency run is 0 in DETACHED, also where the period brings a frame,
is a reading of R21 (log 14).
R20: an inserted station emits at every sample event a frame with a right check, its own number as emitter, its tag count
and its tag origin. -/
def Obligations.SampleEventOnAndOffTheRing : Prop :=
  (∀ (s : State) (p : Period), s.clocked → s.ring.state = .detached →
    ∃ t, exec (.sampleEvent p) s = .next t ∧ t.instant = s.instant + 1 ∧
      t.ring = { s.ring with tag := s.ring.tag + 1, run := 0, settle := s.ring.settle - 1 } ∧ t.emitted = none ∧
      (∀ n : Fin 128, t.stem[n] = 0) ∧ (s.conf = none → t.pos = s.pos) ∧ SameOutsideSample s t) ∧
  (∀ (s : State) (p : Period), s.clocked → s.ring.state.onRing = true → ∃ t f, exec (.sampleEvent p) s = .next t ∧
    t.emitted = some f ∧ checkRight f = true ∧ f.emitter = BitVec.ofNat 8 s.self ∧ f.tag = t.ring.tag ∧
    f.origin = BitVec.ofNat 8 t.ring.origin ∧ SameOutsideSample s t)

/-- R30, R65, R67, R72: at a sample event the newest entry of a strip's history is the product of its source sample and its
five factors of the instant, rounded once, and the 47 newest entries of before stand behind it. The source sample is the
strip's input slot, or zero without a source.
R66: for a RETURN it is the home's output of that lane at the same instant: the lap sum times master, mute and settle factor,
rounded once and saturated to 24 bits, at a good frame, and zero at a bad one, with none, or off the ring. -/
def Obligations.SampleEventSendOutputs : Prop :=
  (∀ (s : State) (p : Period), s.clocked → ∃ t, exec (.sampleEvent p) s = .next t ∧
    ∀ (n : Fin 32) (x : Int), ((t.desk.stripOf n).source = .input ∧ x = p.samples[n].toInt ∨
        (t.desk.stripOf n).source = .none ∧ x = 0 ∨
        (∃ b k, (t.desk.stripOf n).source = .ret b k) ∧ x = 0 ∧ (s.ring.state.onRing = false ∨ p.rx = none ∨
          ∃ f, p.rx = some f ∧ (s.heard f).good f = false)) →
      (t.desk.stripOf n).hist1 = BitVec.ofInt 32 (Gain.round x
        (((((t.desk.stripOf n).level.value.mul (t.desk.stripOf n).mute.value).mul (t.desk.stripOf n).fsend1.value).mul
          (t.desk.stripOf n).gate1.value))) :: (s.desk.stripOf n).hist1.take 47 ∧
      (t.desk.stripOf n).hist2 = BitVec.ofInt 32 (Gain.round x
        (((((t.desk.stripOf n).level.value.mul (t.desk.stripOf n).mute.value).mul (t.desk.stripOf n).fsend2.value).mul
          (t.desk.stripOf n).gate2.value))) :: (s.desk.stripOf n).hist2.take 47) ∧
  (∀ (s : State) (f : WireFrame) (p : Period), s.clocked → s.ring.state.onRing = true → (s.heard f).good f = true →
    ∃ t, exec (.frameArrival f p) s = .next t ∧ ∀ (n : Fin 32) (b : Fin 24) (k : Nat) (y : Bus) (l : Fin 128) (x : Int),
      (t.desk.stripOf n).source = .ret b k → s.env.bus? b = some y → y.home = s.self → y.first + k = l.val →
      s.env.busOfLane? l.val = some (b, y) →
      x = saturate 24 (Gain.round f.lanes[l].toInt
        (((t.desk.homeOf b).master.value.mul (t.desk.homeOf b).mute.value).mul
          (settleGain s.rate96 t.desk.home.rise))) →
      (t.desk.stripOf n).hist1 = BitVec.ofInt 32 (Gain.round x
        (((((t.desk.stripOf n).level.value.mul (t.desk.stripOf n).mute.value).mul (t.desk.stripOf n).fsend1.value).mul
          (t.desk.stripOf n).gate1.value))) :: (s.desk.stripOf n).hist1.take 47 ∧
      (t.desk.stripOf n).hist2 = BitVec.ofInt 32 (Gain.round x
        (((((t.desk.stripOf n).level.value.mul (t.desk.stripOf n).mute.value).mul (t.desk.stripOf n).fsend2.value).mul
          (t.desk.stripOf n).gate2.value))) :: (s.desk.stripOf n).hist2.take 47)

/-- R28, R31, R29: at the arrival of a good frame, idle and orphan lanes leave as zero; a lane homed here leaves with the
station's own contribution and any other lane with the sum saturated to 32 bits, the contribution being zero in RELOCKING
and CONFLICT, so that such a lane is then forwarded unchanged. The own contribution is the sum over every send that feeds the
lane of its history's entry at d + c, saturated once: d counts the present stations from the home to this one, and c is P for
an INPUT strip into a STEM, else 0. That ring state and present set are those of the start of the sample event is log 18's
reading.
R94, R95: at the arrival of a good frame, the slot of a lane of a STEM bus homed here carries the lap sum times master,
mute and settle factor, rounded once and saturated to 24 bits; every other slot carries zero. -/
def Obligations.GoodArrivalLanesAndStems : Prop :=
  (∀ (s : State) (f : WireFrame) (p : Period), s.clocked → s.ring.state.onRing = true → (s.heard f).good f = true →
    ∃ t g, exec (.frameArrival f p) s = .next t ∧ t.emitted = some g ∧ ∀ n : Fin 128,
      (s.env.busOfLane? n.val = none → g.lanes[n] = 0) ∧
      (∀ b x, s.env.busOfLane? n.val = some (b, x) →
        (StationSet.has s.ring.present x.home = false → g.lanes[n] = 0) ∧
        (StationSet.has s.ring.present x.home = true →
          (s.ring.state = .inserted → x.home = s.self →
            g.lanes[n] = BitVec.ofInt 32 (t.desk.contribution s.env s.ring.present n.val)) ∧
          (s.ring.state = .inserted → x.home ≠ s.self → g.lanes[n] =
            BitVec.ofInt 32 (saturate 32 (f.lanes[n].toInt + t.desk.contribution s.env s.ring.present n.val))) ∧
          (s.ring.state ≠ .inserted → x.home = s.self → g.lanes[n] = 0) ∧
          (s.ring.state ≠ .inserted → x.home ≠ s.self → g.lanes[n] = f.lanes[n])))) ∧
  (∀ (e : Env) (present : StationSet) (n : Nat) (d : Desk), d.contribution e present n =
    max (-2147483648) (min 2147483647 (((List.finRange 32).map fun j =>
      ([((d.stripOf j).send1, (d.stripOf j).hist1), ((d.stripOf j).send2, (d.stripOf j).hist2)].map fun z =>
        match z.1 with
        | none => 0
        | some y =>
          match e.bus? y.bus with
          | none => 0
          | some x =>
            if x.first + y.offset = n then
              (z.2.getD (((List.range 24).filter fun w => StationSet.has present w && 0 < (w + 24 - x.home) % 24 &&
                  (w + 24 - x.home) % 24 ≤ (e.self + 24 - x.home) % 24).length +
                if (d.stripOf j).source = .input ∧ x.kind = .stem then StationSet.count present else 0) 0).toInt
            else 0).sum).sum))) ∧
  (∀ (s : State) (f : WireFrame) (p : Period), s.clocked → s.ring.state.onRing = true → (s.heard f).good f = true →
    ∃ t, exec (.frameArrival f p) s = .next t ∧ ∀ n : Fin 128,
      (∀ b x, s.env.busOfLane? n.val = some (b, x) → x.kind = .stem → x.home = s.self →
        t.stem[n] = BitVec.ofInt 24 (saturate 24 (Gain.round f.lanes[n].toInt
          (((t.desk.homeOf b).master.value.mul (t.desk.homeOf b).mute.value).mul
            (settleGain s.rate96 t.desk.home.rise))))) ∧
      ((∀ b x, s.env.busOfLane? n.val = some (b, x) → ¬ (x.kind = .stem ∧ x.home = s.self)) → t.stem[n] = 0))

/-- R32: a bad frame at an inserted station counts in the bad-frame counter and run and ends the good-frame run, raises
BAD_FRAME, and gives every home zero.
R34: a silent sample at an inserted station ends the consistency and good-frame runs and counts; the bad-frame run and
counter, the roster and the ring state stay, and every home takes zero.
R34: at the eighth silent sample the station becomes break head and RING_BREAK is raised; that this row is RING's part of the
sample event alone, with POS, PLAY and the audio as they were, is the model's choice (log 1). -/
def Obligations.BadFramesAndSilence : Prop :=
  (∀ (s : State) (f : WireFrame) (p : Period), s.clocked → s.ring.state.onRing = true → (s.heard f).good f = false →
    ∃ t g, exec (.badFrame f p) s = .next t ∧ t.emitted = some g ∧ t.ring.badCount = countUp s.ring.badCount ∧
      t.ring.badRun = s.ring.badRun + 1 ∧ t.ring.goodRun = 0 ∧ t.ring.silent = 0 ∧ t.ring.tag = s.ring.tag + 1 ∧
      t.ring.origin = s.ring.origin ∧ t.ring.present = s.ring.present ∧ t.flag .badFrame = true ∧
      (∀ n : Fin 128, t.stem[n] = 0) ∧ SameOutsideSample s t) ∧
  (∀ (s : State) (p : Period), s.clocked → s.ring.state.onRing = true →
    ∃ t g, exec (.silentSample p) s = .next t ∧ t.emitted = some g ∧ (∀ n : Fin 128, t.stem[n] = 0) ∧
      t.ring = { s.ring with tag := s.ring.tag + 1, run := 0, goodRun := 0, silent := s.ring.silent + 1,
                             settle := s.ring.settle - 1,
                             breakHead := if s.ring.silent + 1 = 8 then true else s.ring.breakHead } ∧
      SameOutsideSample s t) ∧
  (∀ s : State, s.clocked → s.ring.state.onRing = true → s.ring.silent = 7 →
    ∃ t, exec .ringBreak s = .next t ∧ t.flag .ringBreak = true ∧
      t.ring = { s.ring with tag := s.ring.tag + 1, run := 0, goodRun := 0, silent := 8, breakHead := true } ∧
      t.pos = s.pos ∧ t.play = s.play ∧ t.stem = s.stem ∧ t.emitted = s.emitted ∧ SameOutsideSample s t)

/-- R23: the eighth frame of a self-consistent run with a lower origin realigns an INSERTED station: tag count and origin
are that frame's, the bad-frame run is 0 and a settle interval of 2P + 2 starts.
R33: the sixteenth bad frame in a row takes an INSERTED station to RELOCKING and raises RELOCK; the 64th good frame in a
row takes it back to INSERTED and starts a settle interval, unless a HOLDINGS in that same frame puts it into CONFLICT: that
the return comes before the cells of that frame is the model's choice (log 33). That these rows are RING's part of the sample
event alone, with POS and PLAY as they were, is the model's choice too (log 1). -/
def Obligations.AdoptionAndRelocking : Prop :=
  (∀ (s : State) (f : WireFrame) (b : Bool), s.clocked → s.ring.state = .inserted →
    (s.ring.advanceTag.countRun f).run = 8 → f.origin.toNat < s.ring.origin →
    ∃ t, exec (.tagAdoption f b) s = .next t ∧ t.ring.tag = f.tag + 1 ∧ t.ring.origin = f.origin.toNat ∧
      t.ring.badRun = 0 ∧ t.ring.settle = 2 * StationSet.count t.ring.present + 2 ∧
      t.pos = s.pos ∧ t.play = s.play ∧ SameOutsideSample s t) ∧
  ((∀ (s : State) (f : WireFrame), s.clocked → s.ring.state = .inserted → s.ring.badRun = 15 →
    (s.heard f).good f = false → ∃ t, exec (.relock f) s = .next t ∧ t.ring.state = .relocking ∧ t.ring.badRun = 16 ∧
      t.flag .relock = true ∧ t.flag .badFrame = true ∧ t.ring.present = s.ring.present ∧ t.pos = s.pos ∧
      SameOutsideSample s t) ∧
  (∀ (s : State) (f : WireFrame) (b : Bool), s.clocked → s.ring.state = .relocking → s.ring.goodRun = 63 →
    (s.heard f).good f = true → ∃ t, exec (.relockComplete f b) s = .next t ∧
      (t.ring.state = .inserted ∨ t.ring.state = .conflict ∧ t.flag .planMismatch = true) ∧ t.ring.badRun = 0 ∧
      t.ring.settle = 2 * StationSet.count t.ring.present + 2 ∧ t.pos = s.pos ∧ SameOutsideSample s t))

/-! ## JOIN, LEAVE, CONFIGURE (R24, R36 to R40) -/

/-- R24 step 3, R184, 11.4: a plan passes the PLAN tests exactly when its length is 2 + 4n, its rate code is below 4, n is at
most 24 and every bus is within its ranges and no two buses share a lane. -/
def Obligations.PlanTests : Prop :=
  ∀ p : List Byte, (readPlan p).isSome = true ↔
    ∃ rate n rest, p = rate :: n :: rest ∧ rate.toNat < 4 ∧ n.toNat ≤ 24 ∧ rest.length = 4 * n.toNat ∧
      (∀ b < n.toNat, 1 ≤ (rest.getD (4 * b + 1) 0).toNat ∧ (rest.getD (4 * b + 1) 0).toNat ≤ 16 ∧
        (rest.getD (4 * b) 0).toNat + (rest.getD (4 * b + 1) 0).toNat - 1 ≤ 127 ∧
        (rest.getD (4 * b + 2) 0).toNat ≤ 23 ∧ (rest.getD (4 * b + 3) 0).toNat % 16 ≤ 3) ∧
      (∀ b c l, b < c → c < n.toNat →
        ¬ ((rest.getD (4 * b) 0).toNat ≤ l ∧ l < (rest.getD (4 * b) 0).toNat + (rest.getD (4 * b + 1) 0).toNat ∧
          (rest.getD (4 * c) 0).toNat ≤ l ∧ l < (rest.getD (4 * c) 0).toNat + (rest.getD (4 * c + 1) 0).toNat))

/-- R24: the order of CONFIGURE's refusals, and what a taken CONFIGURE stores; nothing else changes. That the whole transfer is
one step is the model's choice (log 7). -/
def Obligations.ConfigureResult : Prop :=
  ∀ (p : List Byte) (tail : Nat) (s : State), s.ready → 2 ≤ p.length → p.length ≤ 98 →
    (s.conf.isSome → exec (.configure p tail) s = .next (s.taken p.length tail (.refused 1 .state))) ∧
    (s.conf = none → 24 ≤ s.self → exec (.configure p tail) s = .next (s.taken p.length tail (.refused 1 .strap))) ∧
    (s.conf = none → s.self < 24 → readPlan p = none →
      exec (.configure p tail) s = .next (s.taken p.length tail (.refused 1 .plan))) ∧
    (∀ rate plan, s.conf = none → s.self < 24 → readPlan p = some (rate, plan) →
      exec (.configure p tail) s = .next (State.taken p.length tail (.done 1 (bytesOf 2 (planDigest p).toNat))
        { s with conf := some { rate := rate, plan := plan, digest := planDigest p } }))

/-- R36: JOIN is refused with BUSY in LOCKING and with STATE while inserted; taken in DETACHED it replies ACCEPTED, clears
the JOIN record, starts LOCKING afresh and changes nothing else. The whole transfer is one step (log 7). -/
def Obligations.JoinResult : Prop :=
  ∀ (tail : Nat) (s : State), s.ready → s.conf.isSome →
    (s.ring.state = .locking → exec (.join tail) s = .next (s.taken 0 tail (.refused 2 .busy))) ∧
    (s.ring.state.onRing = true → exec (.join tail) s = .next (s.taken 0 tail (.refused 2 .state))) ∧
    (s.ring.state = .detached → exec (.join tail) s = .next (State.taken 0 tail (.accepted 2)
      { s with desk := { s.desk with ev := { s.desk.ev with join := none } },
               ring := { s.ring with state := .locking,
                                     join := { good := 0, time := 0, heardAny := false, listening := false,
                                               listenTime := 0, heard := 0, upstream := none } } }))

/-- R40, R64, R113, R135: LEAVE leaves the ring DETACHED with its present set empty and its runs at 0, the tag count, plan
and bad-frame counter kept; no driver, claim or open pass and no entry in NOTE's lists is left; a JOIN is ABANDONED.
R40's DETACHED: that all of this is done in DETACHED too is the model's reading (log 11). -/
def Obligations.LeaveResult : Prop :=
  ∀ (tail : Nat) (s : State), s.ready → s.conf.isSome → ∃ t, exec (.leave tail) s = .next t ∧
    t.ring = { s.ring with state := .detached, present := 0, settle := 0, badRun := 0, goodRun := 0, run := 0, silent := 0,
                           breakHead := false, origin := s.self } ∧
    t.desk.note.pending = [] ∧ t.desk.note.flight = [] ∧ t.desk.note.timer = 0 ∧
    t.desk.note.ages = s.desk.note.ages ∧
    (∀ b, s.env.homesBus b = true → (t.desk.homeOf b).driver = none) ∧
    (∀ b, s.env.requestsBus b = true → (t.desk.reqOf b).claim = .none ∧ (t.desk.reqOf b).keepalive = 0 ∧
      (t.desk.reqOf b).level = (s.desk.reqOf b).level ∧ (t.desk.reqOf b).echo = (s.desk.reqOf b).echo) ∧
    (∀ c, (t.desk.control c).openPass = none) ∧
    t.desk.take.queue = s.desk.take.queue ++ s.desk.openRecords .left ∧
    (s.ring.state = .locking → t.desk.ev.join = some .abandoned) ∧
    (s.ring.state ≠ .locking → t.desk.ev.join = s.desk.ev.join) ∧
    t.link.state = .working (.done 3 []) ∧ t.desk.touch.lines = s.desk.touch.lines ∧
    SameSettings s.desk t.desk ∧
    t = { s with ring := t.ring, desk := t.desk, link := { s.link with state := t.link.state },
                 ldo := idleBits (8 * 5 + tail) }

/-- R36: a frame on the tap in LOCKING removes the first-in path; the time since the JOIN advances; nothing is emitted.
R36: the 64th good frame ends the lock phase, and its emitter is the upstream emitter (R37); a frame that carries this
station's own number fails the JOIN with DUPLICATE instead. That the 64th good frame is of the lock phase whatever digest its
HOLDINGS carry is a reading of R36 and R37 (log 17). -/
def Obligations.LockPhase : Prop :=
  (∀ (s : State) (f : WireFrame) (p : Period), s.clocked → s.ring.state = .locking →
    ∃ t, exec (.tapFrame f p) s = .next t ∧ t.ring.join.heardAny = true ∧ t.ring.join.time = s.ring.join.time + 1 ∧
      t.emitted = none ∧ (∀ n : Fin 128, t.stem[n] = 0) ∧ SameOutsideSample s t) ∧
  (∀ (s : State) (f : WireFrame), s.clocked → s.ring.state = .locking → s.ring.join.listening = false →
    s.ring.join.good = 63 → ((s.ring.advanceTag.countRun f).adoptLocking f).good f = true →
    (heardSelf s.self f = false → ∃ t, exec (.lockPhaseEnd f) s = .next t ∧
      t.ring.state = .locking ∧ t.ring.join.listening = true ∧ t.ring.join.listenTime = 0 ∧
      t.ring.join.upstream = some f.emitter.toNat ∧ t.ring.origin = f.origin.toNat ∧ t.ring.tag = f.tag + 1 ∧
      SameOutsideSample s t) ∧
    (heardSelf s.self f = true → ∃ t, exec (.lockPhaseEnd f) s = .next t ∧ t.ring.state = .detached ∧
      t.ring.origin = s.self ∧ t.desk.ev.join = some .duplicate ∧ SameOutsideSample s t))

/-- R37: 1024 sp after the lock phase the relay inserts with the heard origins, the upstream emitter and the station itself
as present set, a settle interval, ROSTER_CHANGE, a waiting HOLDINGS and completion JOINED (here with no frame at that
sample event; the present set was empty, R26).
R38: with no frame on the tap in the 4096 sp since the JOIN the station inserts alone, as its own origin, with a settle
interval of 4 sp and completion FIRST_IN. -/
def Obligations.InsertionByJoin : Prop :=
  (∀ (s : State) (u : Nat), s.clocked → s.self < 24 → s.ring.state = .locking → s.ring.present = 0 →
    s.ring.join.listening = true → s.ring.join.listenTime = 1023 → s.ring.join.upstream = some u →
    ∃ t, exec (.listenPhaseEnd none) s = .next t ∧ t.ring.state = .inserted ∧
      (∀ x < 24, StationSet.has t.ring.present x = true ↔
        StationSet.has s.ring.join.heard x = true ∨ x = u ∨ x = s.self) ∧
      t.ring.settle = 2 * StationSet.count t.ring.present + 2 ∧ t.ring.origin = s.ring.origin ∧
      t.ring.tag = s.ring.tag + 1 ∧ t.flag .rosterChange = true ∧ t.desk.ev.join = some .joined ∧
      t.desk.note.timer = 0 ∧ (t.desk.note.waiting? .holdings).isSome = true ∧ SameOutsideSample s t) ∧
  (∀ s : State, s.clocked → s.self < 24 → s.ring.state = .locking → s.ring.present = 0 →
    s.ring.join.heardAny = false → s.ring.join.listening = false → s.ring.join.time = 4095 →
    ∃ t, exec .firstIn s = .next t ∧ t.ring.state = .inserted ∧ t.ring.origin = s.self ∧ t.ring.tag = s.ring.tag + 1 ∧
      (∀ x < 24, StationSet.has t.ring.present x = true ↔ x = s.self) ∧ t.ring.settle = 4 ∧
      t.flag .rosterChange = true ∧ t.desk.ev.join = some .firstIn ∧ t.desk.note.timer = 0 ∧
      (t.desk.note.waiting? .holdings).isSome = true ∧ SameOutsideSample s t)

/-- R27, R97: the settle counter's last step brings it to 0 with the settle factor at 0; the last step of the rise brings the
factor to 1; that nothing else changes, the row being that count's part of the sample event alone, is the model's choice
(log 1). -/
def Obligations.SettleResult : Prop :=
  (∀ s : State, s.clocked → s.ring.settle = 1 → exec .settleEnd s = .next { s with
    ring := { s.ring with settle := 0 }, desk := { s.desk with home := { s.desk.home with rise := some 0 } } }) ∧
  (∀ s : State, s.clocked → s.ring.settle = 0 → s.desk.home.rise = some (if s.rate96 then 999 else 499) →
    exec .settleRiseEnd s = .next { s with desk := { s.desk with home := { s.desk.home with rise := none } } }) ∧
  settleGain false none = Gain.one ∧ settleGain false (some 0) = Gain.zero

/-! ## Notices (chapter 3) -/

/-- R49 to R51: queueing, withdrawing, closing and placing keep at most one waiting entry and one entry in flight for each
slot, and so does every step.
R50: after Queue the slot has exactly the entry queued, in the place of the old one or at the newest end; after Withdraw
it has none; other slots and the in-flight table are as before. -/
def Obligations.NoteSlots : Prop :=
  ((∀ (n : Note) (x : Slot) (k : NoticeKind) (w : BitVec 32), n.wf → (n.queue x k w).wf ∧ (n.withdraw x).wf ∧
    (n.close x).wf) ∧
  (∀ s : State, s.desk.note.wf → s.place.1.desk.note.wf) ∧
  (∀ s t : State, s.desk.note.wf → step s = .next t → t.desk.note.wf)) ∧
  (∀ (n : Note) (x : Slot) (k : NoticeKind) (w : BitVec 32),
    (n.queue x k w).waiting? x = some { slot := x, kind := k, payload := w } ∧ (n.withdraw x).waiting? x = none ∧
    (∀ y, y ≠ x → (n.queue x k w).waiting? y = n.waiting? y ∧ (n.withdraw x).waiting? y = n.waiting? y) ∧
    (n.queue x k w).pending.map (·.slot) =
      (if (n.waiting? x).isSome then n.pending.map (·.slot) else n.pending.map (·.slot) ++ [x]) ∧
    (n.queue x k w).flight = n.flight ∧ (n.withdraw x).flight = n.flight)

/-- R42, R183, 11.2: a notice written into a cell is read back, its spare bits as zero.
R45: the station's own notice is stripped and its cell not refilled; where an entry of its slot was placed hop count + 1 sp
before, that entry leaves the table and the owner is handed the mark, and otherwise nothing more happens.
R46, R47: a foreign notice leaves with one hop more, or is removed above 48 hops; an empty cell receives the oldest waiting
entry whose slot has nothing in flight, from this station, with hop count 0 and mark NONE.
R43, R48: a notice that this station does not answer leaves with the mark it came with.
R51, R53, R56: the entry placed leaves the pending list and stands in the in-flight table with this instant; a HOLDINGS takes
its payload, the plan digest and the own solo bits, as it is placed; of a DRIVE the requester is told (R108, R110).
R48, R57, R60, R61, R111: what a foreign notice of each kind does at the cell, and the mark it leaves with. -/
def Obligations.CellsOfAnArrival : Prop :=
  (∀ n : Notice, readCell (writeCell n) = .notice { n with payload := payloadBits n.kind n.payload }) ∧
  ((∀ (s : State) (c : BitVec 64) (n : Notice), readCell c = .notice n → n.origin.toNat = s.self →
    (s.workCell c).2 = 0 ∧
    ((∀ x f, slotOf? n.kind n.bus.toNat = some x → s.desk.note.flight? x = some f →
      f.placed + n.hop.toNat + 1 ≠ s.instant) → (s.workCell c).1 = s) ∧
    (∀ x f d, slotOf? n.kind n.bus.toNat = some x → s.desk.note.flight? x = some f →
      f.placed + n.hop.toNat + 1 = s.instant → d = { s.desk with note := s.desk.note.close x } →
      d.note.flight? x = none ∧ (∀ y, y ≠ x → d.note.flight? y = s.desk.note.flight? y) ∧
      (∀ b, n.kind = .claim → x = .claim b → (s.workCell c).1 = { s with desk := d.claimReturn b n.mark }) ∧
      (∀ b, n.kind = .release → x = .claim b → (s.workCell c).1 = { s with desk := d.releaseReturn b }) ∧
      (∀ b, n.kind = .drive → x = .drive b → (s.workCell c).1 = { s with desk := d.driveReturn b n.mark }) ∧
      (n.kind = .echo ∨ n.kind = .solo ∨ n.kind = .holdings ∨ n.kind = .roster →
        (s.workCell c).1 = { s with desk := d }))) ∧
  (∀ (s : State) (c : BitVec 64) (n : Notice), readCell c = .notice n → n.origin.toNat ≠ s.self →
    (48 ≤ n.hop.toNat → (s.workCell c).2 = 0) ∧
    (n.hop.toNat < 48 → ∃ m, (s.workCell c).2 = writeCell { n with hop := n.hop + 1, mark := m } ∧
      (n.mark ≠ .none ∨ 24 ≤ n.origin.toNat ∨ n.kind = .echo ∨ n.kind = .solo ∨ n.kind = .holdings ∨ n.kind = .roster ∨
        (∀ b : Fin 24, n.bus.toNat = b.val → s.env.homesBus b = false) → m = n.mark))) ∧
  (∀ s : State, (s.desk.note.eligible? = none → s.workCell 0 = (s, 0)) ∧
    (∀ w u, s.desk.note.eligible? = some w → (s.workCell 0).1 = u → ∃ p : BitVec 32,
      (w.kind ≠ .holdings → p = w.payload) ∧
      (∀ c, w.kind = .holdings → s.conf = some c → p.extractLsb' 0 16 = c.digest ∧
        ∀ z : Fin 4, p.getLsbD (16 + z.val) = s.desk.strip.ownBits.getLsbD z.val) ∧
      (s.workCell 0).2 = writeCell { kind := w.kind, origin := BitVec.ofNat 5 s.self, hop := 0,
                                     bus := BitVec.ofNat 5 (Slot.bus w.slot), mark := .none, payload := p } ∧
      u.desk.note.waiting? w.slot = none ∧
      u.desk.note.flight? w.slot = some { slot := w.slot, kind := w.kind, payload := p, placed := s.instant } ∧
      (∀ y, y ≠ w.slot → u.desk.note.flight? y = s.desk.note.flight? y) ∧
      ((∀ b, w.slot ≠ .drive b) → (∀ y, y ≠ w.slot → u.desk.note.waiting? y = s.desk.note.waiting? y) ∧
        u = { s with desk := { s.desk with note := u.desk.note } }) ∧
      (∀ b d, w.slot = .drive b → d = { s.desk with note := { s.desk.note with
          pending := s.desk.note.pending.filter (fun x => !(x.slot == w.slot)), flight := u.desk.note.flight } } →
        u = { s with desk := d.drivePlaced b })))) ∧
  (∀ (s u : State) (c : BitVec 64) (n : Notice) (x : Fin 24), readCell c = .notice n → n.origin.toNat = x.val →
    x.val ≠ s.self → (s.workCell c).1 = u →
    (n.kind = .holdings →
      u.ring.present = StationSet.add s.ring.present x.val ∧ u.desk.note.ages[x] = some 0 ∧
      (∀ z : Fin 4, StationSet.has u.desk.strip.zones[z] x.val = n.payload.getLsbD (16 + z.val)) ∧
      (StationSet.has s.ring.present x.val = true → u.ring.settle = s.ring.settle) ∧
      (StationSet.has s.ring.present x.val = false → u.flag .rosterChange = true ∧
        u.ring.settle = 2 * StationSet.count u.ring.present + 2) ∧
      (s.conf.map (·.digest) = some (n.payload.extractLsb' 0 16) → u.ring.state = s.ring.state) ∧
      (s.conf.map (·.digest) ≠ some (n.payload.extractLsb' 0 16) → u.flag .planMismatch = true ∧
        u.ring.state = if s.ring.state = .inserted ∨ s.ring.state = .relocking then .conflict else s.ring.state)) ∧
    (n.kind = .roster → 24 ≤ n.payload.toNat % 32 → u = s) ∧
    (n.kind = .roster → ∀ e : Fin 24, n.payload.toNat % 32 = e.val → ∀ y < 24, StationSet.has u.ring.present y = true ↔
      y = e.val ∨ y = x.val ∨ StationSet.has s.ring.present y = true ∧ (y = s.self ∨
        ¬ (e.val = x.val ∨ 0 < (y + 24 - e.val) % 24 ∧ (y + 24 - e.val) % 24 < (x.val + 24 - e.val) % 24))) ∧
    (n.kind = .solo → (StationSet.has s.ring.present x.val = false → u = s) ∧
      (StationSet.has s.ring.present x.val = true → u.ring = s.ring ∧
        ∀ z : Fin 4, StationSet.has u.desk.strip.zones[z] x.val = n.payload.getLsbD z.val)) ∧
    (n.kind = .echo →
      (∀ b y, n.bus.toNat = b.val → s.env.bus? b = some y → y.home = x.val →
        u.desk.reqOf b = { s.desk.reqOf b with echo := some (n.payload.extractLsb' 0 10, n.payload.getLsbD 10) } ∧
        ((s.desk.reqOf b).claim = .driving → u.desk.touch = s.desk.touch) ∧
        ((s.desk.reqOf b).claim ≠ .driving → ∀ f : Fin 32, u.desk.touch.drives[f] =
          if s.desk.touch.map[f] = .bus b then some (n.payload.extractLsb' 0 10) else s.desk.touch.drives[f])) ∧
      ((∀ b y, n.bus.toNat = b.val → s.env.bus? b = some y → y.home ≠ x.val) → u = s)) ∧
    (n.kind = .claim ∨ n.kind = .drive ∨ n.kind = .release →
      (∀ b : Fin 24, n.bus.toNat = b.val → s.env.homesBus b = true → n.mark = .none → n.hop.toNat < 48 → ∀ r,
        (n.kind = .claim → r = s.desk.homeClaim s.env b x.val) →
        (n.kind = .drive →
          r = s.desk.homeDrive s.env b x.val (n.payload.extractLsb' 0 10) (n.payload.getLsbD 10)) →
        (n.kind = .release → r = s.desk.homeRelease s.env b x.val) →
        s.workCell c = ({ s with desk := r.1 }, writeCell { n with hop := n.hop + 1, mark := r.2 })) ∧
      (n.mark ≠ .none ∨ (∀ b : Fin 24, n.bus.toNat = b.val → s.env.homesBus b = false) → u = s)))

/-- R35, R59: the emitter check adds a nearer emitter, removes every station strictly between a farther one and the station,
changes nothing for the nearest present predecessor, and queues a ROSTER with the emitter in the first two cases.
R27, R105, R111, R78: a change of the present set starts a settle interval of 2P + 2 and raises ROSTER_CHANGE; of each
station removed the drives end here with DRIVE_LOST, a DRIVING requester of a bus homed there enters NONE with DRIVE_LOST, and
its entries leave the zone solo table; the same set again is no change. -/
def Obligations.EmitterCheck : Prop :=
  (∀ (s : State) (e : Nat), s.self < 24 → e < 24 → StationSet.has s.ring.present s.self = true →
    (e = nearestPredecessor s.ring.present s.self → s.emitterCheck e = s) ∧
    (backCount s.self e < backCount s.self (nearestPredecessor s.ring.present s.self) →
      (s.emitterCheck e).ring.present = StationSet.add s.ring.present e ∧
      ((s.emitterCheck e).desk.note.waiting? .roster).map (·.payload) = some (BitVec.ofNat 32 e)) ∧
    (backCount s.self (nearestPredecessor s.ring.present s.self) < backCount s.self e →
      (∀ x < 24, StationSet.has (s.emitterCheck e).ring.present x = true ↔
        StationSet.has s.ring.present x = true ∧ (x = s.self ∨ backCount s.self e ≤ backCount s.self x)) ∧
      ((s.emitterCheck e).desk.note.waiting? .roster).map (·.payload) = some (BitVec.ofNat 32 e))) ∧
  (∀ s : State, s.applyRoster s.ring.present = s) ∧
  (∀ (s u : State) (now : StationSet), now ≠ s.ring.present → s.applyRoster now = u →
    u.ring = { s.ring with present := now, settle := 2 * StationSet.count now + 2 } ∧ u.flag .rosterChange = true ∧
    u.pos = s.pos ∧ u.play = s.play ∧
    (∀ x : Fin 24, StationSet.has s.ring.present x.val = true → StationSet.has now x.val = false →
      (∀ b, s.env.homesBus b = true → (s.desk.homeOf b).driver = some x.val → (u.desk.homeOf b).driver = none ∧
        (u.desk.homeOf b).lease = 0 ∧ (u.desk.control (masterId b)).touched = false ∧
        (u.desk.control (masterMuteId b)).touched = false ∧ u.flag .driveLost = true) ∧
      (∀ b y, s.env.bus? b = some y → y.home = x.val → x.val ≠ s.self → (s.desk.reqOf b).claim = .driving →
        (u.desk.reqOf b).claim = .none ∧ u.desk.note.waiting? (.drive b) = none ∧ u.flag .driveLost = true) ∧
      (∀ z : Fin 4, StationSet.has u.desk.strip.zones[z] x.val = false)) ∧
    (∀ x : Fin 24, StationSet.has s.ring.present x.val = false ∨ StationSet.has now x.val = true →
      ∀ z : Fin 4, StationSet.has u.desk.strip.zones[z] x.val = StationSet.has s.desk.strip.zones[z] x.val))

/-- R54: an entry 96 sp past its placement leaves the in-flight table; the requester of a lost CLAIM in CLAIMING enters NONE
and CLAIM_UNANSWERED is raised (R107). That the row is this deadline's part of the sample event alone, with the other blocks
as they were, is the model's choice (log 1). -/
def Obligations.NoticeDeadlineResult : Prop :=
  ∀ (s : State) (x : Slot) (f : Flight), s.clocked → s.desk.note.flight? x = some f → f.placed + 96 ≤ s.instant + 1 →
    ∃ t, exec (.noticeDeadline x) s = .next t ∧ t.desk.note.flight? x = none ∧
      (∀ y, y ≠ x → t.desk.note.flight? y = s.desk.note.flight? y) ∧
      (∀ b, x = .claim b → f.kind = .claim → (s.desk.reqOf b).claim = .claiming →
        (t.desk.reqOf b).claim = .none ∧ t.flag .claimUnanswered = true) ∧
      t.ring = s.ring ∧ t.pos = s.pos ∧ t.play = s.play ∧ t.desk.auto = s.desk.auto ∧ t.desk.take = s.desk.take ∧
      t.desk.strip = s.desk.strip ∧ t.desk.touch = s.desk.touch ∧ t.desk.home.homes = s.desk.home.homes ∧
      SameOutsideSample s t

/-- R55, R98: the holdings timer queues a HOLDINGS, and an ECHO of every homed bus with its applied values, and starts again
from 0; nothing but NOTE changes.
R58, R78: a station unheard for 4096 sp keeps that age and leaves every zone of the zone solo table; the roster and the
other stations' entries stay. That each row is that count's part of the sample event alone, with the ring and the other
blocks as they were, is the model's choice (log 1). -/
def Obligations.HoldingsCounts : Prop :=
  (∀ s : State, s.clocked → s.ring.state.onRing = true → s.desk.note.timer = 1023 →
    ∃ t, exec .holdingsTimer s = .next t ∧ t.desk.note.timer = 0 ∧
      (t.desk.note.waiting? .holdings).isSome = true ∧
      (∀ b, s.env.homesBus b = true → (t.desk.note.waiting? (.echo b)).map (·.payload) = some (levelPayload
        (s.desk.control (masterId b)).applied ((s.desk.control (masterMuteId b)).applied.getLsbD 0))) ∧
      t.desk.note.flight = s.desk.note.flight ∧ t.desk.note.ages = s.desk.note.ages ∧
      t = { s with desk := { s.desk with note := t.desk.note } }) ∧
  (∀ (s : State) (x : Fin 24), s.clocked → s.desk.note.ages[x] = some 4095 →
    ∃ t, exec (.holdingsExpiry x) s = .next t ∧ t.desk.note.ages[x] = some 4096 ∧
      (∀ z : Fin 4, StationSet.has t.desk.strip.zones[z] x.val = false ∧
        ∀ y < 24, y ≠ x.val → StationSet.has t.desk.strip.zones[z] y = StationSet.has s.desk.strip.zones[z] y) ∧
      t.ring = s.ring ∧ t.pos = s.pos ∧ t.play = s.play ∧ t.desk.auto = s.desk.auto ∧ t.desk.home = s.desk.home ∧
      t.desk.touch = s.desk.touch ∧ t.desk.take = s.desk.take ∧ t.desk.ev = s.desk.ev ∧ SameOutsideSample s t)

/-! ## HOME and the requesters (chapter 6) -/

/-- R100, R102: HOME's answer to a CLAIM and to a RELEASE, by the driver entry.
R101: a DRIVE from the driver is ACCEPTED: its level and mute become the surface values of the bus controls and the lease
becomes 0, and no control's touched item or pass state changes; a DRIVE from any other station is IGNORED and changes
nothing.
R103: a touch of the bus at its home makes the station the driver where none is, hands the local surface values on and touches
both bus controls; where another station drives it changes nothing and raises CLAIM_REFUSED. A release of the bus at its home
ends the station's own drive and releases both bus controls, and changes nothing else. -/
def Obligations.HomeAnswers : Prop :=
  ∀ (e : Env) (b : Fin 24) (x : Nat) (d : Desk),
    ((d.homeOf b).driver = none → (d.homeClaim e b x).2 = .granted ∧
      ((d.homeClaim e b x).1.homeOf b).driver = some x ∧ ((d.homeClaim e b x).1.homeOf b).lease = 0 ∧
      ((d.homeClaim e b x).1.control (masterId b)).surface = (d.control (masterId b)).applied ∧
      ((d.homeClaim e b x).1.control (masterMuteId b)).surface = (d.control (masterMuteId b)).applied ∧
      ((d.homeClaim e b x).1.control (masterId b)).touched = true ∧
      ((d.homeClaim e b x).1.control (masterMuteId b)).touched = true) ∧
    ((d.homeOf b).driver = some x → (d.homeClaim e b x).2 = .granted ∧
      (d.homeClaim e b x).1 = d.setHome b { d.homeOf b with lease := 0 }) ∧
    (∀ y, (d.homeOf b).driver = some y → y ≠ x → d.homeClaim e b x = (d, .refused)) ∧
    ((d.homeOf b).driver = some x → ∀ v m, (d.homeDrive e b x v m).2 = .accepted ∧
      ((d.homeDrive e b x v m).1.homeOf b).driver = some x ∧ ((d.homeDrive e b x v m).1.homeOf b).lease = 0 ∧
      ((d.homeDrive e b x v m).1.control (masterId b)).surface = v ∧
      ((d.homeDrive e b x v m).1.control (masterMuteId b)).surface = (if m then 1 else 0) ∧
      (∀ c, ((d.homeDrive e b x v m).1.control c).touched = (d.control c).touched ∧
        ((d.homeDrive e b x v m).1.control c).pass = (d.control c).pass ∧
        ((d.homeDrive e b x v m).1.control c).openPass = (d.control c).openPass)) ∧
    ((d.homeOf b).driver = some x → (d.homeRelease e b x).2 = .taken ∧
      ((d.homeRelease e b x).1.homeOf b).driver = none ∧ ((d.homeRelease e b x).1.homeOf b).lease = 0 ∧
      ((d.homeRelease e b x).1.control (masterId b)).touched = false ∧
      ((d.homeRelease e b x).1.control (masterMuteId b)).touched = false) ∧
    ((d.homeOf b).driver ≠ some x → d.homeRelease e b x = (d, .stale) ∧
      ∀ v m, d.homeDrive e b x v m = (d, .ignored)) ∧
    ((d.homeOf b).driver = none → ((d.localClaim e b).homeOf b).driver = some e.self ∧
      ((d.localClaim e b).control (masterId b)).surface = (d.homeOf b).level ∧
      ((d.localClaim e b).control (masterMuteId b)).surface = (if (d.homeOf b).muted then 1 else 0) ∧
      ((d.localClaim e b).control (masterId b)).touched = true ∧
      ((d.localClaim e b).control (masterMuteId b)).touched = true) ∧
    ((d.homeOf b).driver = some e.self → d.localClaim e b = d ∧
      ((d.localRelease e b).homeOf b).driver = none ∧
      ((d.localRelease e b).control (masterId b)).touched = false ∧
      ((d.localRelease e b).control (masterMuteId b)).touched = false) ∧
    (∀ y, (d.homeOf b).driver = some y → y ≠ e.self → d.localClaim e b = d.raise .claimRefused) ∧
    ((d.homeOf b).driver ≠ some e.self → d.localRelease e b = d)

/-- R104: the lease of a remote driver runs out at 2048: no driver, lease 0, both bus controls released, DRIVE_LOST raised.
R108: at 512 sp without a placed DRIVE, a driving requester queues one with its local surface values; nothing but that
requester and its drive slot changes. That each row is that count's part of the sample event alone, with all but the desk as
it was, is the model's choice (log 1). -/
def Obligations.LeaseAndKeepalive : Prop :=
  (∀ (s : State) (b : Fin 24) (x : Nat), s.clocked → s.env.homesBus b = true → (s.desk.homeOf b).driver = some x →
    x ≠ s.self → (s.desk.homeOf b).lease = 2047 →
    ∃ t, exec (.leaseExpiry b) s = .next t ∧ (t.desk.homeOf b).driver = none ∧ (t.desk.homeOf b).lease = 0 ∧
      (t.desk.control (masterId b)).touched = false ∧ (t.desk.control (masterMuteId b)).touched = false ∧
      t.flag .driveLost = true ∧
      (∀ c, c ≠ b → (t.desk.homeOf c).driver = (s.desk.homeOf c).driver ∧
        (t.desk.homeOf c).lease = (s.desk.homeOf c).lease) ∧
      t.desk.home.reqs = s.desk.home.reqs ∧ SameSettings s.desk t.desk ∧ t = { s with desk := t.desk }) ∧
  (∀ (s : State) (b : Fin 24), s.clocked → s.env.requestsBus b = true → (s.desk.reqOf b).claim = .driving →
    (s.desk.reqOf b).keepalive = 511 →
    ∃ t, exec (.keepalive b) s = .next t ∧ t.desk.reqOf b = { s.desk.reqOf b with keepalive := 512 } ∧
      (∀ c, c ≠ b → t.desk.reqOf c = s.desk.reqOf c) ∧
      t.desk.note.waiting? (.drive b) = some (Waiting.mk (.drive b) .drive
        (levelPayload (s.desk.reqOf b).level (s.desk.reqOf b).muted)) ∧
      (∀ y, y ≠ .drive b → t.desk.note.waiting? y = s.desk.note.waiting? y) ∧
      t.desk = { s.desk with note := { s.desk.note with pending := t.desk.note.pending },
                             home := { s.desk.home with reqs := t.desk.home.reqs } } ∧ t = { s with desk := t.desk })

/-- R107, R109, R110: the states a requester enters at the return of its CLAIM, DRIVE and RELEASE; a DRIVE that returns in any
state other than DRIVING changes nothing.
R106: a touch queues a CLAIM in NONE, returns CANCELLING to CLAIMING, and in RELEASING takes the drive back with a DRIVE where
the RELEASE has not left, or else sets reclaim and queues a CLAIM behind it.
R107, R110: a release withdraws a waiting CLAIM or turns CLAIMING into CANCELLING; in DRIVING it queues a RELEASE, deferred
while a DRIVE waits; in RELEASING it takes reclaim back; in NONE it changes nothing.
R108, R110: the placement of a DRIVE brings the keepalive count to 0 and queues a deferred RELEASE. -/
def Obligations.RequesterReturns : Prop :=
  ∀ (b : Fin 24) (d : Desk),
    ((d.reqOf b).claim = .claiming →
      ((d.claimReturn b .granted).reqOf b).claim = .driving ∧ ((d.claimReturn b .granted).reqOf b).keepalive = 0 ∧
      ((d.claimReturn b .granted).note.waiting? (.drive b)).map (·.payload) =
        some (levelPayload (d.reqOf b).level (d.reqOf b).muted) ∧
      ((d.claimReturn b .refused).reqOf b).claim = .none ∧ (d.claimReturn b .refused).flag .claimRefused = true ∧
      ((d.claimReturn b .none).reqOf b).claim = .none ∧ (d.claimReturn b .none).flag .claimUnanswered = true) ∧
    ((d.reqOf b).claim = .cancelling →
      ((d.claimReturn b .granted).reqOf b).claim = .releasing ∧
      ((d.claimReturn b .granted).note.waiting? (.claim b)).map (·.kind) = some .release ∧
      ((d.claimReturn b .refused).reqOf b).claim = .none ∧ (d.claimReturn b .refused).ev = d.ev ∧
      ((d.claimReturn b .none).reqOf b).claim = .none ∧ (d.claimReturn b .none).ev = d.ev) ∧
    ((d.reqOf b).claim = .driving → d.driveReturn b .accepted = d ∧ d.driveReturn b .none = d ∧
      ((d.driveReturn b .ignored).reqOf b).claim = .none ∧ (d.driveReturn b .ignored).flag .driveLost = true ∧
      (d.driveReturn b .ignored).note.waiting? (.drive b) = none) ∧
    (∀ m, (d.reqOf b).claim ≠ .driving → d.driveReturn b m = d) ∧
    ((d.reqOf b).claim = .releasing → ((d.releaseReturn b).reqOf b).claim =
      (if (d.reqOf b).reclaim then .claiming else .none) ∧ ((d.releaseReturn b).reqOf b).reclaim = false) ∧
    ((d.reqOf b).claim = .none → ((d.reqTouch b).reqOf b).claim = .claiming ∧
      ((d.reqTouch b).note.waiting? (.claim b)).map (·.kind) = some .claim ∧ d.reqRelease b = d) ∧
    ((d.reqOf b).claim = .cancelling → d.reqTouch b = d.setReq b { d.reqOf b with claim := .claiming }) ∧
    ((d.reqOf b).claim = .releasing → (d.reqOf b).deferred = true ∨
        (∃ w, d.note.waiting? (.claim b) = some w ∧ w.kind = .release) →
      ((d.reqTouch b).reqOf b).claim = .driving ∧ ((d.reqTouch b).reqOf b).deferred = false ∧
      ((d.reqOf b).deferred = false → (d.reqTouch b).note.waiting? (.claim b) = none) ∧
      (d.reqTouch b).note.waiting? (.drive b) =
        some (Waiting.mk (.drive b) .drive (levelPayload (d.reqOf b).level (d.reqOf b).muted))) ∧
    ((d.reqOf b).claim = .releasing → (d.reqOf b).deferred = false → d.note.waiting? (.claim b) = none →
      ((d.reqTouch b).reqOf b).claim = .releasing ∧ ((d.reqTouch b).reqOf b).reclaim = true ∧
      ((d.reqTouch b).note.waiting? (.claim b)).map (·.kind) = some .claim ∧
      (d.reqTouch b).note.flight = d.note.flight) ∧
    ((d.reqOf b).claim = .claiming →
      ((d.note.waiting? (.claim b)).isSome → ((d.reqRelease b).reqOf b).claim = .none ∧
        (d.reqRelease b).note.waiting? (.claim b) = none) ∧
      (d.note.waiting? (.claim b) = none → d.reqRelease b = d.setReq b { d.reqOf b with claim := .cancelling })) ∧
    ((d.reqOf b).claim = .driving →
      (d.note.waiting? (.drive b) = none → ((d.reqRelease b).reqOf b).claim = .releasing ∧
        ((d.reqRelease b).reqOf b).deferred = false ∧
        ((d.reqRelease b).note.waiting? (.claim b)).map (·.kind) = some .release) ∧
      ((d.note.waiting? (.drive b)).isSome →
        d.reqRelease b = d.setReq b { d.reqOf b with claim := .releasing, deferred := true })) ∧
    ((d.reqOf b).claim = .releasing →
      ((d.reqOf b).reclaim = true → ((d.reqRelease b).reqOf b).claim = .releasing ∧
        ((d.reqRelease b).reqOf b).reclaim = false ∧ (d.reqRelease b).note.waiting? (.claim b) = none) ∧
      ((d.reqOf b).reclaim = false → d.reqRelease b = d)) ∧
    (((d.drivePlaced b).reqOf b).keepalive = 0 ∧
      ((d.reqOf b).claim = .releasing → (d.reqOf b).deferred = true → ((d.drivePlaced b).reqOf b).deferred = false ∧
        ((d.drivePlaced b).reqOf b).claim = .releasing ∧
        ((d.drivePlaced b).note.waiting? (.claim b)).map (·.kind) = some .release))

/-! ## STRIP (chapter 4) -/

/-- R69, R70: the order of ROUTE's refusals (number out of range, source not homed here, loop), and the route a taken ROUTE
gives the strip, with the own solo bits recomputed (R76); other strips' routes and every control stay.
The whole transfer is one step (log 7). -/
def Obligations.RouteResult : Prop :=
  ∀ (a f b o b1 o1 b2 o2 : Byte) (tail : Nat) (s : State), s.ready → s.conf.isSome →
    (32 ≤ a.toNat ∨ readSource s.env f b o = none ∨ readSend s.env b1 o1 = none ∨ readSend s.env b2 o2 = none →
      exec (.route a f b o b1 o1 b2 o2 tail) s = .next (s.taken 8 tail (.refused 4 .range))) ∧
    (∀ (n : Fin 32) src x y, a.toNat = n.val → readSource s.env f b o = some src → readSend s.env b1 o1 = some x →
      readSend s.env b2 o2 = some y →
      (sourceHomed s.env src = false → exec (.route a f b o b1 o1 b2 o2 tail) s = .next (s.taken 8 tail (.refused 4 .notHome))) ∧
      (sourceHomed s.env src = true → loops s.env src x y = true →
        exec (.route a f b o b1 o1 b2 o2 tail) s = .next (s.taken 8 tail (.refused 4 .loop))) ∧
      (sourceHomed s.env src = true → loops s.env src x y = false →
        ∃ t, exec (.route a f b o b1 o1 b2 o2 tail) s = .next t ∧ (t.desk.stripOf n).source = src ∧
          (t.desk.stripOf n).send1 = x ∧ (t.desk.stripOf n).send2 = y ∧ t.desk.strip.ownBits = t.desk.soloBits s.env ∧
          (∀ k, k ≠ n → (t.desk.stripOf k).source = (s.desk.stripOf k).source ∧
            (t.desk.stripOf k).send1 = (s.desk.stripOf k).send1 ∧ (t.desk.stripOf k).send2 = (s.desk.stripOf k).send2) ∧
          (∀ k, (t.desk.stripOf k).hist1 = (s.desk.stripOf k).hist1 ∧ (t.desk.stripOf k).solo = (s.desk.stripOf k).solo) ∧
          t.desk.auto = s.desk.auto ∧ t.desk.touch = s.desk.touch ∧ t.desk.home = s.desk.home ∧
          t.desk.take = s.desk.take ∧ t.desk.ev = s.desk.ev ∧ t.desk.note.flight = s.desk.note.flight ∧
          t.link.state = .working (.done 4 [t.desk.soloByte]) ∧ SameButDesk 8 tail s t))

/-- R75, R76, R79: SOLO writes both flags of the strip; the own bit of a zone is 1 exactly when a soloed strip sends into the
zone; every gate's target, of send 1 and of send 2, is 0 exactly for a send into a solo-active zone of a strip neither soloed
nor safe. The whole transfer is one step (log 7). -/
def Obligations.SoloResult : Prop :=
  ∀ (a flags : Byte) (tail : Nat) (s : State), s.ready → s.conf.isSome →
    (32 ≤ a.toNat → exec (.solo a flags tail) s = .next (s.taken 2 tail (.refused 5 .range))) ∧
    (∀ n : Fin 32, a.toNat = n.val → ∃ t, exec (.solo a flags tail) s = .next t ∧
      (t.desk.stripOf n).solo = flags.getLsbD 0 ∧ (t.desk.stripOf n).safe = flags.getLsbD 1 ∧
      (∀ k, k ≠ n → (t.desk.stripOf k).solo = (s.desk.stripOf k).solo ∧ (t.desk.stripOf k).safe = (s.desk.stripOf k).safe) ∧
      (∀ z : Fin 4, t.desk.strip.ownBits.getLsbD z.val = true ↔ ∃ k, (t.desk.stripOf k).solo = true ∧
        (s.env.zoneOf? (t.desk.stripOf k).send1 = some z ∨ s.env.zoneOf? (t.desk.stripOf k).send2 = some z)) ∧
      (∀ k, (t.desk.stripOf k).gate1.target = (match s.env.zoneOf? (t.desk.stripOf k).send1 with
        | some z => if t.desk.strip.zones[z] ≠ 0 ∧ (t.desk.stripOf k).solo = false ∧ (t.desk.stripOf k).safe = false
            then Gain.zero else Gain.one
        | none => Gain.one)) ∧
      (∀ k, (t.desk.stripOf k).gate2.target = (match s.env.zoneOf? (t.desk.stripOf k).send2 with
        | some z => if t.desk.strip.zones[z] ≠ 0 ∧ (t.desk.stripOf k).solo = false ∧ (t.desk.stripOf k).safe = false
            then Gain.zero else Gain.one
        | none => Gain.one)) ∧
      (∀ k, (t.desk.stripOf k).source = (s.desk.stripOf k).source ∧ (t.desk.stripOf k).send1 = (s.desk.stripOf k).send1 ∧
        (t.desk.stripOf k).send2 = (s.desk.stripOf k).send2 ∧ (t.desk.stripOf k).level = (s.desk.stripOf k).level ∧
        (t.desk.stripOf k).hist1 = (s.desk.stripOf k).hist1 ∧ (t.desk.stripOf k).hist2 = (s.desk.stripOf k).hist2) ∧
      t.desk.auto = s.desk.auto ∧ t.desk.touch = s.desk.touch ∧ t.desk.home = s.desk.home ∧ t.desk.take = s.desk.take ∧
      t.desk.ev = s.desk.ev ∧ t.desk.note.flight = s.desk.note.flight ∧
      t.link.state = .working (.done 5 [t.desk.soloByte]) ∧ SameButDesk 2 tail s t)

/-- R73, R74: the last step of a ramp brings its factor to the target and ends the ramp; that every other factor stays, the row
being that factor's part of the sample event alone, is the model's choice (log 1). Every earlier step of a ramp of M steps
brings the factor to start + (target − start) × (k + 1) / M, and a factor without a ramp stays. M is the number of sample
events to the next quarter start in a locked state, and 500 or 1000 in UNLOCKED and CHASING; at which sample event a change
brought by a command is reckoned is a reading (log 6). -/
def Obligations.RampEndResult : Prop :=
  (∀ (s : State) (r : FactorName), s.clocked → (s.desk.factor r).atLastStep s.nextRampLength = true →
    ∃ t, exec (.rampEnd r) s = .next t ∧ (t.desk.factor r).value = (s.desk.factor r).target ∧
      (t.desk.factor r).target = (s.desk.factor r).target ∧ (t.desk.factor r).ramp = .held ∧
      (∀ q, q ≠ r → t.desk.factor q = s.desk.factor q) ∧
      t.desk.home.homes.map (·.driver) = s.desk.home.homes.map (·.driver) ∧
      t = { s with desk := { s.desk with strip := { s.desk.strip with strips := t.desk.strip.strips },
                                         home := { s.desk.home with homes := t.desk.home.homes } } }) ∧
  (∀ (s : State) (x : Vector Sample 32) (l : Option (Vector Lane 128)) (r : FactorName) (f g : Factor),
    s.desk.factor r = f → (s.audio x l).desk.factor r = g →
    g.target = f.target ∧ (f.ramp = .held → g = f) ∧
    ∀ start k M, f.ramp = .running start k M ∨ start = f.value ∧ k = 0 ∧
        (f.ramp = .timed M ∨ f.ramp = .armed ∧ M = rampLength s.env) →
      (k + 1 < M → g.value = Factor.atStep start f.target (k + 1) M ∧ g.ramp = .running start (k + 1) M) ∧
      (M ≤ k + 1 → g.value = f.target ∧ g.ramp = .held)) ∧
  (∀ (d : Desk) (L : Nat) (r : FactorName), (d.fixLengths L).factor r =
    if (d.factor r).ramp = .armed then { d.factor r with ramp := .timed L } else d.factor r) ∧
  (∀ (e : Env) (c : Conf) (m : Motion) (n : Nat), e.conf = some c → e.pos.state = m.transport →
    n = spf e.rate96 c.rate e.pos.frame → e.pos.offset < n → 0 < rampLength e ∧
    e.pos.offset + rampLength e ∈ [1 * n / 4, 2 * n / 4, 3 * n / 4, n] ∧
    ∀ j, e.pos.offset < j → j < e.pos.offset + rampLength e → j ∉ [1 * n / 4, 2 * n / 4, 3 * n / 4, n]) ∧
  (∀ e : Env, e.pos.state = .unlocked ∨ e.pos.state = .chasing → rampLength e = if e.rate96 then 1000 else 500) ∧
  (∀ (s : State) (c : Conf) (m : Motion), s.conf = some c → s.pos.state = m.transport →
    s.pos.offset + 1 < spf s.rate96 c.rate s.pos.frame →
    s.nextRampLength = rampLength { s.env with pos := { s.pos with offset := s.pos.offset + 1 } })

/-- R71: a level value v from 1 gives the factor 10^((v − 927)/160), the value 0 the factor 0, and a mute value 1 or 0.
R72: products of factors are exact; a factor of 1 gives back the sample; a product is rounded to the nearest integer, for
every factor that the law, products and ramps give, and alike for both signs, so halves go away from zero. R74: the k-th of L
steps is start + (target − start) × k / L, exactly. That a factor is held as an exact sum is the model's reading (log 21). -/
def Obligations.GainLaw : Prop :=
  Gain.ofLevel 927 = Gain.one ∧ Gain.ofLevel 0 = Gain.zero ∧ Gain.ofMute 0 = Gain.one ∧ Gain.ofMute 1 = Gain.zero ∧
  Gain.zero.toReal = 0 ∧ Gain.one.toReal = 1 ∧
  (∀ v : Value, 0 < v.toNat → (Gain.ofLevel v).toReal = (10 : ℝ) ^ (((v.toNat : ℝ) - 927) / 160)) ∧
  (∀ x y : Gain, (x.mul y).toReal = x.toReal * y.toReal) ∧
  (∀ (x y : Gain) (k L : Nat), x.den ≠ 0 → y.den ≠ 0 → 0 < L → k ≤ L →
    (Factor.atStep x y k L).toReal = x.toReal + (y.toReal - x.toReal) * (k : ℝ) / (L : ℝ)) ∧
  (∀ x : Int, Gain.round x Gain.one = x) ∧
  (∀ x : Int, Gain.round x Gain.zero = 0) ∧ (∀ (x : Int) (g : Gain), Gain.round (-x) g = - Gain.round x g) ∧
  (∀ (x : Int) (n d : Nat), 0 ≤ x → 0 < d → Gain.round x (Gain.ratio n d) = (2 * x * n + d) / (2 * d)) ∧
  (∀ (x : Int) (g : Gain), 0 ≤ x → g.wf → Gain.round x g = ⌊(x : ℝ) * g.toReal + 1 / 2⌋) ∧
  (∀ v : Value, (Gain.ofLevel v).wf ∧ (Gain.ofMute v).wf) ∧ (∀ n d : Nat, 0 < d → (Gain.ratio n d).wf) ∧
  (∀ x y : Gain, x.wf → y.wf → (x.mul y).wf ∧ ∀ k L : Nat, 0 < L → (Factor.atStep x y k L).wf)

/-! ## TOUCH (chapter 5) -/

/-- R82, R83, R85: the N-th reading of a new level in a row qualifies the edge: latch set, current tick captured, and the
held count of the fader's target changed by one; that every other line stays, and all but the desk, the row being that line's
part of the sample event alone, is the model's choice (log 1).
R84 to R86: a target that changes from untouched to touched, or back, hands the touch or release to its owner, the control, the
home or the requester, and any other change of the held count reaches no owner.
R123, R124, R126, R128: a touch at an idle control in TOUCH or LATCH opens a pass at the current tick where the recording
conditions hold, else primes it; at a gliding or holding one it takes the pass back; elsewhere it is noted only.
R126 to R128: a release begins a glide, closes the pass, holds the value, or makes a primed control idle. -/
def Obligations.QualifiedEdges : Prop :=
  (∀ (s : State) (f : Fin 32), s.clocked → (s.desk.lineOf f).enable = true →
    ((s.desk.lineOf f).state = .untouched ∧ intervalSamples s.rate96 (s.desk.lineOf f).interval = 0 ∨
      (s.desk.lineOf f).state = .qualifyTouch ∧
        intervalSamples s.rate96 (s.desk.lineOf f).interval ≤ (s.desk.lineOf f).count + 1) →
    ∃ t, exec (.touchQualified f) s = .next t ∧ t.desk.lineOf f =
        { s.desk.lineOf f with state := .touched, count := 0, touchLatch := true, lastTouch := s.pos.tick } ∧
      (∀ g, g ≠ f → t.desk.lineOf g = s.desk.lineOf g) ∧
      (∀ k, s.desk.touch.map[f].target? = some k → (t.desk.touch.target k).held = (s.desk.touch.target k).held + 1) ∧
      (∀ k x d, s.desk.touch.map[f].target? = some k → x = s.desk.touch.target k →
        d = { s.desk with
          touch := Touch.setTarget { x with held := x.held + 1 } k { s.desk.touch with lines := t.desk.touch.lines } } →
        (0 < x.held ∨ x.surfaced = true → t.desk = d) ∧
        (x.held = 0 → x.surfaced = false →
          (∀ c, k = .control c → t.desk = d.touchControl s.env (stripControlId c)) ∧
          (∀ b, k = .bus b → s.env.homesBus b = true → t.desk = d.localClaim s.env b) ∧
          (∀ b, k = .bus b → s.env.requestsBus b = true → t.desk = d.reqTouch b))) ∧
      (s.desk.touch.map[f] = .none → t.desk.auto = s.desk.auto ∧ t.desk.home = s.desk.home) ∧
      SameSettings s.desk t.desk ∧ t = { s with desk := t.desk }) ∧
  (∀ (s : State) (f : Fin 32), s.clocked → (s.desk.lineOf f).enable = true →
    ((s.desk.lineOf f).state = .touched ∧ intervalSamples s.rate96 (s.desk.lineOf f).interval = 0 ∨
      (s.desk.lineOf f).state = .qualifyRelease ∧
        intervalSamples s.rate96 (s.desk.lineOf f).interval ≤ (s.desk.lineOf f).count + 1) →
    ∃ t, exec (.releaseQualified f) s = .next t ∧ t.desk.lineOf f =
        { s.desk.lineOf f with state := .untouched, count := 0, releaseLatch := true, lastRelease := s.pos.tick } ∧
      (∀ g, g ≠ f → t.desk.lineOf g = s.desk.lineOf g) ∧
      (∀ k, s.desk.touch.map[f].target? = some k → (t.desk.touch.target k).held = (s.desk.touch.target k).held - 1) ∧
      (∀ k x d, s.desk.touch.map[f].target? = some k → x = s.desk.touch.target k →
        d = { s.desk with
          touch := Touch.setTarget { x with held := x.held - 1 } k { s.desk.touch with lines := t.desk.touch.lines } } →
        (x.held ≠ 1 ∨ x.surfaced = true → t.desk = d) ∧
        (x.held = 1 → x.surfaced = false →
          (∀ c, k = .control c → t.desk = d.releaseControl s.env false (stripControlId c)) ∧
          (∀ b, k = .bus b → s.env.homesBus b = true → t.desk = d.localRelease s.env b) ∧
          (∀ b, k = .bus b → s.env.requestsBus b = true → t.desk = d.reqRelease b))) ∧
      (s.desk.touch.map[f] = .none → t.desk.auto = s.desk.auto ∧ t.desk.home = s.desk.home) ∧
      SameSettings s.desk t.desk ∧ t = { s with desk := t.desk }) ∧
  (∀ (e : Env) (c : Fin 176) (k : Tick) (d : Desk), (d.mayRecord e c k = true ↔ e.pos.state = .rolling ∧
    (∀ i o, d.auto.window = some (i, o) → i ≤ k ∧ k < o) ∧ (d.control c).safe = false)) ∧
  (∀ (e : Env) (c : Fin 176) (d u : Desk) (x y : Control), d.control c = x → d.touchControl e c = u → u.control c = y →
    y.touched = true ∧
    ((x.mode = .touch ∨ x.mode = .latch) → x.pass = .idle → y.applied = x.surface ∧
      (∀ k, e.pos.tick = some k → d.mayRecord e c k = true → d.take.queue.length + d.take.reserved < 32 →
        y.pass = .writing ∧ y.lastMove.map (·.tick) = some k ∧ u.auto.nextSerial = d.auto.nextSerial + 1 ∧
        u.take.reserved = d.take.reserved + 1 ∧ ∃ p, y.openPass = some p ∧ p.serial = d.auto.nextSerial ∧
          p.mode = x.mode ∧ p.punchIn = k ∧ p.latest = k ∧ p.glideStart = none ∧ p.driverLost = false) ∧
      (∀ k, e.pos.tick = some k → d.mayRecord e c k = true → 32 ≤ d.take.queue.length + d.take.reserved →
        y.pass = .primed ∧ y.openPass = x.openPass ∧ u.take = d.take ∧ u.flag .passFull = true) ∧
      (e.pos.tick = none ∨ (∃ k, e.pos.tick = some k ∧ d.mayRecord e c k = false) →
        y.pass = .primed ∧ y.openPass = x.openPass ∧ u.take = d.take ∧ u.ev = d.ev)) ∧
    ((x.mode = .touch ∨ x.mode = .latch) → x.pass = .gliding ∨ x.pass = .holding →
      y.pass = .writing ∧ y.glide = none ∧ y.applied = x.surface ∧ u.take = d.take ∧
      y.openPass = x.openPass.map fun p => { p with glideStart := none }) ∧
    (x.mode = .off ∨ x.mode = .read ∨ x.mode = .write ∨ x.pass = .primed ∨ x.pass = .writing →
      u = d.setControl c { x with touched := true })) ∧
  (∀ (e : Env) (lost : Bool) (c : Fin 176) (d u : Desk) (x y : Control), d.control c = x →
    d.releaseControl e lost c = u → u.control c = y →
    y.touched = false ∧
    (x.mode = .touch → x.pass = .writing → x.glideLength ≠ 0 → y.pass = .gliding ∧ y.applied = x.applied ∧
      y.glide = some { start := x.applied, length := x.glideLength.toNat, taken := 0 } ∧ u.take = d.take ∧
      y.openPass.map (·.glideStart) = x.openPass.map fun _ => e.pos.tick) ∧
    (∀ p, x.mode = .touch → x.pass = .writing → x.glideLength = 0 → x.openPass = some p →
      y.pass = .idle ∧ y.openPass = none ∧ y.glide = none ∧ y.applied = x.playback ∧
      u.take.queue = d.take.queue ++ [{ p.record c .release with driverLost := p.driverLost || lost }]) ∧
    (x.mode = .latch → x.pass = .writing → y.pass = .holding ∧ y.applied = x.applied ∧ u.take = d.take ∧
      y.openPass.isSome = x.openPass.isSome) ∧
    ((x.mode = .touch ∨ x.mode = .latch) → x.pass = .primed →
      y.pass = .idle ∧ y.applied = x.playback ∧ u.take = d.take) ∧
    (x.mode = .off ∨ x.mode = .read ∨ x.mode = .write ∨ x.pass = .idle ∨ x.pass = .gliding ∨ x.pass = .holding →
      lost = false → u = d.setControl c { x with touched := false }))

/-- R87, R88: TOUCHSET gives the line the settings and replies with the line; a disabled line is UNTOUCHED with its latches
clear and its captured ticks kept; settings as they were change nothing; other lines stay.
The whole transfer is one step (log 7). -/
def Obligations.TouchsetResult : Prop :=
  ∀ (a flags i : Byte) (tail : Nat) (s : State), s.ready → s.conf.isSome →
    (32 ≤ a.toNat ∨ 5 ≤ i.toNat → exec (.touchset a flags i tail) s = .next (s.taken 3 tail (.refused 6 .range))) ∧
    (∀ (f : Fin 32) (v : Fin 5), a.toNat = f.val → i.toNat = v.val →
      ∃ t, exec (.touchset a flags i tail) s = .next t ∧ (t.desk.lineOf f).enable = flags.getLsbD 0 ∧
        (t.desk.lineOf f).activeLow = flags.getLsbD 1 ∧ (t.desk.lineOf f).interval = v ∧
        (t.desk.lineOf f).lastTouch = (s.desk.lineOf f).lastTouch ∧
        (t.desk.lineOf f).lastRelease = (s.desk.lineOf f).lastRelease ∧
        ((s.desk.lineOf f).enable = true → flags.getLsbD 0 = false → (t.desk.lineOf f).state = .untouched ∧
          (t.desk.lineOf f).count = 0 ∧ (t.desk.lineOf f).touchLatch = false ∧ (t.desk.lineOf f).releaseLatch = false) ∧
        ((s.desk.lineOf f).enable = flags.getLsbD 0 → (s.desk.lineOf f).activeLow = flags.getLsbD 1 →
          (t.desk.lineOf f).state = (s.desk.lineOf f).state ∧ (t.desk.lineOf f).count = (s.desk.lineOf f).count ∧
          ((s.desk.lineOf f).interval = v → t.desk = s.desk)) ∧
        (∀ g, g ≠ f → t.desk.lineOf g = s.desk.lineOf g) ∧ t.desk.touch.map = s.desk.touch.map ∧
        t.link.state = .working (.done 6 (t.desk.lineOf f).bytes) ∧ SameButDesk 3 tail s t)

/-- R89: MAP gives the fader the target and puts it into the drive list with the level the target applies, or takes it out;
a MAP to the present target changes nothing; lines and other faders' targets stay.
The whole transfer is one step (log 7). -/
def Obligations.MapResult : Prop :=
  ∀ (a form x : Byte) (tail : Nat) (s : State), s.ready → s.conf.isSome →
    (32 ≤ a.toNat ∨ mapTarget? s.env form x = none → exec (.map a form x tail) s = .next (s.taken 3 tail (.refused 7 .range))) ∧
    (∀ (f : Fin 32) (m : FaderTarget), a.toNat = f.val → mapTarget? s.env form x = some m →
      (s.desk.touch.map[f] = m → exec (.map a form x tail) s = .next (s.taken 3 tail (.done 7 []))) ∧
      (s.desk.touch.map[f] ≠ m → ∃ t, exec (.map a form x tail) s = .next t ∧ t.desk.touch.map[f] = m ∧
        (∀ g : Fin 32, g ≠ f → t.desk.touch.map[g] = s.desk.touch.map[g]) ∧ t.desk.touch.lines = s.desk.touch.lines ∧
        (m = .none → t.desk.touch.drives[f] = none) ∧
        (∀ n, m = .strip n → t.desk.touch.drives[f] = some (t.desk.control (levelId n)).applied) ∧
        (∀ b, m = .bus b → s.env.homesBus b = true →
          t.desk.touch.drives[f] = some (t.desk.control (masterId b)).applied) ∧
        (∀ b, m = .bus b → s.env.homesBus b = false →
          t.desk.touch.drives[f] = (s.desk.reqOf b).echo.map (·.1)) ∧
        t.link.state = .working (.done 7 []) ∧ SameButDesk 3 tail s t))

/-- R90, R99, R108, R115, R120: a SURFACE of a strip control gives it its surface value, which an OFF or WRITE control
applies at once; a value out of its range is refused with RANGE; every other control's values and pass state stay. A SURFACE
of a bus gives the home, or the requester where the bus is homed elsewhere, its local value of the kind named.
The whole transfer is one step (log 7). -/
def Obligations.SurfaceResult : Prop :=
  ∀ (x : Byte) (v : BitVec 16) (i : Byte) (tail : Nat) (s : State), s.ready → s.conf.isSome →
    (128 ≤ x.toNat ∨ 1023 < v.toNat ∨ x.toNat % 4 = 1 ∧ 1 < v.toNat ∨ 2 < i.toNat →
      exec (.surface 0 x v i tail) s = .next (s.taken 5 tail (.refused 8 .range))) ∧
    (∀ c : Fin 176, c.val < 128 → x.toNat = c.val → v.toNat ≤ 1023 → (x.toNat % 4 = 1 → v.toNat ≤ 1) → i.toNat ≤ 2 →
      ∃ t, exec (.surface 0 x v i tail) s = .next t ∧ (t.desk.control c).surface = BitVec.ofNat 10 v.toNat ∧
        ((s.desk.control c).mode = .off ∨ (s.desk.control c).mode = .write →
          (t.desk.control c).applied = BitVec.ofNat 10 v.toNat) ∧
        (∀ k, k ≠ c → (t.desk.control k).surface = (s.desk.control k).surface ∧
          (t.desk.control k).applied = (s.desk.control k).applied ∧ (t.desk.control k).pass = (s.desk.control k).pass ∧
          (t.desk.control k).touched = (s.desk.control k).touched) ∧ t.desk.home = s.desk.home ∧
        t.desk.touch.lines = s.desk.touch.lines ∧ SameSettings s.desk t.desk ∧
        t.link.state = .working (.done 8 []) ∧ SameButDesk 5 tail s t) ∧
    (∀ (b : Fin 24) (form : Byte), form = 1 ∨ form = 2 → s.env.busOfByte? x = some b →
      v.toNat ≤ (if form = 1 then 1023 else 1) → i.toNat ≤ 2 →
      ∃ t, exec (.surface form x v i tail) s = .next t ∧
        (form = 1 → s.env.homesBus b = true → (t.desk.homeOf b).level = BitVec.ofNat 10 v.toNat) ∧
        (form = 1 → s.env.homesBus b = false → (t.desk.reqOf b).level = BitVec.ofNat 10 v.toNat) ∧
        (form = 2 → s.env.homesBus b = true → (t.desk.homeOf b).muted = decide (v.toNat = 1)) ∧
        (form = 2 → s.env.homesBus b = false → (t.desk.reqOf b).muted = decide (v.toNat = 1)) ∧
        t.desk.touch.lines = s.desk.touch.lines ∧ SameSettings s.desk t.desk ∧
        t.link.state = .working (.done 8 []) ∧ SameButDesk 5 tail s t)

/-- R92: DRIVES is taken in every state of the part, replies with every entry of the drive list in ascending fader order,
and empties the list; nothing else changes. A change of a target's level handed to TOUCH later makes an entry of every fader
mapped to it, which the next DRIVES then returns.
The whole transfer is one step (log 7). -/
def Obligations.DrivesResult : Prop :=
  (∀ (tail : Nat) (s : State), s.ready → ∃ entries : List (Fin 32 × Value),
    (entries.map (·.1)).Pairwise (· < ·) ∧ (∀ f v, (f, v) ∈ entries ↔ s.desk.touch.drives[f] = some v) ∧
    exec (.drives tail) s = .next (State.taken 0 tail
      (.done 9 (bytesOf 1 entries.length ++ entries.flatMap fun x => bytesOf 1 x.1.val ++ bytesOf 2 x.2.toNat))
      { s with desk := { s.desk with touch := { s.desk.touch with drives := Vector.replicate 32 none } } })) ∧
  (∀ (d : Desk) (m : FaderTarget) (v : Value) (f : Fin 32), (d.drive m v).touch.drives[f] =
    if d.touch.map[f] = m then some v else d.touch.drives[f])

/-! ## AUTO (chapter 7) -/

/-- R116, R117: CONTROL of a strip control, or of a bus control of a bus homed here, gives it mode, safe flag and glide length;
a change of mode or safe flag closes its pass with reason MODE, no change keeps it; a pass kept keeps its pass state, and else
the new mode and the touched item decide it; the reply carries the record; every other control stays.
R116 checks 2 and 3 for the bus controls: of a bus that is not of the plan RANGE, of a bus homed elsewhere NOT_HOME.
The whole transfer is one step (log 7). -/
def Obligations.ControlCommand : Prop :=
  (∀ (x m f g : Byte) (tail : Nat) (s : State), s.ready → s.conf.isSome →
    (176 ≤ x.toNat ∨ modeOfCode? m = none ∨ 1 < f.toNat ∨ 63 < g.toNat →
      exec (.control x m f g tail) s = .next (s.taken 4 tail (.refused 0x0A .range))) ∧
    (∀ (c : Fin 176) (k : Mode), c.val < 128 ∨ (∃ b, (c = masterId b ∨ c = masterMuteId b) ∧ s.env.homesBus b = true) →
      x.toNat = c.val → modeOfCode? m = some k → f.toNat ≤ 1 → g.toNat ≤ 63 →
      ∃ t, exec (.control x m f g tail) s = .next t ∧ (t.desk.control c).mode = k ∧
        (t.desk.control c).safe = decide (f.toNat = 1) ∧ (t.desk.control c).glideLength = BitVec.ofNat 6 g.toNat ∧
        (((s.desk.control c).mode ≠ k ∨ (s.desk.control c).safe ≠ decide (f.toNat = 1)) →
          (t.desk.control c).openPass = none ∧ ∀ p, (s.desk.control c).openPass = some p →
            t.desk.take.queue = s.desk.take.queue ++ [p.record c .mode]) ∧
        ((s.desk.control c).mode = k → (s.desk.control c).safe = decide (f.toNat = 1) →
          (t.desk.control c).openPass = (s.desk.control c).openPass ∧ t.desk.take = s.desk.take) ∧
        ((t.desk.control c).openPass.isSome → (t.desk.control c).pass = (s.desk.control c).pass) ∧
        ((t.desk.control c).openPass = none →
          (k = .off ∨ k = .read → (t.desk.control c).pass = .idle) ∧ (k = .write → (t.desk.control c).pass = .primed) ∧
          (k = .touch ∨ k = .latch → (t.desk.control c).pass =
            if (s.desk.control c).touched then .primed else .idle)) ∧
        (t.desk.control c).touched = (s.desk.control c).touched ∧
        (t.desk.control c).surface = (s.desk.control c).surface ∧
        (t.desk.control c).playback = (s.desk.control c).playback ∧
        (∀ j, j ≠ c → t.desk.control j = s.desk.control j) ∧ (c.val < 128 → t.desk.home = s.desk.home) ∧
        (∀ b, (t.desk.homeOf b).driver = (s.desk.homeOf b).driver ∧ (t.desk.homeOf b).lease = (s.desk.homeOf b).lease) ∧
        t.desk.touch.lines = s.desk.touch.lines ∧ t.link.state = .working (.done 0x0A (t.desk.control c).bytes) ∧
        SameButDesk 4 tail s t)) ∧
  (∀ (b : Fin 24) (x m f g : Byte) (tail : Nat) (s : State), s.ready → s.conf.isSome → x.toNat = 128 + 2 * b.val ∨
    x.toNat = 129 + 2 * b.val → (modeOfCode? m).isSome → f.toNat ≤ 1 → g.toNat ≤ 63 →
    (s.env.bus? b = none → exec (.control x m f g tail) s = .next (s.taken 4 tail (.refused 0x0A .range))) ∧
    (s.env.requestsBus b = true → exec (.control x m f g tail) s = .next (s.taken 4 tail (.refused 0x0A .notHome))))

/-- R134: WINDOW is refused with RANGE where the in-tick is not below the out-tick or either is too large; taken it sets or
clears the punch window, and neither opens nor closes a pass.
The whole transfer is one step (log 7). -/
def Obligations.WindowResult : Prop :=
  ∀ (form : Byte) (i o : BitVec 32) (tail : Nat) (s : State), s.ready → s.conf.isSome →
    (1 < form.toNat ∨ form = 1 ∧ (o.toNat ≤ i.toNat ∨ 67108863 < o.toNat) →
      exec (.window form i o tail) s = .next (s.taken 9 tail (.refused 0x0B .range))) ∧
    (form = 0 → exec (.window form i o tail) s = .next (State.taken 9 tail (.done 0x0B [])
      { s with desk := { s.desk with auto := { s.desk.auto with window := none } } })) ∧
    (form = 1 → i.toNat < o.toNat → o.toNat ≤ 67108863 →
      exec (.window form i o tail) s = .next (State.taken 9 tail (.done 0x0B []) { s with desk := { s.desk with auto :=
        { s.desk.auto with window := some (BitVec.ofNat 26 i.toNat, BitVec.ofNat 26 o.toNat) } } }))

/-- R132, R136, R137, R174: ABORT NOW closes every pass with reason ABORT, in ascending order of control id, replies with
their number, and supersedes a pending abort; ABORT AT_PAGE_END is refused with BUSY while one is pending, else makes it
pending; both clear the ABORT record. A record holds the pass's serial, control, mode, ticks, reason and flags (R165), with its
latest tick as punch-out tick also where that lies before the punch-in tick (the model's choice, log 35). The whole transfer
is one step (log 7). -/
def Obligations.AbortCommands : Prop :=
  (∀ (tail : Nat) (s : State), s.ready → s.conf.isSome → s.desk.passInv → ∃ t, exec (.abortNow tail) s = .next t ∧
    s.desk.closedBy .abort t.desk ∧ t.desk.auto.openCount = 0 ∧ t.desk.auto.pendingAbort = false ∧
    t.desk.ev.abort = (if s.desk.auto.pendingAbort then some .superseded else none) ∧
    t.link.state = .working (.done 0x0C (bytesOf 1 s.desk.auto.openPasses)) ∧ SameSettings s.desk t.desk ∧
    SameButDesk 0 tail s t) ∧
  (∀ (p : OpenPass) (c : Fin 176) (r : CloseReason), p.record c r =
    { serial := p.serial, control := c, mode := p.mode, punchIn := p.punchIn, punchOut := p.latest, reason := r,
      damaged := p.damaged, driverLost := p.driverLost, glideStart := p.glideStart }) ∧
  (∀ (tail : Nat) (s : State), s.ready → s.conf.isSome →
    (s.desk.auto.pendingAbort = true →
      exec (.abortAtPageEnd tail) s = .next (s.taken 0 tail (.refused 0x0D .busy))) ∧
    (s.desk.auto.pendingAbort = false → exec (.abortAtPageEnd tail) s = .next (State.taken 0 tail (.accepted 0x0D)
      { s with desk := { s.desk with auto := { s.desk.auto with pendingAbort := true },
                                     ev := { s.desk.ev with abort := none } } })))

/-- R137, R132: at a page crossing the pending abort fires: every open pass closes with reason ABORT, in ascending order of
control id, and a pass open after the tick was opened at it; the abort becomes absent and the ABORT record is FIRED, with the
number of passes open, where no transport event closed them first. That a record's punch-out tick is its latest tick also before
its punch-in tick is the model's choice (log 35).
R132, R133: STOP and REVERSE close every open pass with their reason before the tick, and ROLL closes none.
R127: the last tick of a glide closes the pass with reason RELEASE.
R123, R124, R134, R125: at a tick at or beyond the out-tick every pass closes with reason WINDOW; a primed control whose
recording conditions hold opens a pass at the tick, or raises PASS_FULL where there is no room; a writing or holding control
appends a move in ROLLING where its applied value has changed, and the tick becomes its pass's latest. That the rows are POS's
part of the sample event alone, with the ring as it was, is the model's choice (log 1). -/
def Obligations.TickEndsPasses : Prop :=
  (∀ (s : State) (edge : Option FrameNo) (k : MadeTick), s.clocked → s.desk.auto.pendingAbort = true →
    (s.posOut edge).made = some k → k.crossing = true →
    ∃ t n, exec (.abortFired edge) s = .next t ∧ t.desk.auto.pendingAbort = false ∧
      t.desk.ev.abort = some (.fired n) ∧
      ((s.posOut edge).events = [] ∨ (s.posOut edge).events = [.roll] → n = s.desk.auto.openCount ∧
        t.desk.take.queue = s.desk.take.queue ++ s.desk.openRecords .abort) ∧
      (∀ c p, (t.desk.control c).openPass = some p → p.punchIn = k.index) ∧
      t.pos = (s.posOut edge).pos ∧ t.ring = s.ring ∧ SameOutsideSample s t) ∧
  (∀ (s : State) (edge : Option FrameNo) (k : MadeTick) (c : Fin 176) (g : Glide) (p : OpenPass), s.clocked →
    s.env.live c = true → (s.posOut edge).made = some k →
    (s.posOut edge).events = [] ∨ (s.posOut edge).events = [.roll] →
    s.desk.auto.pendingAbort = false → s.desk.auto.window = none → (s.desk.control c).pass = .gliding →
    (s.desk.control c).glide = some g → g.taken + 1 = g.length → (s.desk.control c).openPass = some p →
    ∃ t, exec (.glideEnd c edge) s = .next t ∧ (t.desk.control c).openPass = none ∧ (t.desk.control c).glide = none ∧
      (∃ r ∈ t.desk.take.queue, r.control = c ∧ r.serial = p.serial ∧ r.reason = .release ∧ r.punchIn = p.punchIn ∧
        r.punchOut = k.index ∧ r.glideStart = p.glideStart) ∧
      t.pos = (s.posOut edge).pos ∧ t.ring = s.ring ∧ SameOutsideSample s t) ∧
  (∀ (s : State) (edge : Option FrameNo) (k : MadeTick) (r : CloseReason), s.clocked → (s.posOut edge).made = some k →
    (s.posOut edge).events = [.stop] ∧ r = .stop ∨ (s.posOut edge).events = [.reverse] ∧ r = .reverse →
    ∃ t, exec (.tick edge) s = .next t ∧ s.desk.closedBy r t.desk ∧ t.ring = s.ring ∧ SameOutsideSample s t) ∧
  (∀ (s : State) (edge : Option FrameNo) (k : MadeTick), s.clocked → (s.posOut edge).made = some k →
    (s.posOut edge).events = [] ∨ (s.posOut edge).events = [.roll] → s.desk.auto.pendingAbort = false →
    ∃ t, exec (.tick edge) s = .next t ∧
      (∀ i o, s.desk.auto.window = some (i, o) → o ≤ k.index → s.desk.closedBy .window t.desk) ∧
      (s.desk.passInv → (s.posOut edge).pos.state = .rolling →
        (∀ i o, s.desk.auto.window = some (i, o) → i ≤ k.index ∧ k.index < o) →
        ∀ (P : List (Fin 176)) (c : Fin 176), P = (List.finRange 176).filter (fun j =>
            s.env.live j && (s.desk.control j).pass == .primed && !(s.desk.control j).safe) → c ∈ P →
          (s.desk.take.queue.length + s.desk.take.reserved + P.length ≤ 32 →
            (t.desk.control c).pass = .writing ∧
            (t.desk.control c).lastMove = some { tick := k.index, value := (t.desk.control c).applied, current := true } ∧
            ∃ p, (t.desk.control c).openPass = some p ∧ p.mode = (s.desk.control c).mode ∧ p.punchIn = k.index ∧
              p.latest = k.index ∧ p.glideStart = none ∧ p.driverLost = false ∧
              p.serial = s.desk.auto.nextSerial + BitVec.ofNat 16 (P.filter (· < c)).length) ∧
          (s.desk.take.queue.length + s.desk.take.reserved = 32 →
            (t.desk.control c).pass = .primed ∧ (t.desk.control c).openPass = none ∧ t.flag .passFull = true)) ∧
      ((∀ i o, s.desk.auto.window = some (i, o) → k.index < o) → ∀ c p, s.env.live c = true →
        (s.desk.control c).openPass = some p → (s.desk.control c).pass = .writing ∨ (s.desk.control c).pass = .holding →
        (t.desk.control c).pass = (s.desk.control c).pass ∧
        (∃ q, (t.desk.control c).openPass = some { p with latest := k.index, damaged := q }) ∧
        ((s.posOut edge).pos.state = .rolling →
          (s.desk.control c).lastMove.map (·.value) ≠ some (t.desk.control c).applied →
          (t.desk.control c).lastMove = some { tick := k.index, value := (t.desk.control c).applied, current := true }) ∧
        ((s.posOut edge).pos.state ≠ .rolling ∨
            (s.desk.control c).lastMove.map (·.value) = some (t.desk.control c).applied →
          (t.desk.control c).lastMove = (s.desk.control c).lastMove.map fun m => { m with current := false })) ∧
      t.ring = s.ring ∧ SameOutsideSample s t)

/-! ## PLAY and TAKE (chapters 8, 9) -/

/-- R143, R144: SPAN is refused with RANGE for a bad form, a first page above the last or a page too large; taken it sets or
clears the span, and then no slot is MISSING and every page held lies in the window and in the span.
R140, R145: every step keeps that no two slots hold one page, that a slot is WANTED exactly for the page of the wanted record,
and that the stray count is at most 3. The whole transfer is one step (log 7). -/
def Obligations.SpanResult : Prop :=
  (∀ (form : Byte) (a b : BitVec 24) (tail : Nat) (s : State), s.ready → s.conf.isSome →
    (1 < form.toNat ∨ form = 1 ∧ (b.toNat < a.toNat ∨ 1048575 < b.toNat) →
      exec (.span form a b tail) s = .next (s.taken 7 tail (.refused 0x0E .range))) ∧
    (∀ x, (form = 0 ∧ x = none ∨ form = 1 ∧ a.toNat ≤ b.toNat ∧ b.toNat ≤ 1048575 ∧
        x = some (BitVec.ofNat 20 a.toNat, BitVec.ofNat 20 b.toNat)) →
      ∃ t, exec (.span form a b tail) s = .next t ∧ t.play.span = x ∧ t.play.entered = s.play.entered ∧
        (∀ (i : Fin 4) (n : Page), t.play.slots[i] ≠ .missing n ∧
          (t.play.slots[i].page? = some n → n ∈ playWindow s.pos ∧ t.play.inSpan n = true)) ∧
        (x = none → t.play.wanted = none) ∧
        t = State.taken 7 tail (.done 0x0E []) { s with play := t.play })) ∧
  (∀ s t : State, s.play.wf → step s = .next t → t.play.wf)

/-- R147, R149: a page with a wrong check word or form is REJECTED and raises PAGE_REJECTED; a well-formed page that is not the
wanted one is a STRAY; either counts as a stray against the wanted page, if there is one, and changes nothing else.
R150: the fourth stray raises PAGE_MISSING and makes the wanted page MISSING; the wanted record moves to another page with a
stray count of 0, or becomes absent.
R151, R119: the wanted page is TAKEN and held READY in the slot that was WANTED, and the stray count starts again as the wanted
record moves; where the current tick lies in the page, every live control takes its value in force there, and otherwise the
desk is as it was. The reply gives the result and the wanted page and stray count after it (11.3). The whole transfer is one
step (log 7). -/
def Obligations.DeliverResult : Prop :=
  (∀ y : Play, y.wantedBytes = match y.wanted with
    | some w => bytesOf 3 w.page.toNat ++ bytesOf 1 w.strays
    | none => [0xFF, 0xFF, 0xFF, 0]) ∧
  (∀ (p : List Byte) (tail : Nat) (s : State), s.ready → s.conf.isSome → 8 ≤ p.length → p.length ≤ 6680 →
    (pageCheckRight p = false ∨ readPage p = none → ∃ t, exec (.deliver p tail) s = .next t ∧
      t.flag .pageRejected = true ∧
      t.link.state = .working (.done 0x0F ([2, if pageCheckRight p then 2 else 1] ++ t.play.wantedBytes)) ∧
      t.desk.auto = s.desk.auto ∧ t.play.span = s.play.span ∧
      (s.play.wanted = none → t.play = s.play ∧ t.desk = s.desk.raise .pageRejected) ∧
      (∀ w, s.play.wanted = some w → w.strays < 3 →
        t.play = { s.play with wanted := some { w with strays := w.strays + 1 } } ∧
        t.desk = s.desk.raise .pageRejected) ∧
      t = { s with play := t.play, desk := t.desk, link := { s.link with state := t.link.state },
                   ldo := idleBits (8 * (5 + p.length) + tail) }) ∧
    (∀ y, pageCheckRight p = true → readPage p = some y → s.play.wanted.map (·.page) ≠ some y.number →
      ∃ t, exec (.deliver p tail) s = .next t ∧
        t.link.state = .working (.done 0x0F ([1, 0] ++ t.play.wantedBytes)) ∧
        t.desk.auto = s.desk.auto ∧ t.play.span = s.play.span ∧
        (s.play.wanted = none → t.play = s.play ∧ t.desk = s.desk) ∧
        (∀ w, s.play.wanted = some w → w.strays < 3 →
          t.play = { s.play with wanted := some { w with strays := w.strays + 1 } } ∧ t.desk = s.desk) ∧
        t = { s with play := t.play, desk := t.desk, link := { s.link with state := t.link.state },
                     ldo := idleBits (8 * (5 + p.length) + tail) }) ∧
    (∀ w, pageCheckRight p = false ∨ readPage p = none ∨ (∃ y, readPage p = some y ∧ w.page ≠ y.number) →
      s.play.wf → s.play.wanted = some w → w.strays = 3 →
      ∃ t, exec (.deliver p tail) s = .next t ∧ t.flag .pageMissing = true ∧ t.desk.auto = s.desk.auto ∧
        (∀ v, t.play.wanted = some v → v.page ≠ w.page ∧ v.strays = 0) ∧
        (w.page ∈ playWindow s.pos → s.play.inSpan w.page = true →
          ∃ i : Fin 4, s.play.slots[i] = .wanted w.page ∧ t.play.slots[i] = .missing w.page)) ∧
    (∀ (y : PlayPage) (i : Fin 4), pageCheckRight p = true → readPage p = some y →
      s.play.wanted.map (·.page) = some y.number → s.play.slots[i] = .wanted y.number →
      ∃ t, exec (.deliver p tail) s = .next t ∧
        t.link.state = .working (.done 0x0F ([0, 0] ++ t.play.wantedBytes)) ∧
        (y.number ∈ playWindow s.pos → s.play.inSpan y.number = true → t.play.slots[i] = .ready y) ∧
        (∀ v, t.play.wanted = some v → v.page ≠ y.number ∧ v.strays = 0) ∧
        t.play.span = s.play.span ∧ t.play.entered = s.play.entered ∧ t.desk.ev = s.desk.ev ∧
        t.desk.take = s.desk.take ∧
        ((∀ k, s.pos.tick = some k → k.toNat / 64 ≠ y.number.toNat) → t.desk = s.desk) ∧
        (∀ k, s.pos.tick = some k → k.toNat / 64 = y.number.toNat → y.number ∈ playWindow s.pos →
          s.play.inSpan y.number = true → s.play.wf → ∀ c x z, s.desk.control c = x → t.desk.control c = z →
          (s.env.live c = false → z = x) ∧
          (s.env.live c = true → z.playback = (y.valueAt (offsetOf k) c).getD x.playback ∧
            (x.mode = .read ∨ (x.mode = .touch ∨ x.mode = .latch) ∧ x.pass = .idle → z.applied = z.playback) ∧
            ((x.mode = .touch ∨ x.mode = .latch) ∧ (x.pass = .gliding ∨ x.pass = .holding) → z.applied = x.applied) ∧
            z = { x with playback := z.playback, applied := z.applied })) ∧
        t = { s with play := t.play, desk := t.desk, link := { s.link with state := t.link.state },
                     ldo := idleBits (8 * (5 + p.length) + tail) }))

/-- R163: TAKE is taken in every state of the part; it returns the CLOSED page that closed first, with the number that
remain, and frees its slot; with none it says so; an OPEN page is never returned and nothing else changes.
R158, R159: a move goes into the OPEN page of its tick at its place in the order, or opens the lowest FREE slot, an OPEN slot
of another page closing first; R161, R162: with no FREE slot its page is lost, in a full page it is dropped, and every open pass
is then DAMAGED. R160: leaving the page or closing the last pass closes the OPEN page.
R157: every step keeps that the closing order lists exactly the CLOSED slots, with at most one slot OPEN and 1 to 1024 moves in
a page. The whole transfer is one step (log 7). -/
def Obligations.TakePages : Prop :=
  (∀ (tail : Nat) (s : State), s.ready →
    (s.desk.take.order = [] → exec (.take tail) s = .next (s.taken 0 tail (.done 0x10 [0, 0]))) ∧
    (∀ (i : Fin 4) (rest : List (Fin 4)) (p : TakePage), s.desk.take.order = i :: rest →
      s.desk.take.slots[i] = .closed p →
      exec (.take tail) s = .next (State.taken 0 tail (.done 0x10
        ([BitVec.ofNat 8 rest.length, 1] ++ bytesOf 3 p.page.toNat ++ [if p.truncated then 1 else 0] ++
          bytesOf 2 p.moves.length ++ p.moves.flatMap moveBytes))
        { s with desk := { s.desk with take :=
          { s.desk.take with order := rest, slots := s.desk.take.slots.set i .free } } }))) ∧
  (∀ (m : Move) (l : List Move), l.Pairwise (fun a b => a.offset < b.offset ∨ a.offset = b.offset ∧ a.control < b.control) →
    (∀ a ∈ l, ¬ (a.offset = m.offset ∧ a.control = m.control)) →
    (insertMove m l).Pairwise (fun a b => a.offset < b.offset ∨ a.offset = b.offset ∧ a.control < b.control) ∧
      (insertMove m l).Perm (m :: l)) ∧
  (∀ (t : Take) (k : Tick) (c : Fin 176) (v : Value) (n : Page) (m : Move), t.wf → n = BitVec.ofNat 20 (k.toNat / 64) →
    m = { offset := BitVec.ofNat 6 (k.toNat % 64), control := c, value := v } →
    (t.lost = some n → t.accept k c v = (t, .overrun)) ∧
    (∀ (i : Fin 4) (p : TakePage), t.lost ≠ some n → t.slots[i] = .opened p → p.page = n →
      (p.moves.length < 1024 → t.accept k c v = ({ t with
        lost := none, slots := t.slots.set i (.opened { p with moves := insertMove m p.moves }) }, .kept)) ∧
      (1024 ≤ p.moves.length → t.accept k c v = ({ t with
        lost := none, slots := t.slots.set i (.opened { p with truncated := true }) }, .truncated))) ∧
    (∀ t1 : Take, t.lost ≠ some n → (∀ (i : Fin 4) (p : TakePage), t.slots[i] = .opened p → p.page ≠ n) →
      ((∀ (i : Fin 4) (p : TakePage), t.slots[i] ≠ .opened p) ∧ t1 = { t with lost := none } ∨
        ∃ (i : Fin 4) (p : TakePage), t.slots[i] = .opened p ∧
          t1 = { t with lost := none, order := t.order ++ [i], slots := t.slots.set i (.closed p) }) →
      (∀ j : Fin 4, t1.slots[j] = .free → (∀ x : Fin 4, x < j → t1.slots[x] ≠ .free) → t.accept k c v = ({ t1 with
        slots := t1.slots.set j (.opened { page := n, moves := [m], truncated := false }) }, .kept)) ∧
      ((∀ j : Fin 4, t1.slots[j] ≠ .free) → t.accept k c v = ({ t1 with lost := some n }, .overrun)))) ∧
  (∀ (d u : Desk) (c : Fin 176) (k : Tick) (x : Take) (r : MoveFate),
    d.take.accept k c (d.control c).applied = (x, r) → d.appendMove c k = u →
    u.take = x ∧ (r = .kept → u.ev = d.ev ∧ ∀ j, (u.control j).openPass = (d.control j).openPass) ∧
    (r ≠ .kept → (∀ j, (u.control j).openPass = (d.control j).openPass.map fun p => { p with damaged := true }) ∧
      (r = .overrun → u.flag .takeOverrun = true) ∧ (r = .truncated → u.flag .takeTruncated = true))) ∧
  (∀ (t : Take) (n : Page), t.wf →
    ((∀ (i : Fin 4) (p : TakePage), t.slots[i] ≠ .opened p) →
      (t.leavePage n).slots = t.slots ∧ (t.leavePage n).order = t.order ∧ t.lastPassClosed = { t with lost := none }) ∧
    (∀ (i : Fin 4) (p : TakePage), t.slots[i] = .opened p →
      t.lastPassClosed = { t with lost := none, order := t.order ++ [i], slots := t.slots.set i (.closed p) } ∧
      (p.page = n → (t.leavePage n).slots = t.slots ∧ (t.leavePage n).order = t.order) ∧
      (p.page ≠ n → (t.leavePage n).slots = t.slots.set i (.closed p) ∧ (t.leavePage n).order = t.order ++ [i])) ∧
    (t.leavePage n).lost = (if t.lost = some n then t.lost else none)) ∧
  (∀ s t : State, s.desk.take.wf → step s = .next t → t.desk.take.wf)

/-- R166: PASSES is taken in every state of the part; it returns the 8 oldest records, or all when there are fewer, oldest
first, with the number that remain, and removes them; nothing else changes.
The whole transfer is one step (log 7). -/
def Obligations.PassesResult : Prop :=
  ∀ (tail : Nat) (s : State), s.ready → exec (.passes tail) s = .next (State.taken 0 tail (.done 0x11
      (bytesOf 1 (s.desk.take.queue.length - 8) ++ bytesOf 1 (min 8 s.desk.take.queue.length) ++
        (s.desk.take.queue.take 8).flatMap PassRecord.bytes))
    { s with desk := { s.desk with take := { s.desk.take with queue := s.desk.take.queue.drop 8 } } })
end

