-- ==== Sys2Proof/Laws/State.lean ====
section
/-!
SUPPORT. One lemma for each field and each update of the state, so that no proof unfolds a record update.
-/

set_option Elab.async false

namespace Sys2Proof.Machine

/-! ## One entry of a table -/

@[simp] theorem Desk.setControl_note (c : Fin 176) (x : Control) (d : Desk) : (d.setControl c x).note = d.note := rfl
@[simp] theorem Desk.setControl_strip (c : Fin 176) (x : Control) (d : Desk) : (d.setControl c x).strip = d.strip := rfl
@[simp] theorem Desk.setControl_home (c : Fin 176) (x : Control) (d : Desk) : (d.setControl c x).home = d.home := rfl
@[simp] theorem Desk.setControl_touch (c : Fin 176) (x : Control) (d : Desk) : (d.setControl c x).touch = d.touch := rfl
@[simp] theorem Desk.setControl_take (c : Fin 176) (x : Control) (d : Desk) : (d.setControl c x).take = d.take := rfl
@[simp] theorem Desk.setControl_ev (c : Fin 176) (x : Control) (d : Desk) : (d.setControl c x).ev = d.ev := rfl
@[simp] theorem Desk.setStrip_note (n : Fin 32) (x : Strip) (d : Desk) : (d.setStrip n x).note = d.note := rfl
@[simp] theorem Desk.setStrip_home (n : Fin 32) (x : Strip) (d : Desk) : (d.setStrip n x).home = d.home := rfl
@[simp] theorem Desk.setStrip_touch (n : Fin 32) (x : Strip) (d : Desk) : (d.setStrip n x).touch = d.touch := rfl
@[simp] theorem Desk.setStrip_auto (n : Fin 32) (x : Strip) (d : Desk) : (d.setStrip n x).auto = d.auto := rfl
@[simp] theorem Desk.setStrip_take (n : Fin 32) (x : Strip) (d : Desk) : (d.setStrip n x).take = d.take := rfl
@[simp] theorem Desk.setStrip_ev (n : Fin 32) (x : Strip) (d : Desk) : (d.setStrip n x).ev = d.ev := rfl
@[simp] theorem Desk.setHome_note (b : Fin 24) (x : Home) (d : Desk) : (d.setHome b x).note = d.note := rfl
@[simp] theorem Desk.setHome_strip (b : Fin 24) (x : Home) (d : Desk) : (d.setHome b x).strip = d.strip := rfl
@[simp] theorem Desk.setHome_touch (b : Fin 24) (x : Home) (d : Desk) : (d.setHome b x).touch = d.touch := rfl
@[simp] theorem Desk.setHome_auto (b : Fin 24) (x : Home) (d : Desk) : (d.setHome b x).auto = d.auto := rfl
@[simp] theorem Desk.setHome_take (b : Fin 24) (x : Home) (d : Desk) : (d.setHome b x).take = d.take := rfl
@[simp] theorem Desk.setHome_ev (b : Fin 24) (x : Home) (d : Desk) : (d.setHome b x).ev = d.ev := rfl
@[simp] theorem Desk.setReq_note (b : Fin 24) (x : Requester) (d : Desk) : (d.setReq b x).note = d.note := rfl
@[simp] theorem Desk.setReq_strip (b : Fin 24) (x : Requester) (d : Desk) : (d.setReq b x).strip = d.strip := rfl
@[simp] theorem Desk.setReq_touch (b : Fin 24) (x : Requester) (d : Desk) : (d.setReq b x).touch = d.touch := rfl
@[simp] theorem Desk.setReq_auto (b : Fin 24) (x : Requester) (d : Desk) : (d.setReq b x).auto = d.auto := rfl
@[simp] theorem Desk.setReq_take (b : Fin 24) (x : Requester) (d : Desk) : (d.setReq b x).take = d.take := rfl
@[simp] theorem Desk.setReq_ev (b : Fin 24) (x : Requester) (d : Desk) : (d.setReq b x).ev = d.ev := rfl
@[simp] theorem Desk.setLine_note (f : Fin 32) (x : Line) (d : Desk) : (d.setLine f x).note = d.note := rfl
@[simp] theorem Desk.setLine_strip (f : Fin 32) (x : Line) (d : Desk) : (d.setLine f x).strip = d.strip := rfl
@[simp] theorem Desk.setLine_home (f : Fin 32) (x : Line) (d : Desk) : (d.setLine f x).home = d.home := rfl
@[simp] theorem Desk.setLine_auto (f : Fin 32) (x : Line) (d : Desk) : (d.setLine f x).auto = d.auto := rfl
@[simp] theorem Desk.setLine_take (f : Fin 32) (x : Line) (d : Desk) : (d.setLine f x).take = d.take := rfl
@[simp] theorem Desk.setLine_ev (f : Fin 32) (x : Line) (d : Desk) : (d.setLine f x).ev = d.ev := rfl
@[simp] theorem Desk.queue_strip (x : Slot) (k : NoticeKind) (p : BitVec 32) (d : Desk) : (d.queue x k p).strip = d.strip := rfl
@[simp] theorem Desk.queue_home (x : Slot) (k : NoticeKind) (p : BitVec 32) (d : Desk) : (d.queue x k p).home = d.home := rfl
@[simp] theorem Desk.queue_touch (x : Slot) (k : NoticeKind) (p : BitVec 32) (d : Desk) : (d.queue x k p).touch = d.touch := rfl
@[simp] theorem Desk.queue_auto (x : Slot) (k : NoticeKind) (p : BitVec 32) (d : Desk) : (d.queue x k p).auto = d.auto := rfl
@[simp] theorem Desk.queue_take (x : Slot) (k : NoticeKind) (p : BitVec 32) (d : Desk) : (d.queue x k p).take = d.take := rfl
@[simp] theorem Desk.queue_ev (x : Slot) (k : NoticeKind) (p : BitVec 32) (d : Desk) : (d.queue x k p).ev = d.ev := rfl
@[simp] theorem Desk.withdraw_strip (x : Slot) (d : Desk) : (d.withdraw x).strip = d.strip := rfl
@[simp] theorem Desk.withdraw_home (x : Slot) (d : Desk) : (d.withdraw x).home = d.home := rfl
@[simp] theorem Desk.withdraw_touch (x : Slot) (d : Desk) : (d.withdraw x).touch = d.touch := rfl
@[simp] theorem Desk.withdraw_auto (x : Slot) (d : Desk) : (d.withdraw x).auto = d.auto := rfl
@[simp] theorem Desk.withdraw_take (x : Slot) (d : Desk) : (d.withdraw x).take = d.take := rfl
@[simp] theorem Desk.withdraw_ev (x : Slot) (d : Desk) : (d.withdraw x).ev = d.ev := rfl
@[simp] theorem Desk.drive_note (m : FaderTarget) (v : Value) (d : Desk) : (d.drive m v).note = d.note := rfl
@[simp] theorem Desk.drive_strip (m : FaderTarget) (v : Value) (d : Desk) : (d.drive m v).strip = d.strip := rfl
@[simp] theorem Desk.drive_home (m : FaderTarget) (v : Value) (d : Desk) : (d.drive m v).home = d.home := rfl
@[simp] theorem Desk.drive_auto (m : FaderTarget) (v : Value) (d : Desk) : (d.drive m v).auto = d.auto := rfl
@[simp] theorem Desk.drive_take (m : FaderTarget) (v : Value) (d : Desk) : (d.drive m v).take = d.take := rfl
@[simp] theorem Desk.drive_ev (m : FaderTarget) (v : Value) (d : Desk) : (d.drive m v).ev = d.ev := rfl
@[simp] theorem Desk.raise_note (f : Flag) (d : Desk) : (d.raise f).note = d.note := rfl
@[simp] theorem Desk.raise_strip (f : Flag) (d : Desk) : (d.raise f).strip = d.strip := rfl
@[simp] theorem Desk.raise_home (f : Flag) (d : Desk) : (d.raise f).home = d.home := rfl
@[simp] theorem Desk.raise_touch (f : Flag) (d : Desk) : (d.raise f).touch = d.touch := rfl
@[simp] theorem Desk.raise_auto (f : Flag) (d : Desk) : (d.raise f).auto = d.auto := rfl
@[simp] theorem Desk.raise_take (f : Flag) (d : Desk) : (d.raise f).take = d.take := rfl
@[simp] theorem Desk.completeJoin_note (r : JoinResult) (d : Desk) : (d.completeJoin r).note = d.note := rfl
@[simp] theorem Desk.completeJoin_strip (r : JoinResult) (d : Desk) : (d.completeJoin r).strip = d.strip := rfl
@[simp] theorem Desk.completeJoin_home (r : JoinResult) (d : Desk) : (d.completeJoin r).home = d.home := rfl
@[simp] theorem Desk.completeJoin_touch (r : JoinResult) (d : Desk) : (d.completeJoin r).touch = d.touch := rfl
@[simp] theorem Desk.completeJoin_auto (r : JoinResult) (d : Desk) : (d.completeJoin r).auto = d.auto := rfl
@[simp] theorem Desk.completeJoin_take (r : JoinResult) (d : Desk) : (d.completeJoin r).take = d.take := rfl
@[simp] theorem Desk.completeAbort_note (r : AbortResult) (d : Desk) : (d.completeAbort r).note = d.note := rfl
@[simp] theorem Desk.completeAbort_strip (r : AbortResult) (d : Desk) : (d.completeAbort r).strip = d.strip := rfl
@[simp] theorem Desk.completeAbort_home (r : AbortResult) (d : Desk) : (d.completeAbort r).home = d.home := rfl
@[simp] theorem Desk.completeAbort_touch (r : AbortResult) (d : Desk) : (d.completeAbort r).touch = d.touch := rfl
@[simp] theorem Desk.completeAbort_auto (r : AbortResult) (d : Desk) : (d.completeAbort r).auto = d.auto := rfl
@[simp] theorem Desk.completeAbort_take (r : AbortResult) (d : Desk) : (d.completeAbort r).take = d.take := rfl

/-! ## What an update leaves of its own table -/

@[simp] theorem Desk.setControl_window (c : Fin 176) (x : Control) (d : Desk) : (d.setControl c x).auto.window = d.auto.window := rfl
@[simp] theorem Desk.setControl_pendingAbort (c : Fin 176) (x : Control) (d : Desk) : (d.setControl c x).auto.pendingAbort = d.auto.pendingAbort := rfl
@[simp] theorem Desk.setControl_nextSerial (c : Fin 176) (x : Control) (d : Desk) : (d.setControl c x).auto.nextSerial = d.auto.nextSerial := rfl
@[simp] theorem Desk.setControl_openCount (c : Fin 176) (x : Control) (d : Desk) : (d.setControl c x).auto.openCount = d.auto.openCount := rfl
@[simp] theorem Desk.setStrip_ownBits (n : Fin 32) (x : Strip) (d : Desk) : (d.setStrip n x).strip.ownBits = d.strip.ownBits := rfl
@[simp] theorem Desk.setStrip_zones (n : Fin 32) (x : Strip) (d : Desk) : (d.setStrip n x).strip.zones = d.strip.zones := rfl
@[simp] theorem Desk.setHome_reqs (b : Fin 24) (x : Home) (d : Desk) : (d.setHome b x).home.reqs = d.home.reqs := rfl
@[simp] theorem Desk.setHome_rise (b : Fin 24) (x : Home) (d : Desk) : (d.setHome b x).home.rise = d.home.rise := rfl
@[simp] theorem Desk.setReq_homes (b : Fin 24) (x : Requester) (d : Desk) : (d.setReq b x).home.homes = d.home.homes := rfl
@[simp] theorem Desk.setReq_rise (b : Fin 24) (x : Requester) (d : Desk) : (d.setReq b x).home.rise = d.home.rise := rfl
@[simp] theorem Desk.setLine_map (f : Fin 32) (x : Line) (d : Desk) : (d.setLine f x).touch.map = d.touch.map := rfl
@[simp] theorem Desk.setLine_controls (f : Fin 32) (x : Line) (d : Desk) : (d.setLine f x).touch.controls = d.touch.controls := rfl
@[simp] theorem Desk.setLine_buses (f : Fin 32) (x : Line) (d : Desk) : (d.setLine f x).touch.buses = d.touch.buses := rfl
@[simp] theorem Desk.setLine_drives (f : Fin 32) (x : Line) (d : Desk) : (d.setLine f x).touch.drives = d.touch.drives := rfl
@[simp] theorem Desk.drive_lines (m : FaderTarget) (v : Value) (d : Desk) : (d.drive m v).touch.lines = d.touch.lines := rfl
@[simp] theorem Desk.drive_map (m : FaderTarget) (v : Value) (d : Desk) : (d.drive m v).touch.map = d.touch.map := rfl
@[simp] theorem Desk.drive_controls (m : FaderTarget) (v : Value) (d : Desk) : (d.drive m v).touch.controls = d.touch.controls := rfl
@[simp] theorem Desk.drive_buses (m : FaderTarget) (v : Value) (d : Desk) : (d.drive m v).touch.buses = d.touch.buses := rfl
@[simp] theorem Note.queue_flight (x : Slot) (k : NoticeKind) (p : BitVec 32) (n : Note) : (n.queue x k p).flight = n.flight := by
  unfold Note.queue
  split <;> rfl
@[simp] theorem Note.withdraw_flight (x : Slot) (n : Note) : (n.withdraw x).flight = n.flight := rfl
@[simp] theorem Note.queue_timer (x : Slot) (k : NoticeKind) (p : BitVec 32) (n : Note) : (n.queue x k p).timer = n.timer := by
  unfold Note.queue
  split <;> rfl
@[simp] theorem Note.withdraw_timer (x : Slot) (n : Note) : (n.withdraw x).timer = n.timer := rfl
@[simp] theorem Note.queue_ages (x : Slot) (k : NoticeKind) (p : BitVec 32) (n : Note) : (n.queue x k p).ages = n.ages := by
  unfold Note.queue
  split <;> rfl
@[simp] theorem Note.withdraw_ages (x : Slot) (n : Note) : (n.withdraw x).ages = n.ages := rfl
@[simp] theorem Desk.raise_join (g : Flag) (d : Desk) : (d.raise g).ev.join = d.ev.join := rfl
@[simp] theorem Desk.raise_abort (g : Flag) (d : Desk) : (d.raise g).ev.abort = d.ev.abort := rfl

/-! ## Reading an entry back -/

@[simp] theorem Desk.control_setControl (i j : Fin 176) (x : Control) (d : Desk) :
    (d.setControl i x).control j = if j = i then x else d.control j := by
  unfold Desk.control Desk.setControl
  by_cases h : j = i
  · subst h; simp
  · have : i.val ≠ j.val := fun e => h (Fin.ext e.symm)
    simp [h, Vector.getElem_set_ne, this]
@[simp] theorem Desk.stripOf_setStrip (i j : Fin 32) (x : Strip) (d : Desk) :
    (d.setStrip i x).stripOf j = if j = i then x else d.stripOf j := by
  unfold Desk.stripOf Desk.setStrip
  by_cases h : j = i
  · subst h; simp
  · have : i.val ≠ j.val := fun e => h (Fin.ext e.symm)
    simp [h, Vector.getElem_set_ne, this]
@[simp] theorem Desk.homeOf_setHome (i j : Fin 24) (x : Home) (d : Desk) :
    (d.setHome i x).homeOf j = if j = i then x else d.homeOf j := by
  unfold Desk.homeOf Desk.setHome
  by_cases h : j = i
  · subst h; simp
  · have : i.val ≠ j.val := fun e => h (Fin.ext e.symm)
    simp [h, Vector.getElem_set_ne, this]
@[simp] theorem Desk.reqOf_setReq (i j : Fin 24) (x : Requester) (d : Desk) :
    (d.setReq i x).reqOf j = if j = i then x else d.reqOf j := by
  unfold Desk.reqOf Desk.setReq
  by_cases h : j = i
  · subst h; simp
  · have : i.val ≠ j.val := fun e => h (Fin.ext e.symm)
    simp [h, Vector.getElem_set_ne, this]
@[simp] theorem Desk.lineOf_setLine (i j : Fin 32) (x : Line) (d : Desk) :
    (d.setLine i x).lineOf j = if j = i then x else d.lineOf j := by
  unfold Desk.lineOf Desk.setLine
  by_cases h : j = i
  · subst h; simp
  · have : i.val ≠ j.val := fun e => h (Fin.ext e.symm)
    simp [h, Vector.getElem_set_ne, this]
@[simp] theorem Desk.stripOf_setControl (i : Fin 176) (j : Fin 32) (x : Control) (d : Desk) : (d.setControl i x).stripOf j = d.stripOf j := rfl
@[simp] theorem Desk.homeOf_setControl (i : Fin 176) (j : Fin 24) (x : Control) (d : Desk) : (d.setControl i x).homeOf j = d.homeOf j := rfl
@[simp] theorem Desk.reqOf_setControl (i : Fin 176) (j : Fin 24) (x : Control) (d : Desk) : (d.setControl i x).reqOf j = d.reqOf j := rfl
@[simp] theorem Desk.lineOf_setControl (i : Fin 176) (j : Fin 32) (x : Control) (d : Desk) : (d.setControl i x).lineOf j = d.lineOf j := rfl
@[simp] theorem Desk.control_setStrip (i : Fin 32) (j : Fin 176) (x : Strip) (d : Desk) : (d.setStrip i x).control j = d.control j := rfl
@[simp] theorem Desk.homeOf_setStrip (i : Fin 32) (j : Fin 24) (x : Strip) (d : Desk) : (d.setStrip i x).homeOf j = d.homeOf j := rfl
@[simp] theorem Desk.reqOf_setStrip (i : Fin 32) (j : Fin 24) (x : Strip) (d : Desk) : (d.setStrip i x).reqOf j = d.reqOf j := rfl
@[simp] theorem Desk.lineOf_setStrip (i : Fin 32) (j : Fin 32) (x : Strip) (d : Desk) : (d.setStrip i x).lineOf j = d.lineOf j := rfl
@[simp] theorem Desk.control_setHome (i : Fin 24) (j : Fin 176) (x : Home) (d : Desk) : (d.setHome i x).control j = d.control j := rfl
@[simp] theorem Desk.stripOf_setHome (i : Fin 24) (j : Fin 32) (x : Home) (d : Desk) : (d.setHome i x).stripOf j = d.stripOf j := rfl
@[simp] theorem Desk.reqOf_setHome (i : Fin 24) (j : Fin 24) (x : Home) (d : Desk) : (d.setHome i x).reqOf j = d.reqOf j := rfl
@[simp] theorem Desk.lineOf_setHome (i : Fin 24) (j : Fin 32) (x : Home) (d : Desk) : (d.setHome i x).lineOf j = d.lineOf j := rfl
@[simp] theorem Desk.control_setReq (i : Fin 24) (j : Fin 176) (x : Requester) (d : Desk) : (d.setReq i x).control j = d.control j := rfl
@[simp] theorem Desk.stripOf_setReq (i : Fin 24) (j : Fin 32) (x : Requester) (d : Desk) : (d.setReq i x).stripOf j = d.stripOf j := rfl
@[simp] theorem Desk.homeOf_setReq (i : Fin 24) (j : Fin 24) (x : Requester) (d : Desk) : (d.setReq i x).homeOf j = d.homeOf j := rfl
@[simp] theorem Desk.lineOf_setReq (i : Fin 24) (j : Fin 32) (x : Requester) (d : Desk) : (d.setReq i x).lineOf j = d.lineOf j := rfl
@[simp] theorem Desk.control_setLine (i : Fin 32) (j : Fin 176) (x : Line) (d : Desk) : (d.setLine i x).control j = d.control j := rfl
@[simp] theorem Desk.stripOf_setLine (i : Fin 32) (j : Fin 32) (x : Line) (d : Desk) : (d.setLine i x).stripOf j = d.stripOf j := rfl
@[simp] theorem Desk.homeOf_setLine (i : Fin 32) (j : Fin 24) (x : Line) (d : Desk) : (d.setLine i x).homeOf j = d.homeOf j := rfl
@[simp] theorem Desk.reqOf_setLine (i : Fin 32) (j : Fin 24) (x : Line) (d : Desk) : (d.setLine i x).reqOf j = d.reqOf j := rfl
@[simp] theorem Desk.control_queue (c : Fin 176) (x : Slot) (k : NoticeKind) (p : BitVec 32) (d : Desk) : (d.queue x k p).control c = d.control c := rfl
@[simp] theorem Desk.stripOf_queue (n : Fin 32) (x : Slot) (k : NoticeKind) (p : BitVec 32) (d : Desk) : (d.queue x k p).stripOf n = d.stripOf n := rfl
@[simp] theorem Desk.homeOf_queue (b : Fin 24) (x : Slot) (k : NoticeKind) (p : BitVec 32) (d : Desk) : (d.queue x k p).homeOf b = d.homeOf b := rfl
@[simp] theorem Desk.reqOf_queue (b : Fin 24) (x : Slot) (k : NoticeKind) (p : BitVec 32) (d : Desk) : (d.queue x k p).reqOf b = d.reqOf b := rfl
@[simp] theorem Desk.lineOf_queue (l : Fin 32) (x : Slot) (k : NoticeKind) (p : BitVec 32) (d : Desk) : (d.queue x k p).lineOf l = d.lineOf l := rfl
@[simp] theorem Desk.control_withdraw (c : Fin 176) (x : Slot) (d : Desk) : (d.withdraw x).control c = d.control c := rfl
@[simp] theorem Desk.stripOf_withdraw (n : Fin 32) (x : Slot) (d : Desk) : (d.withdraw x).stripOf n = d.stripOf n := rfl
@[simp] theorem Desk.homeOf_withdraw (b : Fin 24) (x : Slot) (d : Desk) : (d.withdraw x).homeOf b = d.homeOf b := rfl
@[simp] theorem Desk.reqOf_withdraw (b : Fin 24) (x : Slot) (d : Desk) : (d.withdraw x).reqOf b = d.reqOf b := rfl
@[simp] theorem Desk.lineOf_withdraw (l : Fin 32) (x : Slot) (d : Desk) : (d.withdraw x).lineOf l = d.lineOf l := rfl
@[simp] theorem Desk.control_drive (c : Fin 176) (m : FaderTarget) (v : Value) (d : Desk) : (d.drive m v).control c = d.control c := rfl
@[simp] theorem Desk.stripOf_drive (n : Fin 32) (m : FaderTarget) (v : Value) (d : Desk) : (d.drive m v).stripOf n = d.stripOf n := rfl
@[simp] theorem Desk.homeOf_drive (b : Fin 24) (m : FaderTarget) (v : Value) (d : Desk) : (d.drive m v).homeOf b = d.homeOf b := rfl
@[simp] theorem Desk.reqOf_drive (b : Fin 24) (m : FaderTarget) (v : Value) (d : Desk) : (d.drive m v).reqOf b = d.reqOf b := rfl
@[simp] theorem Desk.lineOf_drive (l : Fin 32) (m : FaderTarget) (v : Value) (d : Desk) : (d.drive m v).lineOf l = d.lineOf l := rfl
@[simp] theorem Desk.control_raise (c : Fin 176) (f : Flag) (d : Desk) : (d.raise f).control c = d.control c := rfl
@[simp] theorem Desk.stripOf_raise (n : Fin 32) (f : Flag) (d : Desk) : (d.raise f).stripOf n = d.stripOf n := rfl
@[simp] theorem Desk.homeOf_raise (b : Fin 24) (f : Flag) (d : Desk) : (d.raise f).homeOf b = d.homeOf b := rfl
@[simp] theorem Desk.reqOf_raise (b : Fin 24) (f : Flag) (d : Desk) : (d.raise f).reqOf b = d.reqOf b := rfl
@[simp] theorem Desk.lineOf_raise (l : Fin 32) (f : Flag) (d : Desk) : (d.raise f).lineOf l = d.lineOf l := rfl
@[simp] theorem Desk.control_completeJoin (c : Fin 176) (r : JoinResult) (d : Desk) : (d.completeJoin r).control c = d.control c := rfl
@[simp] theorem Desk.stripOf_completeJoin (n : Fin 32) (r : JoinResult) (d : Desk) : (d.completeJoin r).stripOf n = d.stripOf n := rfl
@[simp] theorem Desk.homeOf_completeJoin (b : Fin 24) (r : JoinResult) (d : Desk) : (d.completeJoin r).homeOf b = d.homeOf b := rfl
@[simp] theorem Desk.reqOf_completeJoin (b : Fin 24) (r : JoinResult) (d : Desk) : (d.completeJoin r).reqOf b = d.reqOf b := rfl
@[simp] theorem Desk.lineOf_completeJoin (l : Fin 32) (r : JoinResult) (d : Desk) : (d.completeJoin r).lineOf l = d.lineOf l := rfl
@[simp] theorem Desk.control_completeAbort (c : Fin 176) (r : AbortResult) (d : Desk) : (d.completeAbort r).control c = d.control c := rfl
@[simp] theorem Desk.stripOf_completeAbort (n : Fin 32) (r : AbortResult) (d : Desk) : (d.completeAbort r).stripOf n = d.stripOf n := rfl
@[simp] theorem Desk.homeOf_completeAbort (b : Fin 24) (r : AbortResult) (d : Desk) : (d.completeAbort r).homeOf b = d.homeOf b := rfl
@[simp] theorem Desk.reqOf_completeAbort (b : Fin 24) (r : AbortResult) (d : Desk) : (d.completeAbort r).reqOf b = d.reqOf b := rfl
@[simp] theorem Desk.lineOf_completeAbort (l : Fin 32) (r : AbortResult) (d : Desk) : (d.completeAbort r).lineOf l = d.lineOf l := rfl

/-! ## Flags -/

/-- R176: raising a flag sets it and leaves every other flag as it was. -/
@[simp] theorem Desk.flag_raise (f g : Flag) (d : Desk) : (d.raise f).flag g = (d.flag g || decide (f = g)) := by
  unfold Desk.flag Desk.raise Events.raise
  cases f <;> cases g <;> simp [Flag.number]

@[simp] theorem Desk.flag_setControl (g : Flag) (c : Fin 176) (x : Control) (d : Desk) : (d.setControl c x).flag g = d.flag g := rfl
@[simp] theorem Desk.flag_setStrip (g : Flag) (n : Fin 32) (x : Strip) (d : Desk) : (d.setStrip n x).flag g = d.flag g := rfl
@[simp] theorem Desk.flag_setHome (g : Flag) (b : Fin 24) (x : Home) (d : Desk) : (d.setHome b x).flag g = d.flag g := rfl
@[simp] theorem Desk.flag_setReq (g : Flag) (b : Fin 24) (x : Requester) (d : Desk) : (d.setReq b x).flag g = d.flag g := rfl
@[simp] theorem Desk.flag_setLine (g : Flag) (l : Fin 32) (x : Line) (d : Desk) : (d.setLine l x).flag g = d.flag g := rfl
@[simp] theorem Desk.flag_queue (g : Flag) (x : Slot) (k : NoticeKind) (p : BitVec 32) (d : Desk) : (d.queue x k p).flag g = d.flag g := rfl
@[simp] theorem Desk.flag_withdraw (g : Flag) (x : Slot) (d : Desk) : (d.withdraw x).flag g = d.flag g := rfl
@[simp] theorem Desk.flag_drive (g : Flag) (m : FaderTarget) (v : Value) (d : Desk) : (d.drive m v).flag g = d.flag g := rfl
@[simp] theorem Desk.flag_completeJoin (g : Flag) (r : JoinResult) (d : Desk) : (d.completeJoin r).flag g = d.flag g := rfl
@[simp] theorem Desk.flag_completeAbort (g : Flag) (r : AbortResult) (d : Desk) : (d.completeAbort r).flag g = d.flag g := rfl

/-! ## Every factor at once (R73, R74) -/

@[simp] theorem Desk.fixLengths_note (L : Nat) (d : Desk) : (d.fixLengths L).note = d.note := rfl
@[simp] theorem Desk.fixLengths_touch (L : Nat) (d : Desk) : (d.fixLengths L).touch = d.touch := rfl
@[simp] theorem Desk.fixLengths_auto (L : Nat) (d : Desk) : (d.fixLengths L).auto = d.auto := rfl
@[simp] theorem Desk.fixLengths_take (L : Nat) (d : Desk) : (d.fixLengths L).take = d.take := rfl
@[simp] theorem Desk.fixLengths_ev (L : Nat) (d : Desk) : (d.fixLengths L).ev = d.ev := rfl
@[simp] theorem Desk.control_fixLengths (L : Nat) (c : Fin 176) (d : Desk) : (d.fixLengths L).control c = d.control c := rfl
@[simp] theorem Desk.reqOf_fixLengths (L : Nat) (b : Fin 24) (d : Desk) : (d.fixLengths L).reqOf b = d.reqOf b := rfl
@[simp] theorem Desk.lineOf_fixLengths (L : Nat) (f : Fin 32) (d : Desk) : (d.fixLengths L).lineOf f = d.lineOf f := rfl
@[simp] theorem Desk.flag_fixLengths (L : Nat) (g : Flag) (d : Desk) : (d.fixLengths L).flag g = d.flag g := rfl

@[simp] theorem Desk.stripOf_fixLengths (L : Nat) (n : Fin 32) (d : Desk) :
    (d.fixLengths L).stripOf n = (d.stripOf n).fixLengths L := by simp [Desk.stripOf, Desk.fixLengths]

@[simp] theorem Desk.homeOf_fixLengths (L : Nat) (b : Fin 24) (d : Desk) :
    (d.fixLengths L).homeOf b = (d.homeOf b).fixLengths L := by simp [Desk.homeOf, Desk.fixLengths]

/-- Every factor has its length fixed, whatever its name. -/
@[simp] theorem Desk.factor_fixLengths (L : Nat) (r : FactorName) (d : Desk) :
    (d.fixLengths L).factor r = (d.factor r).fix L := by
  cases r <;> simp [Desk.factor, Strip.fixLengths, Home.fixLengths]

@[simp] theorem Factor.fix_value (L : Nat) (f : Factor) : (f.fix L).value = f.value := by unfold Factor.fix; split <;> rfl
@[simp] theorem Factor.fix_target (L : Nat) (f : Factor) : (f.fix L).target = f.target := by unfold Factor.fix; split <;> rfl

@[simp] theorem Desk.advanceAll_note (L : Nat) (d : Desk) : (d.advanceAll L).note = d.note := rfl
@[simp] theorem Desk.advanceAll_touch (L : Nat) (d : Desk) : (d.advanceAll L).touch = d.touch := rfl
@[simp] theorem Desk.advanceAll_auto (L : Nat) (d : Desk) : (d.advanceAll L).auto = d.auto := rfl
@[simp] theorem Desk.advanceAll_take (L : Nat) (d : Desk) : (d.advanceAll L).take = d.take := rfl
@[simp] theorem Desk.advanceAll_ev (L : Nat) (d : Desk) : (d.advanceAll L).ev = d.ev := rfl

@[simp] theorem Desk.stripOf_advanceAll (L : Nat) (n : Fin 32) (d : Desk) :
    (d.advanceAll L).stripOf n = (d.stripOf n).advance L := by simp [Desk.stripOf, Desk.advanceAll]

@[simp] theorem Desk.homeOf_advanceAll (L : Nat) (b : Fin 24) (d : Desk) :
    (d.advanceAll L).homeOf b = (d.homeOf b).advance L := by simp [Desk.homeOf, Desk.advanceAll]

/-- Every factor moves by one sample event, whatever its name. -/
@[simp] theorem Desk.factor_advanceAll (L : Nat) (r : FactorName) (d : Desk) :
    (d.advanceAll L).factor r = (d.factor r).advance L := by
  cases r <;> simp [Desk.factor, Strip.advance, Home.advance]

/-! ## The desk inside the state -/

@[simp] theorem State.onDesk_resetLow (f : Env → Desk → Desk) (s : State) : (s.onDesk f).resetLow = s.resetLow := rfl
@[simp] theorem State.raise_resetLow (f : Flag) (s : State) : (s.raise f).resetLow = s.resetLow := rfl
@[simp] theorem State.onDesk_clock (f : Env → Desk → Desk) (s : State) : (s.onDesk f).clock = s.clock := rfl
@[simp] theorem State.raise_clock (f : Flag) (s : State) : (s.raise f).clock = s.clock := rfl
@[simp] theorem State.onDesk_strap (f : Env → Desk → Desk) (s : State) : (s.onDesk f).strap = s.strap := rfl
@[simp] theorem State.raise_strap (f : Flag) (s : State) : (s.raise f).strap = s.strap := rfl
@[simp] theorem State.onDesk_rate96 (f : Env → Desk → Desk) (s : State) : (s.onDesk f).rate96 = s.rate96 := rfl
@[simp] theorem State.raise_rate96 (f : Flag) (s : State) : (s.raise f).rate96 = s.rate96 := rfl
@[simp] theorem State.onDesk_conf (f : Env → Desk → Desk) (s : State) : (s.onDesk f).conf = s.conf := rfl
@[simp] theorem State.raise_conf (f : Flag) (s : State) : (s.raise f).conf = s.conf := rfl
@[simp] theorem State.onDesk_pos (f : Env → Desk → Desk) (s : State) : (s.onDesk f).pos = s.pos := rfl
@[simp] theorem State.raise_pos (f : Flag) (s : State) : (s.raise f).pos = s.pos := rfl
@[simp] theorem State.onDesk_ring (f : Env → Desk → Desk) (s : State) : (s.onDesk f).ring = s.ring := rfl
@[simp] theorem State.raise_ring (f : Flag) (s : State) : (s.raise f).ring = s.ring := rfl
@[simp] theorem State.onDesk_play (f : Env → Desk → Desk) (s : State) : (s.onDesk f).play = s.play := rfl
@[simp] theorem State.raise_play (f : Flag) (s : State) : (s.raise f).play = s.play := rfl
@[simp] theorem State.onDesk_link (f : Env → Desk → Desk) (s : State) : (s.onDesk f).link = s.link := rfl
@[simp] theorem State.raise_link (f : Flag) (s : State) : (s.raise f).link = s.link := rfl
@[simp] theorem State.onDesk_instant (f : Env → Desk → Desk) (s : State) : (s.onDesk f).instant = s.instant := rfl
@[simp] theorem State.raise_instant (f : Flag) (s : State) : (s.raise f).instant = s.instant := rfl
@[simp] theorem State.onDesk_stem (f : Env → Desk → Desk) (s : State) : (s.onDesk f).stem = s.stem := rfl
@[simp] theorem State.raise_stem (f : Flag) (s : State) : (s.raise f).stem = s.stem := rfl
@[simp] theorem State.onDesk_emitted (f : Env → Desk → Desk) (s : State) : (s.onDesk f).emitted = s.emitted := rfl
@[simp] theorem State.raise_emitted (f : Flag) (s : State) : (s.raise f).emitted = s.emitted := rfl
@[simp] theorem State.onDesk_ldo (f : Env → Desk → Desk) (s : State) : (s.onDesk f).ldo = s.ldo := rfl
@[simp] theorem State.raise_ldo (f : Flag) (s : State) : (s.raise f).ldo = s.ldo := rfl
@[simp] theorem State.onDesk_free (f : Env → Desk → Desk) (s : State) : (s.onDesk f).free = s.free := rfl
@[simp] theorem State.raise_free (f : Flag) (s : State) : (s.raise f).free = s.free := rfl
@[simp] theorem State.onDesk_pending (f : Env → Desk → Desk) (s : State) : (s.onDesk f).pending = s.pending := rfl
@[simp] theorem State.raise_pending (f : Flag) (s : State) : (s.raise f).pending = s.pending := rfl
@[simp] theorem State.onDesk_desk (f : Env → Desk → Desk) (s : State) : (s.onDesk f).desk = f s.env s.desk := rfl
@[simp] theorem State.raise_desk (f : Flag) (s : State) : (s.raise f).desk = s.desk.raise f := rfl

end Sys2Proof.Machine
end

