-- ==== Sys2Proof/Laws/Note.lean ====
section
/-!
SUPPORT. What Queue, Withdraw and Close do to the other slots' entries.
-/

set_option Elab.async false

namespace Sys2Proof.Machine

/-- R50: Queue leaves every other slot's waiting entry. -/
theorem Note.waiting?_queue_of_ne {x y : Slot} (h : y ≠ x) (k : NoticeKind) (p : BitVec 32) (n : Note) :
    (n.queue x k p).waiting? y = n.waiting? y := by
  unfold Note.queue Note.waiting?
  split
  · simp only [List.find?_map]
    have key : ∀ w : Waiting, (if w.slot = x then ({ slot := x, kind := k, payload := p } : Waiting) else w).slot
        = w.slot := by
      intro w; split <;> simp_all
    have : ((fun w : Waiting => w.slot == y) ∘
        fun w => if w.slot = x then ({ slot := x, kind := k, payload := p } : Waiting) else w)
        = fun w => w.slot == y := by
      funext w; simp only [Function.comp, key]
    rw [this]
    rcases hf : List.find? (fun w : Waiting => w.slot == y) n.pending with _ | w
    · rfl
    · have hw := List.find?_some hf
      have : w.slot = y := by simpa using hw
      have hne : w.slot ≠ x := this ▸ h
      simp [hne]
  · simp only [List.find?_append]
    have : (x == y) = false := by simpa using fun e => h e.symm
    simp [List.find?, this]

/-- R50: Withdraw leaves every other slot's waiting entry. -/
theorem Note.waiting?_withdraw_of_ne {x y : Slot} (h : y ≠ x) (n : Note) :
    (n.withdraw x).waiting? y = n.waiting? y := by
  unfold Note.withdraw Note.waiting?
  rw [List.find?_filter]
  congr 1
  funext w
  by_cases hw : w.slot = y
  · subst hw; simp [h]
  · simp [hw]

/-- R50: after Queue the slot has exactly the entry queued. -/
@[simp] theorem Note.waiting?_queue_self (x : Slot) (k : NoticeKind) (p : BitVec 32) (n : Note) :
    (n.queue x k p).waiting? x = some { slot := x, kind := k, payload := p } := by
  unfold Note.queue
  split
  · next h =>
    unfold Note.waiting? at h ⊢
    simp only [List.find?_map]
    have key : ∀ w : Waiting, (if w.slot = x then ({ slot := x, kind := k, payload := p } : Waiting) else w).slot
        = w.slot := by
      intro w; split <;> simp_all
    have : ((fun w : Waiting => w.slot == x) ∘
        fun w => if w.slot = x then ({ slot := x, kind := k, payload := p } : Waiting) else w)
        = fun w => w.slot == x := by
      funext w; simp only [Function.comp, key]
    rw [this]
    obtain ⟨w, hw⟩ := Option.isSome_iff_exists.mp h
    have hs : w.slot = x := by simpa using List.find?_some hw
    simp [hw, hs]
  · next h =>
    unfold Note.waiting? at h ⊢
    simp only [List.find?_append]
    simp [Option.not_isSome_iff_eq_none.mp h]

/-- R50: after Withdraw the slot has no waiting entry. -/
@[simp] theorem Note.waiting?_withdraw_self (x : Slot) (n : Note) : (n.withdraw x).waiting? x = none := by
  unfold Note.withdraw Note.waiting?
  rw [List.find?_filter, List.find?_eq_none]
  intro w _
  simp

@[simp] theorem Desk.note_queue (x : Slot) (k : NoticeKind) (p : BitVec 32) (d : Desk) :
    (d.queue x k p).note = d.note.queue x k p := rfl

@[simp] theorem Desk.note_withdraw (x : Slot) (d : Desk) : (d.withdraw x).note = d.note.withdraw x := rfl

/-- R53: closing a slot leaves every other slot's entry in flight. -/
theorem Note.flight?_close_of_ne {x y : Slot} (h : y ≠ x) (n : Note) : (n.close x).flight? y = n.flight? y := by
  unfold Note.close Note.flight?
  rw [List.find?_filter]
  congr 1
  funext w
  by_cases hw : w.slot = y
  · subst hw; simp [h]
  · simp [hw]

/-- R53: a closed slot has no entry in flight. -/
@[simp] theorem Note.flight?_close_self (x : Slot) (n : Note) : (n.close x).flight? x = none := by
  unfold Note.close Note.flight?
  rw [List.find?_filter, List.find?_eq_none]
  intro w _
  simp

/-- An entry found for a slot is one of that slot. -/
theorem Note.slot_of_flight? {x : Slot} {n : Note} {f : Flight} (h : n.flight? x = some f) : f.slot = x := by
  have := List.find?_some h
  simpa using this

theorem Note.slot_of_waiting? {x : Slot} {n : Note} {w : Waiting} (h : n.waiting? x = some w) : w.slot = x := by
  have := List.find?_some h
  simpa using this

end Sys2Proof.Machine
end

