-- ==== Sys2Proof/Laws/Controls.lean ====
section
/-!
SUPPORT. Everything an operation of AUTO can do to the desk, said once: `AutoFrame` names what no operation of AUTO
touches, and each operation keeps it.
-/

set_option Elab.async false

namespace Sys2Proof.Machine

/-- The flags that POS raises, and no other block (R11, R14). -/
def Flag.ofPos : Flag → Bool
  | .refLost | .clockLost | .jump | .roll | .stop | .reverse | .framing => true
  | _ => false

/-- Flags set stay set, and POS's own flags stay as they are. -/
structure Desk.FlagFrame (d d' : Desk) : Prop where
  stay  : ∀ g, d.flag g = true → d'.flag g = true
  quiet : ∀ g, g.ofPos = true → d'.flag g = d.flag g

namespace Desk.FlagFrame

/-- The flags are as they were. -/
theorem of_ev {d d' : Desk} (h : d'.ev.flags = d.ev.flags := by rfl) : FlagFrame d d' := by
  have e : ∀ g, d'.flag g = d.flag g := fun g => by unfold Desk.flag; rw [h]
  exact ⟨fun g k => (e g).trans k, fun g _ => e g⟩

theorem andThen {a b c : Desk} (h : FlagFrame a b) (k : FlagFrame b c) : FlagFrame a c :=
  ⟨fun g x => k.stay g (h.stay g x), fun g x => (k.quiet g x).trans (h.quiet g x)⟩

/-- A flag of another block is raised. -/
theorem raise (f : Flag) (d : Desk) (h : f.ofPos = false := by rfl) : FlagFrame d (d.raise f) := by
  refine ⟨fun g x => by simp [x], fun g x => ?_⟩
  have ne : f ≠ g := fun e => by rw [e, x] at h; cases h
  simp [ne]

/-- A frame that every single action keeps, a run through a list keeps. -/
theorem each {α : Type} (l : List α) (f : α → Desk → Desk) (h : ∀ a d, FlagFrame d (f a d)) (d : Desk) :
    FlagFrame d (d.each l f) := by
  unfold Desk.each
  induction l generalizing d with
  | nil => exact of_ev
  | cons a l ih => exact (h a d).andThen (ih (f a d))

end Desk.FlagFrame

/-- What AUTO leaves alone: the routes, gates and histories of strips, drivers and requesters, lines and the fader map,
the settings of controls, every slot of NOTE but the ECHOs, POS's flags. Flags set stay set. -/
structure Desk.AutoFrame (d d' : Desk) : Prop where
  flight  : d'.note.flight = d.note.flight
  timer   : d'.note.timer = d.note.timer
  ages    : d'.note.ages = d.note.ages
  waiting : ∀ y, (∀ b, y ≠ .echo b) → d'.note.waiting? y = d.note.waiting? y
  strips  : ∀ n, (d'.stripOf n).source = (d.stripOf n).source ∧ (d'.stripOf n).send1 = (d.stripOf n).send1 ∧
    (d'.stripOf n).send2 = (d.stripOf n).send2 ∧ (d'.stripOf n).solo = (d.stripOf n).solo ∧
    (d'.stripOf n).safe = (d.stripOf n).safe ∧ (d'.stripOf n).gate1 = (d.stripOf n).gate1 ∧
    (d'.stripOf n).gate2 = (d.stripOf n).gate2 ∧ (d'.stripOf n).hist1 = (d.stripOf n).hist1 ∧
    (d'.stripOf n).hist2 = (d.stripOf n).hist2
  ownBits : d'.strip.ownBits = d.strip.ownBits
  zones   : d'.strip.zones = d.strip.zones
  homes   : ∀ b, (d'.homeOf b).driver = (d.homeOf b).driver ∧ (d'.homeOf b).lease = (d.homeOf b).lease ∧
    (d'.homeOf b).level = (d.homeOf b).level ∧ (d'.homeOf b).muted = (d.homeOf b).muted
  reqs    : d'.home.reqs = d.home.reqs
  rise    : d'.home.rise = d.home.rise
  lines   : d'.touch.lines = d.touch.lines
  map     : d'.touch.map = d.touch.map
  targets : d'.touch.controls = d.touch.controls ∧ d'.touch.buses = d.touch.buses
  settings : ∀ c, (d'.control c).mode = (d.control c).mode ∧ (d'.control c).safe = (d.control c).safe ∧
    (d'.control c).glideLength = (d.control c).glideLength
  window  : d'.auto.window = d.auto.window
  flags   : FlagFrame d d'
  join    : d'.ev.join = d.ev.join

namespace Desk.AutoFrame

theorem same (d : Desk) : AutoFrame d d := by
  exact ⟨rfl, rfl, rfl, fun _ _ => rfl, fun _ => ⟨rfl, rfl, rfl, rfl, rfl, rfl, rfl, rfl, rfl⟩, rfl, rfl,
    fun _ => ⟨rfl, rfl, rfl, rfl⟩, rfl, rfl, rfl, rfl, ⟨rfl, rfl⟩, fun _ => ⟨rfl, rfl, rfl⟩, rfl, .of_ev, rfl⟩

theorem andThen {a b c : Desk} (h : AutoFrame a b) (k : AutoFrame b c) : AutoFrame a c where
  flight := k.flight.trans h.flight
  timer := k.timer.trans h.timer
  ages := k.ages.trans h.ages
  waiting y hy := (k.waiting y hy).trans (h.waiting y hy)
  strips n := by
    obtain ⟨a1, a2, a3, a4, a5, a6, a7, a8, a9⟩ := h.strips n
    obtain ⟨b1, b2, b3, b4, b5, b6, b7, b8, b9⟩ := k.strips n
    exact ⟨b1.trans a1, b2.trans a2, b3.trans a3, b4.trans a4, b5.trans a5, b6.trans a6, b7.trans a7, b8.trans a8,
      b9.trans a9⟩
  ownBits := k.ownBits.trans h.ownBits
  zones := k.zones.trans h.zones
  homes b := by
    obtain ⟨a1, a2, a3, a4⟩ := h.homes b
    obtain ⟨b1, b2, b3, b4⟩ := k.homes b
    exact ⟨b1.trans a1, b2.trans a2, b3.trans a3, b4.trans a4⟩
  reqs := k.reqs.trans h.reqs
  rise := k.rise.trans h.rise
  lines := k.lines.trans h.lines
  map := k.map.trans h.map
  targets := ⟨k.targets.1.trans h.targets.1, k.targets.2.trans h.targets.2⟩
  settings c := by
    obtain ⟨a1, a2, a3⟩ := h.settings c
    obtain ⟨b1, b2, b3⟩ := k.settings c
    exact ⟨b1.trans a1, b2.trans a2, b3.trans a3⟩
  window := k.window.trans h.window
  flags := h.flags.andThen k.flags
  join := k.join.trans h.join

/-- A frame that every single action keeps, a run through a list keeps. -/
theorem each {α : Type} (l : List α) (f : α → Desk → Desk) (h : ∀ a d, AutoFrame d (f a d)) (d : Desk) :
    AutoFrame d (d.each l f) := by
  unfold Desk.each
  induction l generalizing d with
  | nil => exact same d
  | cons a l ih => exact (h a d).andThen (ih (f a d))

end Desk.AutoFrame

open Desk.AutoFrame (same andThen)

/-! ## Single updates -/

/-- A change of AUTO's tables, of TAKE, of the drive list and of the flags. -/
theorem Desk.AutoFrame.of_eq {d d' : Desk} (note : d'.note = d.note := by rfl) (strip : d'.strip = d.strip := by rfl)
    (home : d'.home = d.home := by rfl) (lines : d'.touch.lines = d.touch.lines := by rfl)
    (map : d'.touch.map = d.touch.map := by rfl) (controls : d'.touch.controls = d.touch.controls := by rfl)
    (buses : d'.touch.buses = d.touch.buses := by rfl)
    (settings : ∀ c, (d'.control c).mode = (d.control c).mode ∧ (d'.control c).safe = (d.control c).safe ∧
      (d'.control c).glideLength = (d.control c).glideLength := by exact fun _ => ⟨rfl, rfl, rfl⟩)
    (window : d'.auto.window = d.auto.window := by rfl)
    (flags : FlagFrame d d' := by exact .of_ev)
    (join : d'.ev.join = d.ev.join := by rfl) : AutoFrame d d' := by
  refine ⟨by rw [note], by rw [note], by rw [note], fun _ _ => by rw [note], fun n => ?_, by rw [strip], by rw [strip],
    fun b => ?_, by rw [home], by rw [home], lines, map, ⟨controls, buses⟩, settings, window, flags, join⟩
  · have e : d'.stripOf n = d.stripOf n := by unfold Desk.stripOf; rw [strip]
    rw [e]
    exact ⟨rfl, rfl, rfl, rfl, rfl, rfl, rfl, rfl, rfl⟩
  · have e : d'.homeOf b = d.homeOf b := by unfold Desk.homeOf; rw [home]
    rw [e]
    exact ⟨rfl, rfl, rfl, rfl⟩

/-- A control record of the same settings. -/
theorem Desk.frame_setControl {c : Fin 176} {x : Control} {d : Desk} (h1 : x.mode = (d.control c).mode := by rfl)
    (h2 : x.safe = (d.control c).safe := by rfl) (h3 : x.glideLength = (d.control c).glideLength := by rfl) :
    AutoFrame d (d.setControl c x) :=
  .of_eq (settings := fun k => by
    by_cases e : k = c
    · subst e; simp [h1, h2, h3]
    · simp [e])

theorem Desk.frame_take (k : Take) (d : Desk) : AutoFrame d { d with take := k } := .of_eq

theorem Desk.frame_raise (f : Flag) (d : Desk) (h : f.ofPos = false := by rfl) : AutoFrame d (d.raise f) :=
  .of_eq (flags := .raise f d h)

theorem Desk.frame_drive (m : FaderTarget) (v : Value) (d : Desk) : AutoFrame d (d.drive m v) := .of_eq

theorem Desk.frame_queueEcho (b : Fin 24) (d : Desk) : AutoFrame d (d.queueEcho b) where
  flight := Note.queue_flight _ _ _ _
  timer := Note.queue_timer _ _ _ _
  ages := Note.queue_ages _ _ _ _
  waiting _ h := Note.waiting?_queue_of_ne (h b) _ _ _
  strips _ := ⟨rfl, rfl, rfl, rfl, rfl, rfl, rfl, rfl, rfl⟩
  ownBits := rfl
  zones := rfl
  homes _ := ⟨rfl, rfl, rfl, rfl⟩
  reqs := rfl
  rise := rfl
  lines := rfl
  map := rfl
  targets := ⟨rfl, rfl⟩
  settings _ := ⟨rfl, rfl, rfl⟩
  window := rfl
  flags := .of_ev
  join := rfl

/-- A strip of the same route, gates and histories. -/
theorem Desk.frame_setStrip {n : Fin 32} {x : Strip} {d : Desk}
    (h : x.source = (d.stripOf n).source ∧ x.send1 = (d.stripOf n).send1 ∧ x.send2 = (d.stripOf n).send2 ∧
      x.solo = (d.stripOf n).solo ∧ x.safe = (d.stripOf n).safe ∧ x.gate1 = (d.stripOf n).gate1 ∧
      x.gate2 = (d.stripOf n).gate2 ∧ x.hist1 = (d.stripOf n).hist1 ∧ x.hist2 = (d.stripOf n).hist2) :
    AutoFrame d (d.setStrip n x) where
  flight := rfl
  timer := rfl
  ages := rfl
  waiting _ _ := rfl
  strips k := by
    by_cases e : k = n
    · subst e; simpa using h
    · simp [e]
  ownBits := rfl
  zones := rfl
  homes _ := ⟨rfl, rfl, rfl, rfl⟩
  reqs := rfl
  rise := rfl
  lines := rfl
  map := rfl
  targets := ⟨rfl, rfl⟩
  settings _ := ⟨rfl, rfl, rfl⟩
  window := rfl
  flags := .of_ev
  join := rfl

/-- A home of the same driver, lease and local surface values. -/
theorem Desk.frame_setHome {b : Fin 24} {x : Home} {d : Desk}
    (h : x.driver = (d.homeOf b).driver ∧ x.lease = (d.homeOf b).lease ∧ x.level = (d.homeOf b).level ∧
      x.muted = (d.homeOf b).muted) : AutoFrame d (d.setHome b x) where
  flight := rfl
  timer := rfl
  ages := rfl
  waiting _ _ := rfl
  strips _ := ⟨rfl, rfl, rfl, rfl, rfl, rfl, rfl, rfl, rfl⟩
  ownBits := rfl
  zones := rfl
  homes k := by
    by_cases e : k = b
    · subst e; simpa using h
    · simp [e]
  reqs := rfl
  rise := rfl
  lines := rfl
  map := rfl
  targets := ⟨rfl, rfl⟩
  settings _ := ⟨rfl, rfl, rfl⟩
  window := rfl
  flags := .of_ev
  join := rfl

end Sys2Proof.Machine

/-- The factors that AUTO moves: all but the gates. -/
def Sys2Proof.FactorName.ofControl : Sys2Proof.FactorName → Bool
  | .gate1 _ | .gate2 _ => false
  | _ => true

namespace Sys2Proof.Machine

open Desk.AutoFrame (same andThen)

theorem Desk.frame_retarget {r : FactorName} (h : r.ofControl = true) (g : Gain) (d : Desk) :
    AutoFrame d (d.retarget r g) := by
  cases r
  case gate1 | gate2 => cases h
  case master | masterMute => exact Desk.frame_setHome ⟨rfl, rfl, rfl, rfl⟩
  all_goals exact Desk.frame_setStrip ⟨rfl, rfl, rfl, rfl, rfl, rfl, rfl, rfl, rfl⟩

/-! ## Applied values (R120) -/

theorem Desk.frame_handOn (e : Env) (c : Fin 176) (d : Desk) : AutoFrame d (d.handOn e c) := by
  unfold Desk.handOn
  dsimp only
  split
  · split
    · exact Desk.frame_retarget rfl _ _
    · exact (Desk.frame_retarget rfl _ _).andThen (Desk.frame_drive _ _ _)
  · exact Desk.frame_retarget rfl _ _
  · exact Desk.frame_retarget rfl _ _
  · exact Desk.frame_retarget rfl _ _
  · split
    · exact (Desk.frame_retarget rfl _ _).andThen (Desk.frame_queueEcho _ _)
    · exact ((Desk.frame_retarget rfl _ _).andThen (Desk.frame_queueEcho _ _)).andThen (Desk.frame_drive _ _ _)
  · exact (Desk.frame_retarget rfl _ _).andThen (Desk.frame_queueEcho _ _)

theorem Desk.frame_apply (e : Env) (c : Fin 176) (v : Value) (d : Desk) : AutoFrame d (d.apply e c v) := by
  unfold Desk.apply
  split
  · exact same d
  · exact andThen Desk.frame_setControl (Desk.frame_handOn e c _)

theorem Desk.frame_decideApplied (e : Env) (c : Fin 176) (d : Desk) : AutoFrame d (d.decideApplied e c) :=
  Desk.frame_apply e c _ d

theorem Desk.frame_setSurface (e : Env) (c : Fin 176) (v : Value) (d : Desk) : AutoFrame d (d.setSurface e c v) :=
  andThen Desk.frame_setControl (Desk.frame_decideApplied e c _)

/-! ## Moves and passes -/

theorem Desk.frame_loseMove (k : Take) (f : Flag) (d : Desk) (h : f.ofPos = false := by rfl) :
    AutoFrame d (Desk.raise f { d with take := k, auto := d.auto.markDamaged }) :=
  .of_eq (settings := fun c => by simp [Desk.control, Desk.raise, Auto.markDamaged])
    (flags := .andThen (b := { d with take := k, auto := d.auto.markDamaged }) .of_ev (.raise f _ h))

theorem Desk.frame_appendMove (c : Fin 176) (t : Tick) (d : Desk) : AutoFrame d (d.appendMove c t) := by
  unfold Desk.appendMove
  dsimp only
  refine andThen (b := d.setControl c { d.control c with lastMove := some { tick := t, value := (d.control c).applied, current := true } })
    Desk.frame_setControl ?_
  split
  · exact Desk.frame_take _ _
  · exact Desk.frame_loseMove _ _ _
  · exact Desk.frame_loseMove _ _ _

/-- The serial counter, the open-pass count and the pending abort are AUTO's own. -/
theorem Desk.frame_counts (p : Bool) (n : BitVec 16) (k : Nat) (d : Desk) :
    AutoFrame d { d with auto := { d.auto with pendingAbort := p, nextSerial := n, openCount := k } } := .of_eq

theorem Desk.frame_openPass (c : Fin 176) (t : Tick) (d : Desk) : AutoFrame d (d.openPass c t) :=
  .of_eq (settings := fun k => by
    change ((d.setControl c _).control k).mode = _ ∧ ((d.setControl c _).control k).safe = _ ∧
      ((d.setControl c _).control k).glideLength = _
    rw [Desk.control_setControl]
    split
    · next e => subst e; exact ⟨rfl, rfl, rfl⟩
    · exact ⟨rfl, rfl, rfl⟩)

theorem Desk.frame_countClosed (d : Desk) : AutoFrame d d.countClosed := by
  unfold Desk.countClosed
  dsimp only
  refine andThen (Desk.frame_counts d.auto.pendingAbort d.auto.nextSerial (d.auto.openCount - 1) d) ?_
  split
  · exact Desk.frame_take _ _
  · exact same _

theorem Desk.frame_closePass (e : Env) (r : CloseReason) (c : Fin 176) (d : Desk) :
    AutoFrame d (d.closePass e r c) := by
  unfold Desk.closePass
  dsimp only
  split
  · exact same d
  · exact andThen (andThen (andThen (Desk.frame_take _ _) Desk.frame_setControl) (Desk.frame_countClosed _))
      (Desk.frame_decideApplied e c _)

theorem Desk.frame_closeAll (e : Env) (r : CloseReason) (d : Desk) : AutoFrame d (d.closeAll e r) :=
  Desk.AutoFrame.each _ _ (fun c d => Desk.frame_closePass e r c d) d

theorem Desk.frame_takeEvent (e : Env) (v : PosEvent) (d : Desk) : AutoFrame d (d.takeEvent e v) := by
  cases v
  case roll | framing => exact same d
  all_goals exact Desk.frame_closeAll e _ d

/-! ## Touch and release -/

theorem Desk.frame_prime (e : Env) (c : Fin 176) (d : Desk) : AutoFrame d (d.prime e c) :=
  andThen Desk.frame_setControl (Desk.frame_decideApplied e c _)

theorem Desk.frame_openBetween (e : Env) (c : Fin 176) (t : Tick) (d : Desk) : AutoFrame d (d.openBetween e c t) := by
  unfold Desk.openBetween
  dsimp only
  refine andThen (andThen (Desk.frame_openPass c t d) (Desk.frame_decideApplied e c _)) ?_
  split
  · exact same _
  · exact Desk.frame_appendMove c t _

theorem Desk.frame_touchIdle (e : Env) (c : Fin 176) (d : Desk) : AutoFrame d (d.touchIdle e c) := by
  unfold Desk.touchIdle
  split
  · split
    · split
      · exact Desk.frame_openBetween e c _ d
      · exact andThen (Desk.frame_raise _ d) (Desk.frame_prime e c _)
    · exact Desk.frame_prime e c d
  · exact Desk.frame_prime e c d

theorem Desk.frame_takeBack (e : Env) (c : Fin 176) (d : Desk) : AutoFrame d (d.takeBack e c) :=
  andThen Desk.frame_setControl (Desk.frame_decideApplied e c _)

theorem Desk.frame_touchControl (e : Env) (c : Fin 176) (d : Desk) : AutoFrame d (d.touchControl e c) := by
  unfold Desk.touchControl
  dsimp only
  refine andThen (b := d.setControl c { d.control c with touched := true }) Desk.frame_setControl ?_
  split <;> first | exact Desk.frame_touchIdle e c _ | exact Desk.frame_takeBack e c _ | exact same _

theorem Desk.frame_beginGlide (e : Env) (c : Fin 176) (d : Desk) : AutoFrame d (d.beginGlide e c) := by
  unfold Desk.beginGlide
  dsimp only
  split
  · exact Desk.frame_closePass e _ c d
  · exact Desk.frame_setControl

theorem Desk.frame_releaseControl (e : Env) (lost : Bool) (c : Fin 176) (d : Desk) :
    AutoFrame d (d.releaseControl e lost c) := by
  unfold Desk.releaseControl
  dsimp only
  have h0 : AutoFrame d (d.setControl c { d.control c with touched := false }) := Desk.frame_setControl
  have h1 : AutoFrame d (if lost = true then (d.setControl c { d.control c with touched := false }).markDriverLost c
      else d.setControl c { d.control c with touched := false }) := by
    split
    · exact andThen h0 Desk.frame_setControl
    · exact h0
  refine andThen h1 ?_
  generalize (if lost = true then (d.setControl c { d.control c with touched := false }).markDriverLost c
      else d.setControl c { d.control c with touched := false }) = d1
  split
  · exact Desk.frame_beginGlide e c _
  · exact Desk.frame_setControl
  · exact andThen Desk.frame_setControl (Desk.frame_decideApplied e c _)
  · exact andThen Desk.frame_setControl (Desk.frame_decideApplied e c _)
  · exact same _

theorem Desk.frame_touchBoth (e : Env) (b : Fin 24) (d : Desk) : AutoFrame d (d.touchBoth e b) :=
  andThen (Desk.frame_touchControl e _ d) (Desk.frame_touchControl e _ _)

theorem Desk.frame_releaseBoth (e : Env) (lost : Bool) (b : Fin 24) (d : Desk) :
    AutoFrame d (d.releaseBoth e lost b) :=
  andThen (Desk.frame_releaseControl e lost _ d) (Desk.frame_releaseControl e lost _ _)

theorem Desk.frame_setBusSurface (e : Env) (b : Fin 24) (v w : Value) (d : Desk) :
    AutoFrame d (d.setBusSurface e b v w) :=
  andThen (Desk.frame_setSurface e _ v d) (Desk.frame_setSurface e _ w _)

/-! ## One tick (R138) -/

theorem Desk.frame_fireAbort (e : Env) (d : Desk) : AutoFrame d (d.fireAbort e) := by
  unfold Desk.fireAbort
  dsimp only
  have h := Desk.frame_closeAll e .abort d
  generalize d.closeAll e .abort = x at h ⊢
  exact andThen h .of_eq

theorem Desk.frame_takePlayback (e : Env) (t : Tick) (c : Fin 176) (d : Desk) :
    AutoFrame d (d.takePlayback e t c) := by
  unfold Desk.takePlayback
  split
  · exact Desk.frame_setControl
  · exact same d

theorem Desk.frame_tickGlide (c : Fin 176) (d : Desk) : AutoFrame d (d.tickGlide c) := by
  unfold Desk.tickGlide
  dsimp only
  split
  · exact Desk.frame_setControl
  · exact same d

theorem Desk.frame_tickPunchIn (e : Env) (t : Tick) (c : Fin 176) (d : Desk) :
    AutoFrame d (d.tickPunchIn e t c) := by
  unfold Desk.tickPunchIn
  split
  · split
    · exact Desk.frame_openPass c t d
    · exact Desk.frame_raise _ d
  · exact same d

theorem Desk.frame_tickApplied (e : Env) (c : Fin 176) (d : Desk) : AutoFrame d (d.tickApplied e c) := by
  unfold Desk.tickApplied
  dsimp only
  split
  · exact Desk.frame_apply e c _ d
  · exact Desk.frame_decideApplied e c d

theorem Desk.frame_tickMove (e : Env) (t : Tick) (opened : Bool) (c : Fin 176) (d : Desk) :
    AutoFrame d (d.tickMove e t opened c) := by
  unfold Desk.tickMove
  dsimp only
  split
  · refine andThen ?_ Desk.frame_setControl
    split
    · exact Desk.frame_appendMove c t d
    · exact same d
  · exact same d

theorem Desk.frame_tickGlideEnd (e : Env) (c : Fin 176) (d : Desk) : AutoFrame d (d.tickGlideEnd e c) := by
  unfold Desk.tickGlideEnd
  split
  · split
    · exact Desk.frame_closePass e _ c d
    · exact same d
  · exact same d

theorem Desk.frame_ageMoves (d : Desk) : AutoFrame d d.ageMoves :=
  .of_eq (settings := fun c => by simp [Desk.control, Desk.ageMoves, Auto.ageMoves])

theorem Desk.frame_takeTick (e : Env) (t : MadeTick) (d : Desk) : AutoFrame d (d.takeTick e t) := by
  unfold Desk.takeTick
  dsimp only
  have h1 : AutoFrame d (d.ageMoves.tickAbort e t) := by
    refine andThen (Desk.frame_ageMoves d) ?_
    unfold Desk.tickAbort
    split
    · exact Desk.frame_fireAbort e _
    · exact same _
  have h2 : ∀ d : Desk, AutoFrame d (d.tickWindow e t) := by
    intro d
    unfold Desk.tickWindow
    split
    · split
      · exact Desk.frame_closeAll e _ d
      · exact same d
    · exact same d
  exact andThen (andThen (andThen (andThen (andThen (andThen (andThen h1 (h2 _))
    (Desk.AutoFrame.each _ _ (fun c d => Desk.frame_takePlayback e t.index c d) _))
    (Desk.AutoFrame.each _ _ Desk.frame_tickGlide _))
    (Desk.AutoFrame.each _ _ (fun c d => Desk.frame_tickPunchIn e t.index c d) _))
    (Desk.AutoFrame.each _ _ (fun c d => Desk.frame_tickApplied e c d) _))
    (Desk.AutoFrame.each _ _ (fun c d => Desk.frame_tickMove e t.index _ c d) _))
    (Desk.AutoFrame.each _ _ (fun c d => Desk.frame_tickGlideEnd e c d) _)

theorem Desk.frame_catchUp (e : Env) (t : Tick) (d : Desk) : AutoFrame d (d.catchUp e t) :=
  andThen (Desk.AutoFrame.each _ _ (fun c d => Desk.frame_takePlayback e t c d) d)
    (Desk.AutoFrame.each _ _ (fun c d => Desk.frame_decideApplied e c d) _)

end Sys2Proof.Machine
end

