-- ==== Sys2Proof/Laws/Flags.lean ====
section
/-!
SUPPORT. No operation but STATUS, RESTART and the resets clears an event flag, and none but POS raises POS's own
(R11, R14, R176): `Desk.FlagFrame` for every operation that a sample event runs outside POS.
-/

set_option Elab.async false

namespace Sys2Proof.Machine

open Desk.FlagFrame (of_ev andThen)

/-! ## STRIP, HOME and the requesters -/

theorem Desk.flags_retarget (r : FactorName) (g : Gain) (d : Desk) : FlagFrame d (d.retarget r g) := by
  cases r <;> exact of_ev

theorem Desk.flags_regateStrip (e : Env) (n : Fin 32) (d : Desk) : FlagFrame d (d.regateStrip e n) := by
  unfold Desk.regateStrip
  dsimp only
  generalize gateGain (d.gateOpen e (d.stripOf n) (d.stripOf n).send1) = x
  generalize gateGain (d.gateOpen e (d.stripOf n) (d.stripOf n).send2) = y
  exact andThen (Desk.flags_retarget (.gate1 n) x d) (Desk.flags_retarget (.gate2 n) y _)

theorem Desk.flags_regate (e : Env) (d : Desk) : FlagFrame d (d.regate e) := .each _ _ (Desk.flags_regateStrip e) d

theorem Desk.flags_stationSolo (e : Env) (x : Nat) (bits : SoloBits) (d : Desk) : FlagFrame d (d.stationSolo e x bits) := by
  unfold Desk.stationSolo
  split
  · exact of_ev
  · exact andThen (b := d.setZones x bits) of_ev (Desk.flags_regate e _)

theorem Desk.flags_stationGone (e : Env) (x : Nat) (d : Desk) : FlagFrame d (d.stationGone e x) :=
  andThen (b := d.setZones x 0) of_ev (Desk.flags_regate e _)

theorem Desk.flags_touchBoth (e : Env) (b : Fin 24) (d : Desk) : FlagFrame d (d.touchBoth e b) :=
  (Desk.frame_touchBoth e b d).flags

theorem Desk.flags_releaseBoth (e : Env) (lost : Bool) (b : Fin 24) (d : Desk) : FlagFrame d (d.releaseBoth e lost b) :=
  (Desk.frame_releaseBoth e lost b d).flags

theorem Desk.flags_setBusSurface (e : Env) (b : Fin 24) (v w : Value) (d : Desk) :
    FlagFrame d (d.setBusSurface e b v w) := (Desk.frame_setBusSurface e b v w d).flags

theorem Desk.flags_setDriver (b : Fin 24) (y : Option Nat) (d : Desk) : FlagFrame d (d.setDriver b y) := of_ev

theorem Desk.flags_homeClaim (e : Env) (b : Fin 24) (x : Nat) (d : Desk) : FlagFrame d (d.homeClaim e b x).1 := by
  unfold Desk.homeClaim
  split
  · dsimp only
    generalize (d.control (masterId b)).applied = v
    generalize (d.control (masterMuteId b)).applied = w
    exact andThen (andThen (Desk.flags_setDriver b _ d) (Desk.flags_setBusSurface e b v w _))
      (Desk.flags_touchBoth e b _)
  · split
    · exact Desk.flags_setDriver b _ d
    · exact (of_ev : FlagFrame d d)

theorem Desk.flags_homeDrive (e : Env) (b : Fin 24) (x : Nat) (v : Value) (m : Bool) (d : Desk) :
    FlagFrame d (d.homeDrive e b x v m).1 := by
  unfold Desk.homeDrive
  split
  · exact andThen (Desk.flags_setBusSurface e b v (muteValue m) d) (Desk.flags_setDriver b (some x) _)
  · exact of_ev

theorem Desk.flags_homeRelease (e : Env) (b : Fin 24) (x : Nat) (d : Desk) : FlagFrame d (d.homeRelease e b x).1 := by
  unfold Desk.homeRelease
  split
  · exact andThen (Desk.flags_setDriver b none d) (Desk.flags_releaseBoth e false b _)
  · exact of_ev

theorem Desk.flags_localClaim (e : Env) (b : Fin 24) (d : Desk) : FlagFrame d (d.localClaim e b) := by
  unfold Desk.localClaim
  split
  · exact andThen (andThen (Desk.flags_setDriver b _ d) (Desk.flags_setBusSurface e b _ _ _))
      (Desk.flags_touchBoth e b _)
  · split
    · exact of_ev
    · exact .raise _ d

theorem Desk.flags_localRelease (e : Env) (b : Fin 24) (d : Desk) : FlagFrame d (d.localRelease e b) := by
  unfold Desk.localRelease
  split
  · exact andThen (Desk.flags_setDriver b none d) (Desk.flags_releaseBoth e false b _)
  · exact of_ev

theorem Desk.flags_loseDriver (e : Env) (b : Fin 24) (d : Desk) : FlagFrame d (d.loseDriver e b) :=
  andThen (andThen (Desk.flags_setDriver b none d) (Desk.flags_releaseBoth e true b _)) (.raise _ _)

theorem Desk.flags_leaseStep (e : Env) (b : Fin 24) (d : Desk) : FlagFrame d (d.leaseStep e b) := by
  unfold Desk.leaseStep
  dsimp only
  split
  · exact of_ev
  · split
    · exact of_ev
    · split
      · exact Desk.flags_loseDriver e b d
      · exact of_ev

theorem Desk.flags_driverGone (e : Env) (x : Nat) (b : Fin 24) (d : Desk) : FlagFrame d (d.driverGone e x b) := by
  unfold Desk.driverGone
  split
  · exact Desk.flags_loseDriver e b d
  · exact of_ev

theorem Desk.flags_dropDrive (b : Fin 24) (d : Desk) : FlagFrame d (d.dropDrive b) :=
  andThen (b := (d.withdraw (.drive b)).setClaim b .none) of_ev (.raise _ _)

theorem Desk.flags_homeGone (e : Env) (x : Nat) (b : Fin 24) (d : Desk) : FlagFrame d (d.homeGone e x b) := by
  unfold Desk.homeGone
  split
  · exact Desk.flags_dropDrive b d
  · exact of_ev

theorem Desk.flags_reqTouch (b : Fin 24) (d : Desk) : FlagFrame d (d.reqTouch b) := by
  unfold Desk.reqTouch
  dsimp only
  repeat' split
  all_goals exact of_ev

theorem Desk.flags_reqRelease (b : Fin 24) (d : Desk) : FlagFrame d (d.reqRelease b) := by
  unfold Desk.reqRelease
  dsimp only
  repeat' split
  all_goals exact of_ev

theorem Desk.flags_claimReturn (b : Fin 24) (m : Mark) (d : Desk) : FlagFrame d (d.claimReturn b m) := by
  unfold Desk.claimReturn
  dsimp only
  split
  · exact of_ev
  · exact andThen (b := d.setClaim b .none) of_ev (.raise _ _)
  · exact andThen (b := d.setClaim b .none) of_ev (.raise _ _)
  all_goals exact of_ev

theorem Desk.flags_releaseReturn (b : Fin 24) (d : Desk) : FlagFrame d (d.releaseReturn b) := by
  unfold Desk.releaseReturn
  dsimp only
  repeat' split
  all_goals exact of_ev

theorem Desk.flags_driveReturn (b : Fin 24) (m : Mark) (d : Desk) : FlagFrame d (d.driveReturn b m) := by
  unfold Desk.driveReturn
  split
  · exact Desk.flags_dropDrive b d
  · exact of_ev

theorem Desk.flags_keepaliveStep (b : Fin 24) (d : Desk) : FlagFrame d (d.keepaliveStep b) := by
  unfold Desk.keepaliveStep
  dsimp only
  repeat' split
  all_goals exact of_ev

theorem Desk.flags_reqEcho (b : Fin 24) (v : Value) (m : Bool) (d : Desk) : FlagFrame d (d.reqEcho b v m) := by
  unfold Desk.reqEcho
  dsimp only
  split <;> exact of_ev

/-! ## TOUCH -/

theorem Desk.flags_deliverTouch (e : Env) (k : TouchTarget) (d : Desk) : FlagFrame d (d.deliverTouch e k) := by
  unfold Desk.deliverTouch
  split
  · exact (Desk.frame_touchControl e _ d).flags
  · split
    · exact Desk.flags_localClaim e _ d
    · split
      · exact Desk.flags_reqTouch _ d
      · exact of_ev

theorem Desk.flags_deliverRelease (e : Env) (k : TouchTarget) (d : Desk) : FlagFrame d (d.deliverRelease e k) := by
  unfold Desk.deliverRelease
  split
  · exact (Desk.frame_releaseControl e false _ d).flags
  · split
    · exact Desk.flags_localRelease e _ d
    · split
      · exact Desk.flags_reqRelease _ d
      · exact of_ev

theorem Desk.flags_changeTarget (e : Env) (k : TouchTarget) (f : TargetState → TargetState) (d : Desk) :
    FlagFrame d (d.changeTarget e k f) := by
  unfold Desk.changeTarget
  dsimp only
  have h : FlagFrame d { d with touch := d.touch.setTarget (f (d.touch.target k)) k } := of_ev
  split
  · exact andThen h (Desk.flags_deliverTouch e k _)
  · exact andThen h (Desk.flags_deliverRelease e k _)
  · exact h

theorem Desk.flags_lineEdge (e : Env) (f : Fin 32) (x : LineEdge) (d : Desk) : FlagFrame d (d.lineEdge e f x) := by
  unfold Desk.lineEdge
  dsimp only
  split
  · exact of_ev
  · unfold Desk.holdTarget
    split
    · exact andThen (b := d.setLine f { d.lineOf f with touchLatch := true, lastTouch := e.pos.tick }) of_ev
        (Desk.flags_changeTarget e _ _ _)
    · exact of_ev
  · unfold Desk.dropTarget
    split
    · exact andThen (b := d.setLine f { d.lineOf f with releaseLatch := true, lastRelease := e.pos.tick }) of_ev
        (Desk.flags_changeTarget e _ _ _)
    · exact of_ev

theorem Desk.flags_lineStep (e : Env) (high : Bool) (f : Fin 32) (d : Desk) : FlagFrame d (d.lineStep e high f) := by
  unfold Desk.lineStep
  dsimp only
  split
  · exact andThen (b := d.setLine f _) of_ev (Desk.flags_lineEdge e f _ _)
  · exact of_ev

theorem Desk.flags_touchPhase (e : Env) (levels : BitVec 32) (d : Desk) : FlagFrame d (d.touchPhase e levels) :=
  .each _ _ (fun _ _ => Desk.flags_lineStep e _ _ _) d

/-! ## NOTE's operations on the desk -/

theorem Desk.flags_handRemoved (e : Env) (x : Nat) (d : Desk) : FlagFrame d (d.handRemoved e x) :=
  andThen (andThen (.each _ _ (fun b d => Desk.flags_driverGone e x b d) d)
    (.each _ _ (fun b d => Desk.flags_homeGone e x b d) _)) (Desk.flags_stationGone e x _)

theorem Desk.flags_queueHoldings (e : Env) (d : Desk) : FlagFrame d (d.queueHoldings e) :=
  andThen (b := { d.queue .holdings .holdings 0 with note := { (d.queue .holdings .holdings 0).note with timer := 0 } })
    of_ev (.each _ _ (fun _ _ => of_ev) _)

theorem Desk.flags_tellPlaced (x : Slot) (d : Desk) : FlagFrame d (d.tellPlaced x) := by
  unfold Desk.tellPlaced
  split
  · unfold Desk.drivePlaced
    dsimp only
    split <;> exact of_ev
  · exact of_ev

theorem Desk.flags_handMark (x : Slot) (k : NoticeKind) (m : Mark) (d : Desk) : FlagFrame d (d.handMark x k m) := by
  unfold Desk.handMark
  split
  · exact Desk.flags_claimReturn _ m d
  · exact Desk.flags_releaseReturn _ d
  · exact Desk.flags_driveReturn _ m d
  · exact of_ev

theorem Desk.flags_closeFlight (x : Slot) (k : NoticeKind) (m : Mark) (d : Desk) : FlagFrame d (d.closeFlight x k m) :=
  andThen (b := { d with note := d.note.close x }) of_ev (Desk.flags_handMark x k m _)

theorem Desk.flags_answer (e : Env) (b : Fin 24) (n : Notice) (d : Desk) : FlagFrame d (d.answer e b n).1 := by
  unfold Desk.answer
  split
  · exact Desk.flags_homeClaim e b _ d
  · exact Desk.flags_homeDrive e b _ _ _ d
  · exact Desk.flags_homeRelease e b _ d
  · exact of_ev

theorem Desk.flags_ageOf (e : Env) (x : Fin 24) (d : Desk) : FlagFrame d (d.ageOf e x) := by
  unfold Desk.ageOf
  dsimp only
  have h : FlagFrame d { d with note := { d.note with ages := d.note.ages.set x (ageStep d.note.ages[x]) } } := of_ev
  split
  · exact andThen h (Desk.flags_stationGone e _ _)
  · exact h

theorem Desk.flags_timerStep (e : Env) (d : Desk) : FlagFrame d (d.timerStep e) := by
  unfold Desk.timerStep
  split
  · exact Desk.flags_queueHoldings e d
  · exact of_ev

/-! ## Steps of the whole state -/

/-- From one state to the next, flags set stay set and POS's own flags stay as they are. -/
def State.FlagFrame (s t : State) : Prop := Desk.FlagFrame s.desk t.desk

namespace State.FlagFrame

theorem same (s : State) : FlagFrame s s := of_ev

theorem andThen {a b c : State} (h : FlagFrame a b) (k : FlagFrame b c) : FlagFrame a c := Desk.FlagFrame.andThen h k

theorem desk {d : Desk} (s : State) (h : Desk.FlagFrame s.desk d) : FlagFrame s { s with desk := d } := h

theorem ring (r : Ring) (s : State) : FlagFrame s { s with ring := r } := of_ev

theorem onDesk (f : Env → Desk → Desk) (s : State) (h : Desk.FlagFrame s.desk (f s.env s.desk)) :
    FlagFrame s (s.onDesk f) := h

theorem raise (f : Flag) (s : State) (h : f.ofPos = false := by rfl) : FlagFrame s (s.raise f) :=
  Desk.FlagFrame.raise f s.desk h

theorem foldl {α : Type} (l : List α) (f : State → α → State) (h : ∀ s a, FlagFrame s (f s a)) (s : State) :
    FlagFrame s (l.foldl f s) := by
  induction l generalizing s with
  | nil => exact same s
  | cons a l ih => exact (h s a).andThen (ih (f s a))

end State.FlagFrame

end Sys2Proof.Machine

namespace Sys2Proof.Machine.State

open State.FlagFrame (same)
open State.FlagFrame

theorem flags_applyRoster (now : StationSet) (s : State) : FlagFrame s (s.applyRoster now) := by
  unfold State.applyRoster
  dsimp only
  split
  · exact same s
  · exact andThen (andThen (State.FlagFrame.ring _ s) (State.FlagFrame.raise .rosterChange _))
      (State.FlagFrame.onDesk _ _ (.each _ _ (Desk.flags_handRemoved _) _))

theorem flags_place (s : State) : FlagFrame s s.place.1 := by
  unfold State.place
  split
  · exact same s
  · exact State.FlagFrame.desk s (Desk.FlagFrame.andThen (b := { s.desk with note := _ }) .of_ev (Desk.flags_tellPlaced _ _))

theorem flags_strip (n : Notice) (s : State) : FlagFrame s (s.strip n) := by
  unfold State.strip
  split
  · split
    · split
      · exact State.FlagFrame.desk s (Desk.flags_closeFlight _ _ _ _)
      · exact same s
    · exact same s
  · exact same s

theorem flags_mismatch (s : State) : FlagFrame s s.mismatch := by
  unfold State.mismatch
  split
  · exact andThen (State.FlagFrame.ring _ s) (State.FlagFrame.raise .planMismatch _)
  · exact andThen (State.FlagFrame.ring _ s) (State.FlagFrame.raise .planMismatch _)
  · exact State.FlagFrame.raise .planMismatch s

theorem flags_actHoldings (n : Notice) (s : State) : FlagFrame s (s.actHoldings n) := by
  unfold State.actHoldings
  dsimp only
  refine andThen (flags_applyRoster (StationSet.add s.ring.present n.origin.toNat) s) ?_
  generalize s.applyRoster (StationSet.add s.ring.present n.origin.toNat) = s1
  have h1 : FlagFrame s1 { s1 with desk := { s1.desk with note :=
    { s1.desk.note with ages := s1.desk.note.ages.setIfInBounds n.origin.toNat (some 0) } } } :=
    State.FlagFrame.desk s1 .of_ev
  refine andThen (andThen h1 (State.FlagFrame.onDesk
    (fun e d => d.stationSolo e n.origin.toNat (payloadHoldingsSolo n.payload)) _ (Desk.flags_stationSolo _ _ _ _))) ?_
  split
  · exact flags_mismatch _
  · exact same _

theorem flags_actAnswered (n : Notice) (s : State) : FlagFrame s (s.actAnswered n).1 := by
  unfold State.actAnswered
  split
  · split
    · exact State.FlagFrame.desk s (Desk.flags_answer _ _ _ _)
    · exact same s
  · exact same s

theorem flags_actEcho (n : Notice) (s : State) : FlagFrame s (s.actEcho n) := by
  unfold State.actEcho
  split
  · split
    · exact State.FlagFrame.desk s (Desk.flags_reqEcho _ _ _ _)
    · exact same s
  · exact same s

theorem flags_actSolo (n : Notice) (s : State) : FlagFrame s (s.actSolo n) := by
  unfold State.actSolo
  split
  · exact State.FlagFrame.onDesk _ s (Desk.flags_stationSolo _ _ _ _)
  · exact same s

theorem flags_actRoster (n : Notice) (s : State) : FlagFrame s (s.actRoster n) := by
  unfold State.actRoster
  dsimp only
  split
  · exact flags_applyRoster _ s
  · exact same s

theorem flags_act (n : Notice) (s : State) : FlagFrame s (s.act n).1 := by
  unfold State.act
  split
  · split
    · exact flags_actAnswered n s
    · exact flags_actAnswered n s
    · exact flags_actAnswered n s
    · exact flags_actEcho n s
    · exact flags_actSolo n s
    · exact flags_actHoldings n s
    · exact flags_actRoster n s
  · exact same s

theorem flags_workCell (c : BitVec 64) (s : State) : FlagFrame s (s.workCell c).1 := by
  unfold State.workCell
  split
  · exact flags_place s
  · dsimp only
    have h : FlagFrame s { s with free := s.free + 1 } := State.FlagFrame.same s
    split
    · exact andThen h (flags_place _)
    · exact h
  · split
    · exact flags_strip _ s
    · exact flags_act _ s

theorem flags_workCells (cells : Vector (BitVec 64) 4) (s : State) : FlagFrame s (s.workCells cells).1 :=
  andThen (andThen (andThen (flags_workCell _ s) (flags_workCell _ _)) (flags_workCell _ _)) (flags_workCell _ _)

/-! ## RING -/

theorem flags_emitterCheck (e : Nat) (s : State) : FlagFrame s (s.emitterCheck e) := by
  unfold State.emitterCheck
  split
  · exact same s
  · exact andThen (flags_applyRoster _ s) (State.FlagFrame.desk _ .of_ev)

theorem flags_goodArrival (b : Bool) (f : WireFrame) (s : State) : FlagFrame s (s.goodArrival b f).state := by
  unfold State.goodArrival
  dsimp only
  have h := State.FlagFrame.ring s.ring.countGood s
  split
  · exact andThen h (andThen (flags_emitterCheck _ _) (flags_workCells _ _))
  · exact andThen h (andThen (flags_workCells _ _) (flags_emitterCheck _ _))

theorem flags_countBad (s : State) : FlagFrame s s.countBad := by
  unfold State.countBad
  dsimp only
  split
  · exact andThen (andThen (andThen (State.FlagFrame.ring _ s) (State.FlagFrame.raise .badFrame _))
      (State.FlagFrame.ring _ _)) (State.FlagFrame.raise .relock _)
  · exact andThen (State.FlagFrame.ring _ s) (State.FlagFrame.raise .badFrame _)

theorem flags_endSilence (s : State) : FlagFrame s s.endSilence := by
  unfold State.endSilence
  dsimp only
  split
  · exact andThen (State.FlagFrame.ring _ s) (State.FlagFrame.raise .ringBreak _)
  · exact State.FlagFrame.ring _ s

theorem flags_arrive (b : Bool) (f : WireFrame) (s : State) : FlagFrame s (s.arrive b f).state := by
  unfold State.arrive
  dsimp only
  have h := andThen (flags_endSilence s)
    (State.FlagFrame.ring ((s.endSilence.ring.countRun f).adoption s.endSilence.self f) s.endSilence)
  split
  · exact andThen h (flags_goodArrival b f _)
  · exact andThen h (andThen (flags_countBad _) (flags_workCells _ _))

theorem flags_silence (s : State) : FlagFrame s s.silence.state := by
  have h : FlagFrame s s.countSilent := by
    unfold State.countSilent
    dsimp only
    split
    · exact andThen (State.FlagFrame.ring _ s) (State.FlagFrame.raise .ringBreak _)
    · exact State.FlagFrame.ring _ s
  exact andThen h (flags_workCells _ _)

theorem flags_failJoin (r : JoinResult) (s : State) : FlagFrame s (s.failJoin r) :=
  andThen (State.FlagFrame.ring { s.ring with state := .detached, origin := s.self } s)
    (State.FlagFrame.desk (d := s.desk.completeJoin r) _ .of_ev)

theorem flags_insert (p : StationSet) (r : JoinResult) (s : State) : FlagFrame s (s.insert p r) :=
  andThen (andThen (andThen (State.FlagFrame.ring _ s) (flags_applyRoster p _))
    (State.FlagFrame.onDesk _ _ (Desk.flags_queueHoldings _ _))) (State.FlagFrame.desk _ .of_ev)

theorem flags_tapGood (f : WireFrame) (s : State) : FlagFrame s (s.tapGood f) := by
  unfold State.tapGood
  dsimp only
  have h := State.FlagFrame.ring { s.ring with join := { s.ring.join with upstream := some f.emitter.toNat } } s
  split
  · exact andThen h (flags_failJoin _ _)
  · split
    · refine andThen h ?_
      unfold State.listen
      dsimp only
      split
      · exact andThen (flags_failJoin _ _) (State.FlagFrame.raise .planMismatch _)
      · exact State.FlagFrame.ring _ _
    · exact State.FlagFrame.ring _ s

theorem flags_tapOther (s : State) : FlagFrame s s.tapOther := by
  unfold State.tapOther
  split
  · exact same _
  · exact State.FlagFrame.ring _ _

theorem flags_tap (f : WireFrame) (s : State) : FlagFrame s (s.tap f) := by
  unfold State.tap
  dsimp only
  split
  · exact andThen (State.FlagFrame.ring _ s) (flags_tapGood f _)
  · exact andThen (State.FlagFrame.ring _ s) (flags_tapOther _)

theorem flags_listenStep (b : Bool) (s : State) : FlagFrame s (s.listenStep b) := by
  unfold State.listenStep
  split
  · dsimp only
    split
    · exact andThen (State.FlagFrame.ring _ s) (flags_insert _ _ _)
    · exact State.FlagFrame.ring _ s
  · exact same _

theorem flags_firstInStep (s : State) : FlagFrame s s.firstInStep := by
  unfold State.firstInStep
  split
  · exact andThen (State.FlagFrame.ring _ s) (flags_insert _ _ _)
  · exact same _

theorem flags_lockingStep (rx : Option WireFrame) (s : State) : FlagFrame s (s.lockingStep rx) := by
  unfold State.lockingStep
  dsimp only
  refine andThen (andThen ?_ (flags_listenStep _ _)) (flags_firstInStep _)
  split
  · exact andThen (State.FlagFrame.ring _ s) (flags_tap _ _)
  · exact andThen (State.FlagFrame.ring _ s) (flags_tapOther _)

/-- RING's part of a sample event. -/
theorem flags_ringPhase (b : Bool) (rx : Option WireFrame) (s : State) : FlagFrame s (s.ringPhase b rx).state := by
  unfold State.ringPhase
  dsimp only
  have h := State.FlagFrame.ring s.ring.advanceTag s
  split
  · exact State.FlagFrame.ring _ s
  · exact andThen h (flags_lockingStep rx _)
  all_goals
    split
    · exact andThen h (flags_arrive b _ _)
    · exact andThen h (flags_silence _)

/-! ## The other parts of a sample event -/

theorem flags_expireFlight (x : Slot) (s : State) : FlagFrame s (s.expireFlight x) := by
  unfold State.expireFlight
  split
  · split
    · exact State.FlagFrame.desk s (Desk.flags_closeFlight _ _ _ _)
    · exact same s
  · exact same s

theorem flags_countStep (s : State) : FlagFrame s s.countStep := by
  unfold State.countStep
  dsimp only
  have h1 : FlagFrame s s.expireFlights := State.FlagFrame.foldl _ _ (fun s x => flags_expireFlight x s) s
  have h2 := State.FlagFrame.onDesk (fun e d => d.each stationIndices (Desk.ageOf e)) s.expireFlights
    (.each _ _ (Desk.flags_ageOf _) _)
  refine andThen (andThen (andThen h1 h2) ?_) (andThen
    (State.FlagFrame.onDesk _ _ (.each _ _ (Desk.flags_leaseStep _) _))
    (State.FlagFrame.onDesk _ _ (.each _ _ Desk.flags_keepaliveStep _)))
  split
  · exact State.FlagFrame.onDesk _ _ (Desk.flags_timerStep _ _)
  · exact same _

/-- The counts before the blocks' phases. -/
theorem flags_timers (s : State) : FlagFrame s s.timers :=
  andThen (b := State.settleStep (State.riseStep (0 < s.ring.settle) s.advanceInstant)) Desk.FlagFrame.of_ev
    (flags_countStep _)

/-- TOUCH's part of a sample event. -/
theorem flags_touchPhase (levels : BitVec 32) (s : State) : FlagFrame s (s.onDesk fun e d => d.touchPhase e levels) :=
  State.FlagFrame.onDesk _ s (Desk.flags_touchPhase _ _ _)

theorem flags_audio (x : Vector Sample 32) (l : Option (Vector Lane 128)) (s : State) : FlagFrame s (s.audio x l) :=
  Desk.FlagFrame.of_ev

theorem flags_emit (r : Ring) (c : Vector (BitVec 64) 4) (l : Option (Vector Lane 128)) (s : State) :
    FlagFrame s (s.emit r c l) := by
  unfold State.emit
  split <;> exact Desk.FlagFrame.of_ev

theorem flags_play (y : Play) (s : State) : FlagFrame s { s with play := y } := State.FlagFrame.same s

/-- R138: what a tick does at TAKE, PLAY and AUTO. -/
theorem flags_takeTick (t : MadeTick) (s : State) : FlagFrame s (s.takeTick t) := by
  unfold State.takeTick
  dsimp only
  have h := State.FlagFrame.desk (d := { s.desk with take := s.desk.take.leavePage (pageOf t.index) }) s .of_ev
  have tick : ∀ u : State, FlagFrame u (u.onDesk fun e d => d.takeTick e t) := fun u =>
    State.FlagFrame.onDesk _ u (Desk.frame_takeTick u.env t u.desk).flags
  split
  · exact andThen (andThen (andThen h (State.FlagFrame.raise .pageLate _)) (flags_play _ _)) (tick _)
  · exact andThen (andThen h (flags_play _ _)) (tick _)

/-- R11, R133: a transport event sets its flag, and no other of POS's. -/
theorem flag_takePosEvent (v : PosEvent) (s : State) (g : Flag) (h : g.ofPos = true) :
    (s.takePosEvent v).flag g = (s.flag g || decide (v.flag = g)) := by
  have e : (((s.raise v.flag).onDesk fun e d => d.takeEvent e v)).flag g = (s.flag g || decide (v.flag = g)) := by
    refine ((Desk.frame_takeEvent _ v _).flags.quiet g h).trans ?_
    exact Desk.flag_raise v.flag g s.desk
  unfold State.takePosEvent
  dsimp only
  split <;> exact e

/-- R11: the flags of a sample event's transport events, the tick they come with included or not. -/
theorem flag_takePosEvents (l : List PosEvent) (s : State) (g : Flag) (h : g.ofPos = true) :
    (l.foldl (fun s v => s.takePosEvent v) s).flag g = (s.flag g || l.any fun v => decide (v.flag = g)) := by
  induction l generalizing s with
  | nil => simp
  | cons v l ih =>
    rw [List.foldl_cons, ih, flag_takePosEvent v s g h, List.any_cons, Bool.or_assoc]

/-- R11: POS's part of a sample event sets the flags of its transport events, and no other of POS's. -/
theorem flag_posPhase (edge : Option FrameNo) (s : State) (g : Flag) (h : g.ofPos = true) :
    (s.posPhase edge).flag g = (s.flag g || (s.posOut edge).events.any fun v => decide (v.flag = g)) := by
  have e := flag_takePosEvents (s.posOut edge).events { s with pos := (s.posOut edge).pos } g h
  unfold State.posPhase
  dsimp only
  split
  · exact ((flags_takeTick _ _).quiet g h).trans e
  · exact e

end Sys2Proof.Machine.State
end

