-- ==== Sys2Proof/Laws/Gain.lean ====
section
/-!
SUPPORT. The rounding of a product (R72, R94): a bound for how close a whole combination of powers of a root of 10 comes to 0,
what an enclosure of the root decides, and the number of bits that always suffices (log 21).
-/

set_option Elab.async false

namespace Sys2Proof.Machine

open Polynomial

/-! ## Whole combinations of powers of the k-th root of 10 -/

/-- X^k − 10 is irreducible (Eisenstein at 2). -/
theorem irreducible_root (k : ℕ) (hk : 0 < k) : Irreducible (X ^ k - C 10 : ℚ[X]) := by
  have hm : (X ^ k - C 10 : ℤ[X]).Monic := monic_X_pow_sub_C _ hk.ne'
  have hd : (X ^ k - C 10 : ℤ[X]).degree = k := degree_X_pow_sub_C hk 10
  have hz : Irreducible (X ^ k - C 10 : ℤ[X]) := by
    refine irreducible_of_eisenstein_criterion (P := Ideal.span {(2 : ℤ)}) ?_ ?_ ?_ ?_ ?_ hm.isPrimitive
    · rw [Ideal.span_singleton_prime (by norm_num)]; exact Int.prime_two
    · rw [hm.leadingCoeff, Ideal.mem_span_singleton]; norm_num
    · intro n hn
      rw [hd] at hn
      have hn' : n ≠ k := by rintro rfl; exact lt_irrefl _ hn
      rw [Ideal.mem_span_singleton, coeff_sub, coeff_X_pow, coeff_C, if_neg hn']
      split_ifs <;> norm_num
    · rw [hd]; exact_mod_cast hk
    · rw [Ideal.span_singleton_pow, Ideal.mem_span_singleton, coeff_sub, coeff_X_pow, coeff_C, if_neg hk.ne]; norm_num
  have e : (X ^ k - C 10 : ℤ[X]).map (Int.castRingHom ℚ) = X ^ k - C 10 := by
    rw [Polynomial.map_sub, Polynomial.map_pow, map_X, Polynomial.map_C]
    simp
  exact e ▸ (IsPrimitive.Int.irreducible_iff_irreducible_map_cast hm.isPrimitive).mp hz

/-- A whole combination P of powers below the k-th of the k-th root of 10 is at least M^(1 − k) in magnitude, where M bounds it
at every complex k-th root of 10: the product over these is a whole number other than 0. -/
theorem root_separation (k : ℕ) (hk : 0 < k) (P : ℤ[X]) (hP : P ≠ 0) (hdeg : P.natDegree < k) (M : ℝ)
    (hM : ∀ z : ℂ, z ^ k = 10 → ‖aeval z P‖ ≤ M) (a : ℝ) (ha : a ^ k = 10) : 1 ≤ |aeval a P| * M ^ (k - 1) := by
  classical
  have hfm : (X ^ k - C 10 : ℚ[X]).Monic := monic_X_pow_sub_C _ hk.ne'
  have hmin : minpoly ℚ a = X ^ k - C 10 :=
    (minpoly.eq_of_irreducible_of_monic (irreducible_root k hk) (by simp [ha]) hfm).symm
  have hia : IsIntegral ℚ a := ⟨X ^ k - C 10, hfm, by simp [ha]⟩
  have hdm : (minpoly ℚ a).natDegree = k := by rw [hmin]; exact natDegree_X_pow_sub_C
  have hxa : aeval a P ≠ 0 := by
    intro h
    have h1 : aeval a (P.map (algebraMap ℤ ℚ)) = 0 := by rw [aeval_map_algebraMap, h]
    have h2 := natDegree_le_of_dvd (minpoly.dvd ℚ a h1)
      ((Polynomial.map_ne_zero_iff (RingHom.injective_int (algebraMap ℤ ℚ))).mpr hP)
    have h3 : (P.map (algebraMap ℤ ℚ)).natDegree ≤ P.natDegree := natDegree_map_le
    omega
  let K := IntermediateField.adjoin ℚ {a}
  have hfd : FiniteDimensional ℚ K := IntermediateField.adjoin.finiteDimensional hia
  have hfin : Module.finrank ℚ K = k := (IntermediateField.adjoin.finrank hia).trans hdm
  let t : K := IntermediateField.AdjoinSimple.gen ℚ a
  have hta : (t : ℝ) = a := IntermediateField.AdjoinSimple.coe_gen ℚ a
  have ht : t ^ k = 10 := by
    apply Subtype.ext
    push_cast
    rw [hta, ha]; rfl
  have hcoe : ((aeval t P : K) : ℝ) = aeval a P := by
    rw [← hta]; exact (aeval_algebraMap_apply ℝ t P).symm
  have hx : aeval t P ≠ 0 := fun h => hxa (by rw [← hcoe, h]; rfl)
  have hint : IsIntegral ℤ (aeval t P) := by
    have h1 : IsIntegral ℤ t := ⟨X ^ k - C 10, monic_X_pow_sub_C _ hk.ne', by simp [ht]⟩
    exact IsIntegral.of_mem_of_fg _ h1.fg_adjoin_singleton _ (aeval_mem_adjoin_singleton ℤ t)
  obtain ⟨N, hN⟩ := IsIntegrallyClosed.isIntegral_iff.mp (Algebra.isIntegral_norm ℚ hint)
  have hN0 : N ≠ 0 := by
    rintro rfl
    exact Algebra.norm_ne_zero_iff.mpr hx (by rw [← hN]; simp)
  have hprod := Algebra.norm_eq_prod_embeddings ℚ ℂ (aeval t P)
  have hσ : ∀ σ : K →ₐ[ℚ] ℂ, σ (aeval t P) = aeval (σ t) P := fun σ =>
    (aeval_algHom_apply (σ.restrictScalars ℤ) t P).symm
  have hσt : ∀ σ : K →ₐ[ℚ] ℂ, σ t ^ k = 10 := fun σ => by rw [← map_pow, ht]; exact map_ofNat σ 10
  let s : K →ₐ[ℚ] ℂ := (Complex.ofRealAm.restrictScalars ℚ).comp K.val
  have hs : s (aeval t P) = ((aeval a P : ℝ) : ℂ) := by rw [← hcoe]; rfl
  have hcard : Fintype.card (K →ₐ[ℚ] ℂ) = k := by rw [AlgHom.card ℚ K ℂ, hfin]
  have h1 : (1 : ℝ) ≤ ‖∏ σ : K →ₐ[ℚ] ℂ, σ (aeval t P)‖ := by
    rw [← hprod, ← hN]
    simp only [eq_intCast, map_intCast, Complex.norm_intCast]
    exact_mod_cast Int.one_le_abs hN0
  rw [← Finset.mul_prod_erase _ _ (Finset.mem_univ s), norm_mul, norm_prod, hs, Complex.norm_real,
    Real.norm_eq_abs] at h1
  refine h1.trans (mul_le_mul_of_nonneg_left ?_ (abs_nonneg _))
  calc ∏ σ ∈ Finset.univ.erase s, ‖σ (aeval t P)‖ ≤ ∏ _σ ∈ Finset.univ.erase s, M :=
        Finset.prod_le_prod (fun _ _ => norm_nonneg _) fun σ _ => by rw [hσ]; exact hM _ (hσt σ)
    _ = M ^ (k - 1) := by rw [Finset.prod_const, Finset.card_erase_of_mem (Finset.mem_univ s), Finset.card_univ, hcard]

/-! ## A factor as a function of the root -/

/-- The 160th root of 10. -/
noncomputable def root10 : ℝ := (10 : ℝ) ^ ((1 : ℝ) / 160)

theorem root10_pow (e : ℕ) : root10 ^ e = (10 : ℝ) ^ ((e : ℝ) / 160) := by
  unfold root10
  rw [← Real.rpow_natCast, ← Real.rpow_mul (by norm_num)]
  congr 1
  ring

theorem root10_pow_160 : root10 ^ 160 = 10 := by
  rw [root10_pow]
  norm_num

theorem one_le_root10 : 1 ≤ root10 := Real.one_le_rpow (by norm_num) (by norm_num)

/-- The sum of c × x^e over the terms. -/
noncomputable def sumAt (x : ℝ) (l : List (ℕ × ℕ)) : ℝ := (l.map fun t => (t.2 : ℝ) * x ^ t.1).sum

/-- The sum of the coefficients. -/
def coeffs (l : List (ℕ × ℕ)) : ℕ := (l.map (·.2)).sum

@[simp] theorem sumAt_nil (x : ℝ) : sumAt x [] = 0 := rfl

@[simp] theorem sumAt_cons (x : ℝ) (t : ℕ × ℕ) (l : List (ℕ × ℕ)) : sumAt x (t :: l) = t.2 * x ^ t.1 + sumAt x l := rfl

@[simp] theorem coeffs_nil : coeffs [] = 0 := rfl

@[simp] theorem coeffs_cons (t : ℕ × ℕ) (l : List (ℕ × ℕ)) : coeffs (t :: l) = t.2 + coeffs l := rfl

theorem Gain.toReal_eq (g : Gain) : g.toReal = sumAt root10 g.terms / g.den := by
  unfold Gain.toReal sumAt
  simp only [root10_pow]

theorem sumAt_mono {x y : ℝ} (hx : 0 ≤ x) (h : x ≤ y) (l : List (ℕ × ℕ)) : sumAt x l ≤ sumAt y l := by
  induction l with
  | nil => simp
  | cons t l ih =>
    simp only [sumAt_cons]
    have := pow_le_pow_left₀ hx h t.1
    gcongr

theorem sumAt_le {y B : ℝ} (l : List (ℕ × ℕ)) (hl : ∀ t ∈ l, y ^ t.1 ≤ B) : sumAt y l ≤ coeffs l * B := by
  induction l with
  | nil => simp
  | cons t l ih =>
    have h1 := hl t List.mem_cons_self
    have h2 := ih fun u hu => hl u (List.mem_cons_of_mem _ hu)
    have h3 : (t.2 : ℝ) * y ^ t.1 ≤ t.2 * B := by gcongr
    simp only [sumAt_cons, coeffs_cons, Nat.cast_add]
    linarith

/-- The slope of a power between 0 and 1 + x. -/
theorem pow_sub_pow_le {x y : ℝ} (hx : 0 ≤ x) (h : x ≤ y) (e : ℕ) : y ^ e - x ^ e ≤ e * y ^ (e - 1) * (y - x) := by
  induction e with
  | zero => simp
  | succ e ih =>
    have hy := hx.trans h
    have h1 : x ^ e ≤ y ^ e := pow_le_pow_left₀ hx h e
    have h2 : y * (e * y ^ (e - 1) * (y - x)) = e * y ^ e * (y - x) := by
      cases e with
      | zero => simp
      | succ k => simp only [Nat.add_sub_cancel]; ring
    have h3 := mul_le_mul_of_nonneg_left ih hy
    rw [h2] at h3
    have h4 : (y - x) * x ^ e ≤ (y - x) * y ^ e := mul_le_mul_of_nonneg_left h1 (by linarith)
    simp only [Nat.add_sub_cancel, Nat.cast_add, Nat.cast_one]
    nlinarith [pow_succ y e, pow_succ x e]

theorem sumAt_slope {x y B : ℝ} (hx : 0 ≤ x) (h : x ≤ y) (l : List (ℕ × ℕ)) (hl : ∀ t ∈ l, t.1 < 160)
    (hb : ∀ e < 160, y ^ e ≤ B) : sumAt y l - sumAt x l ≤ coeffs l * (159 * B * (y - x)) := by
  induction l with
  | nil => simp
  | cons t l ih =>
    have h1 := ih fun u hu => hl u (List.mem_cons_of_mem _ hu)
    have ht := hl t List.mem_cons_self
    have h2 := pow_sub_pow_le hx h t.1
    have h3 : (t.1 : ℝ) * y ^ (t.1 - 1) * (y - x) ≤ 159 * B * (y - x) := by
      have a : (t.1 : ℝ) ≤ 159 := by exact_mod_cast Nat.le_of_lt_succ ht
      have b := hb (t.1 - 1) (by omega)
      have c : 0 ≤ y ^ (t.1 - 1) := pow_nonneg (hx.trans h) _
      exact mul_le_mul_of_nonneg_right (mul_le_mul a b c (by norm_num)) (by linarith)
    have h4 : (t.2 : ℝ) * (y ^ t.1 - x ^ t.1) ≤ t.2 * (159 * B * (y - x)) :=
      mul_le_mul_of_nonneg_left (h2.trans h3) (Nat.cast_nonneg _)
    simp only [sumAt_cons, coeffs_cons, Nat.cast_add]
    linarith

/-! ## The enclosure -/

/-- `rootBits n` is the whole part of 2^n × the root. -/
theorem Gain.rootBits_spec (n : ℕ) :
    Gain.rootBits n ^ 160 ≤ 10 * 2 ^ (160 * n) ∧ 10 * 2 ^ (160 * n) < (Gain.rootBits n + 1) ^ 160 := by
  induction n with
  | zero => unfold Gain.rootBits; constructor <;> norm_num
  | succ n ih =>
    have e : 10 * 2 ^ (160 * (n + 1)) = 2 ^ 160 * (10 * 2 ^ (160 * n)) := by rw [Nat.mul_add, pow_add]; ring
    unfold Gain.rootBits
    dsimp only
    split
    · next h =>
      refine ⟨h, ?_⟩
      rw [show 2 * Gain.rootBits n + 1 + 1 = 2 * (Gain.rootBits n + 1) by ring, mul_pow, e]
      exact Nat.mul_lt_mul_of_pos_left ih.2 (by positivity)
    · next h =>
      refine ⟨?_, not_le.mp h⟩
      rw [mul_pow, e]
      exact Nat.mul_le_mul_left _ ih.1

/-- The root lies between the two ends of its enclosure by n bits. -/
theorem Gain.rootBits_encloses (n : ℕ) :
    (Gain.rootBits n : ℝ) / 2 ^ n ≤ root10 ∧ root10 ≤ ((Gain.rootBits n + 1 : ℕ) : ℝ) / 2 ^ n := by
  obtain ⟨a, b⟩ := Gain.rootBits_spec n
  have p : (0 : ℝ) < (2 ^ n) ^ 160 := by positivity
  have h0 : (0 : ℝ) ≤ root10 := zero_le_one.trans one_le_root10
  have e : ((2 : ℝ) ^ n) ^ 160 = 2 ^ (160 * n) := by rw [← pow_mul, mul_comm]
  have a' : (Gain.rootBits n : ℝ) ^ 160 ≤ 10 * 2 ^ (160 * n) := by exact_mod_cast a
  have b' : (10 : ℝ) * 2 ^ (160 * n) ≤ ((Gain.rootBits n + 1 : ℕ) : ℝ) ^ 160 := by exact_mod_cast b.le
  constructor
  · refine le_of_pow_le_pow_left₀ (n := 160) (by norm_num) h0 ?_
    rw [div_pow, root10_pow_160, div_le_iff₀ p, e]
    exact a'
  · have hy : (0 : ℝ) ≤ ((Gain.rootBits n + 1 : ℕ) : ℝ) / 2 ^ n := div_nonneg (Nat.cast_nonneg _) (by positivity)
    refine le_of_pow_le_pow_left₀ (n := 160) (by norm_num) hy ?_
    rw [div_pow, root10_pow_160, le_div_iff₀ p, e]
    exact b'

theorem Gain.scaledSum_eq (r n : ℕ) (l : List (ℕ × ℕ)) (hl : ∀ t ∈ l, t.1 < 160) :
    (Gain.scaledSum r n l : ℝ) = 2 ^ (159 * n) * sumAt (r / 2 ^ n) l := by
  unfold Gain.scaledSum
  have key : ∀ (l : List (ℕ × ℕ)) (a : ℕ), (∀ t ∈ l, t.1 < 160) →
      ((l.foldl (fun a t => a + t.2 * r ^ t.1 * 2 ^ (n * (159 - t.1))) a : ℕ) : ℝ) =
        a + 2 ^ (159 * n) * sumAt (r / 2 ^ n) l := by
    intro l
    induction l with
    | nil => intro a _; simp
    | cons t l ih =>
      intro a hl
      have ht := hl t List.mem_cons_self
      have hp : (2 : ℝ) ^ (159 * n) = 2 ^ (n * (159 - t.1)) * (2 ^ n) ^ t.1 := by
        rw [← pow_mul, ← pow_add, ← Nat.mul_add, Nat.sub_add_cancel (Nat.le_of_lt_succ ht), mul_comm]
      have hz : ((2 : ℝ) ^ n) ^ t.1 ≠ 0 := by positivity
      rw [List.foldl_cons, ih _ fun u hu => hl u (List.mem_cons_of_mem _ hu)]
      simp only [sumAt_cons, Nat.cast_add, Nat.cast_mul, Nat.cast_pow, Nat.cast_ofNat]
      have : (2 : ℝ) ^ (159 * n) * (t.2 * ((r : ℝ) / 2 ^ n) ^ t.1) = t.2 * r ^ t.1 * 2 ^ (n * (159 - t.1)) := by
        rw [hp, div_pow]
        field_simp
      rw [mul_add, this]
      ring
  simpa using key l 0 hl

/-- The whole part of m × (sum at r / 2^n) / den + 1/2, as `tryFloor` computes it. -/
theorem Gain.floor_eq (r n m : ℕ) (g : Gain) (h : g.wf) :
    (((2 * m * Gain.scaledSum r n g.terms + g.den * 2 ^ (159 * n)) / (2 * g.den * 2 ^ (159 * n)) : ℕ) : ℤ) =
      ⌊(m : ℝ) * (sumAt (r / 2 ^ n) g.terms / g.den) + 1 / 2⌋ := by
  have hd : (g.den : ℝ) ≠ 0 := by exact_mod_cast h.1
  have h1 : (((2 * m * Gain.scaledSum r n g.terms + g.den * 2 ^ (159 * n) : ℕ) : ℝ) /
      ((2 * g.den * 2 ^ (159 * n) : ℕ) : ℝ)) = (m : ℝ) * (sumAt (r / 2 ^ n) g.terms / g.den) + 1 / 2 := by
    push_cast
    rw [Gain.scaledSum_eq r n g.terms h.2]
    field_simp
  rw [← h1, ← Nat.floor_div_eq_div (K := ℝ), ← Int.natCast_floor_eq_floor (by positivity)]

/-- What an enclosure decides is right. -/
theorem Gain.tryFloor_sound (n m v : ℕ) (g : Gain) (h : g.wf) (hv : Gain.tryFloor n m g = some v) :
    (v : ℤ) = ⌊(m : ℝ) * g.toReal + 1 / 2⌋ := by
  unfold Gain.tryFloor at hv
  dsimp only at hv
  split at hv
  · next e =>
    cases hv
    obtain ⟨a, b⟩ := Gain.rootBits_encloses n
    have lo := Gain.floor_eq (Gain.rootBits n) n m g h
    have hi := Gain.floor_eq (Gain.rootBits n + 1) n m g h
    rw [← e] at hi
    rw [Gain.toReal_eq]
    have h0 : (0 : ℝ) ≤ (Gain.rootBits n : ℝ) / 2 ^ n := by positivity
    refine le_antisymm ?_ ?_
    · rw [lo]
      have := sumAt_mono h0 a g.terms
      exact Int.floor_le_floor (by gcongr)
    · rw [hi]
      have := sumAt_mono (zero_le_one.trans one_le_root10) b g.terms
      exact Int.floor_le_floor (by gcongr)
  · cases hv

/-! ## The number of bits that suffices -/

/-- The combination 2 m × sum + b, as a polynomial. -/
noncomputable def polyOf (m : ℕ) (b : ℤ) (l : List (ℕ × ℕ)) : ℤ[X] :=
  (l.map fun t => C ((2 * m * t.2 : ℕ) : ℤ) * X ^ t.1).sum + C b

theorem polyOf_degree (m : ℕ) (b : ℤ) (l : List (ℕ × ℕ)) (hl : ∀ t ∈ l, t.1 < 160) : (polyOf m b l).natDegree < 160 := by
  have key : ((l.map fun t => C ((2 * m * t.2 : ℕ) : ℤ) * X ^ t.1).sum : ℤ[X]).natDegree < 160 := by
    induction l with
    | nil => simp
    | cons t l ih =>
      rw [List.map_cons, List.sum_cons]
      refine lt_of_le_of_lt (natDegree_add_le _ _) (max_lt ?_ (ih fun u hu => hl u (List.mem_cons_of_mem _ hu)))
      exact lt_of_le_of_lt (natDegree_C_mul_X_pow_le _ _) (hl t List.mem_cons_self)
  unfold polyOf
  refine lt_of_le_of_lt (natDegree_add_le _ _) (max_lt key ?_)
  rw [natDegree_C]
  norm_num

theorem polyOf_real (m : ℕ) (b : ℤ) (l : List (ℕ × ℕ)) (x : ℝ) : aeval x (polyOf m b l) = 2 * m * sumAt x l + b := by
  unfold polyOf
  rw [map_add, aeval_C]
  congr 1
  induction l with
  | nil => simp
  | cons t l ih =>
    rw [List.map_cons, List.sum_cons, map_add, ih, map_mul, aeval_C, aeval_X_pow, eq_intCast, sumAt_cons]
    push_cast
    ring

theorem polyOf_complex (m : ℕ) (b : ℤ) (l : List (ℕ × ℕ)) (hl : ∀ t ∈ l, t.1 < 160) (z : ℂ) (hz : z ^ 160 = 10) :
    ‖aeval z (polyOf m b l)‖ ≤ 20 * m * coeffs l + |(b : ℝ)| := by
  have h160 : ‖z‖ ^ 160 = 10 := by rw [← norm_pow, hz]; simp
  have h1 : 1 ≤ ‖z‖ := by
    by_contra hlt
    have := pow_lt_one₀ (norm_nonneg z) (not_le.mp hlt) (n := 160) (by norm_num)
    linarith
  have he : ∀ e < 160, ‖z‖ ^ e ≤ 10 := fun e h => h160 ▸ pow_le_pow_right₀ h1 h.le
  unfold polyOf
  rw [map_add, aeval_C]
  refine (norm_add_le _ _).trans (add_le_add ?_ (by simp))
  induction l with
  | nil => simp
  | cons t l ih =>
    rw [List.map_cons, List.sum_cons, map_add, coeffs_cons]
    refine (norm_add_le _ _).trans ?_
    have h2 := ih fun u hu => hl u (List.mem_cons_of_mem _ hu)
    have h3 : ‖aeval z (C ((2 * m * t.2 : ℕ) : ℤ) * X ^ t.1)‖ ≤ 20 * m * t.2 := by
      have := he t.1 (hl t List.mem_cons_self)
      have e : ‖aeval z (C ((2 * m * t.2 : ℕ) : ℤ) * X ^ t.1)‖ = 2 * m * t.2 * ‖z‖ ^ t.1 := by
        rw [map_mul, aeval_C, aeval_X_pow, eq_intCast, norm_mul, norm_pow, Int.cast_natCast, Complex.norm_natCast]
        push_cast
        rfl
      rw [e]
      have : (2 * m * t.2 : ℝ) * ‖z‖ ^ t.1 ≤ 2 * m * t.2 * 10 := by gcongr
      linarith
    rw [Nat.cast_add, mul_add]
    exact add_le_add h3 h2

/-- A power of the upper end of an enclosure by 8 bits or more. -/
theorem upper_pow_le {y w : ℝ} (hw : w ≤ 1 / 256) (h1 : 1 ≤ y) (hy : y ≤ root10 + w) (e : ℕ) (he : e < 160) :
    y ^ e ≤ 20 := by
  have hr := one_le_root10
  have h2 : y ≤ root10 * (257 / 256) := by linarith
  have h3 : root10 ^ 159 ≤ 10 := root10_pow_160 ▸ pow_le_pow_right₀ hr (by norm_num)
  calc y ^ e ≤ y ^ 159 := pow_le_pow_right₀ h1 (Nat.le_of_lt_succ he)
    _ ≤ (root10 * (257 / 256)) ^ 159 := pow_le_pow_left₀ (zero_le_one.trans h1) h2 159
    _ = root10 ^ 159 * (257 / 256) ^ 159 := mul_pow _ _ _
    _ ≤ 10 * 2 := by gcongr; norm_num
    _ = 20 := by norm_num

/-- The bits of `sureBits`, against what the separation of the root asks for. -/
theorem Gain.sureBits_large (m : ℕ) (g : Gain) :
    8 ≤ Gain.sureBits m g ∧
      (6360 * (m * coeffs g.terms) : ℝ) * (60 * (m * coeffs g.terms)) ^ 159 < 2 ^ Gain.sureBits m g := by
  have hsum : ∀ (l : List (ℕ × ℕ)) (a : ℕ), l.foldl (fun a t => a + t.2) a = a + coeffs l := by
    intro l
    induction l with
    | nil => intro a; rfl
    | cons t l ih => intro a; rw [List.foldl_cons, ih, coeffs_cons, Nat.add_assoc]
  unfold Gain.sureBits
  rw [hsum]
  set S := 100 * (m + 1) * (g.den + coeffs g.terms) with hS
  refine ⟨by omega, ?_⟩
  have hc : m * coeffs g.terms ≤ S := by
    rw [hS]
    calc m * coeffs g.terms ≤ (m + 1) * (g.den + coeffs g.terms) := Nat.mul_le_mul (by omega) (by omega)
      _ ≤ 100 * ((m + 1) * (g.den + coeffs g.terms)) := by omega
      _ = _ := by ring
  have hlog : S < 2 ^ (Nat.log2 S + 1) := Nat.lt_log2_self
  have h1 : (m * coeffs g.terms : ℝ) ≤ S := by exact_mod_cast hc
  have h2 : (S : ℝ) < 2 ^ (Nat.log2 S + 1) := by exact_mod_cast hlog
  have h0 : (0 : ℝ) ≤ m * coeffs g.terms := by positivity
  generalize (m * coeffs g.terms : ℝ) = c at h0 h1
  generalize Nat.log2 S = n at h2
  have h3 : 60 * c < 60 * 2 ^ (n + 1) := by linarith
  have e : ((2 : ℝ) ^ (160 * (n + 8))) = (2 ^ (n + 8)) ^ 160 := by rw [← pow_mul, mul_comm]
  rw [e]
  calc 6360 * c * (60 * c) ^ 159 = 106 * (60 * c) ^ 160 := by ring
    _ ≤ 2 ^ 160 * (60 * c) ^ 160 :=
      mul_le_mul_of_nonneg_right (by norm_num) (pow_nonneg (mul_nonneg (by norm_num) h0) _)
    _ = (2 * (60 * c)) ^ 160 := (mul_pow _ _ _).symm
    _ < (2 ^ (n + 8)) ^ 160 := by
      refine pow_lt_pow_left₀ ?_ (by linarith) (by norm_num)
      have : (2 : ℝ) ^ (n + 8) = 128 * 2 ^ (n + 1) := by rw [pow_add, pow_add]; ring
      rw [this]
      have : (0 : ℝ) < 2 ^ (n + 1) := by positivity
      linarith

/-- The bits of `sureBits` always decide. -/
theorem Gain.tryFloor_sure (m : ℕ) (g : Gain) (h : g.wf) : (Gain.tryFloor (Gain.sureBits m g) m g).isSome := by
  obtain ⟨hn, hlarge⟩ := Gain.sureBits_large m g
  generalize Gain.sureBits m g = n at hn hlarge
  unfold Gain.tryFloor
  dsimp only
  split
  · rfl
  next hne =>
  exfalso
  have hlo := Gain.floor_eq (Gain.rootBits n) n m g h
  have hhi := Gain.floor_eq (Gain.rootBits n + 1) n m g h
  obtain ⟨ha, hb⟩ := Gain.rootBits_encloses n
  set lo := (2 * m * Gain.scaledSum (Gain.rootBits n) n g.terms + g.den * 2 ^ (159 * n)) / (2 * g.den * 2 ^ (159 * n))
  set hi := (2 * m * Gain.scaledSum (Gain.rootBits n + 1) n g.terms + g.den * 2 ^ (159 * n)) /
    (2 * g.den * 2 ^ (159 * n))
  set x : ℝ := (Gain.rootBits n : ℝ) / 2 ^ n with hx
  set y : ℝ := ((Gain.rootBits n + 1 : ℕ) : ℝ) / 2 ^ n with hy
  have hp : (0 : ℝ) < 2 ^ n := by positivity
  have hyx : y - x = 1 / 2 ^ n := by
    rw [hx, hy]
    push_cast
    field_simp
    ring
  have hx0 : 0 ≤ x := by positivity
  have hxy : x ≤ y := by linarith [one_div_pos.mpr hp]
  have hw : 1 / (2 : ℝ) ^ n ≤ 1 / 256 := by
    have : (2 : ℝ) ^ 8 ≤ 2 ^ n := pow_le_pow_right₀ (by norm_num) hn
    exact one_div_le_one_div_of_le (by norm_num) (by linarith)
  have hpow : ∀ e < 160, y ^ e ≤ 20 := fun e he =>
    upper_pow_le hw (one_le_root10.trans hb) (by linarith) e he
  have hd : (0 : ℝ) < g.den := by exact_mod_cast Nat.pos_of_ne_zero h.1
  have hle : lo < hi := by
    refine lt_of_le_of_ne ?_ hne
    have : (lo : ℤ) ≤ hi := by
      rw [hlo, hhi]
      have := sumAt_mono hx0 hxy g.terms
      exact Int.floor_le_floor (by gcongr)
    exact_mod_cast this
  -- the whole number k lies between the two ends
  have hk1 : (m : ℝ) * (sumAt x g.terms / g.den) + 1 / 2 < (lo : ℝ) + 1 := by
    have := Int.lt_floor_add_one ((m : ℝ) * (sumAt x g.terms / g.den) + 1 / 2)
    rw [← hlo] at this
    exact_mod_cast this
  have hk2 : (lo : ℝ) + 1 ≤ m * (sumAt y g.terms / g.den) + 1 / 2 := by
    have h1 := Int.floor_le ((m : ℝ) * (sumAt y g.terms / g.den) + 1 / 2)
    rw [← hhi] at h1
    have h2 : (lo : ℝ) + 1 ≤ hi := by exact_mod_cast hle
    exact h2.trans (by exact_mod_cast h1)
  set b : ℤ := g.den * (1 - 2 * (lo + 1)) with hbdef
  have hbr : (b : ℝ) = g.den * (1 - 2 * (lo + 1)) := by rw [hbdef]; push_cast; ring
  have hPx : 2 * m * sumAt x g.terms + b < 0 := by
    have h1 : (m : ℝ) * (sumAt x g.terms / g.den) = m * sumAt x g.terms / g.den := by ring
    rw [h1, ← sub_pos] at hk1
    have h2 := mul_pos hd hk1
    have h3 : (g.den : ℝ) * (lo + 1 - (m * sumAt x g.terms / g.den + 1 / 2)) =
        g.den * (lo + 1) - m * sumAt x g.terms - g.den / 2 := by field_simp; ring
    rw [h3] at h2
    rw [hbr]
    linarith
  have hPy : 0 ≤ 2 * m * sumAt y g.terms + b := by
    have h1 : (m : ℝ) * (sumAt y g.terms / g.den) = m * sumAt y g.terms / g.den := by ring
    rw [h1, ← sub_nonneg] at hk2
    have h2 := mul_nonneg hd.le hk2
    have h3 : (g.den : ℝ) * (m * sumAt y g.terms / g.den + 1 / 2 - (lo + 1)) =
        m * sumAt y g.terms + g.den / 2 - g.den * (lo + 1) := by field_simp
    rw [h3] at h2
    rw [hbr]
    linarith
  have hP0 : polyOf m b g.terms ≠ 0 := by
    intro h0
    have := polyOf_real m b g.terms x
    rw [h0, map_zero] at this
    linarith
  have hsy := sumAt_le g.terms fun t ht => hpow t.1 (h.2 t ht)
  have hslope := sumAt_slope hx0 hxy g.terms h.2 hpow
  have hm0 : (0 : ℝ) ≤ m := Nat.cast_nonneg m
  have hlo0 : (0 : ℝ) ≤ lo := Nat.cast_nonneg _
  -- what the separation asks for
  have hbabs : |(b : ℝ)| ≤ 40 * (m * coeffs g.terms) := by
    have h1 : (b : ℝ) ≤ 0 := by
      have := sumAt_mono le_rfl hx0 g.terms
      have h2 : 0 ≤ sumAt 0 g.terms := by
        unfold sumAt
        exact List.sum_nonneg fun r hr => by
          obtain ⟨t, _, rfl⟩ := List.mem_map.mp hr
          positivity
      nlinarith
    rw [abs_of_nonpos h1]
    have := mul_le_mul_of_nonneg_left hsy hm0
    linarith
  have hM : ∀ z : ℂ, z ^ 160 = 10 → ‖aeval z (polyOf m b g.terms)‖ ≤ 60 * (m * coeffs g.terms) := fun z hz =>
    (polyOf_complex m b g.terms h.2 z hz).trans (by linarith)
  have hsep := root_separation 160 (by norm_num) (polyOf m b g.terms) hP0 (polyOf_degree m b g.terms h.2) _ hM root10
    root10_pow_160
  have habs : |aeval root10 (polyOf m b g.terms)| ≤ 6360 * (m * coeffs g.terms) * (1 / 2 ^ n) := by
    have l1 := mul_le_mul_of_nonneg_left (sumAt_mono hx0 ha g.terms) hm0
    have l2 := mul_le_mul_of_nonneg_left (sumAt_mono (zero_le_one.trans one_le_root10) hb g.terms) hm0
    have l3 := mul_le_mul_of_nonneg_left hslope hm0
    rw [hyx] at l3
    rw [polyOf_real, abs_le]
    constructor <;> linarith
  have hfin : (1 : ℝ) ≤ 6360 * (m * coeffs g.terms) * (1 / 2 ^ n) * (60 * (m * coeffs g.terms)) ^ 159 :=
    hsep.trans (mul_le_mul_of_nonneg_right habs (by positivity))
  have : (2 : ℝ) ^ n ≤ 6360 * (m * coeffs g.terms) * (60 * (m * coeffs g.terms)) ^ 159 := by
    have h1 := mul_le_mul_of_nonneg_right hfin hp.le
    calc (2 : ℝ) ^ n = 1 * 2 ^ n := (one_mul _).symm
      _ ≤ _ := h1
      _ = 6360 * (m * coeffs g.terms) * (60 * (m * coeffs g.terms)) ^ 159 := by field_simp
  linarith

/-- R72, R94: m × g rounded to the nearest integer, halves upward. -/
theorem Gain.roundNat_eq_floor (m : ℕ) (g : Gain) (h : g.wf) :
    (Gain.roundNat m g : ℤ) = ⌊(m : ℝ) * g.toReal + 1 / 2⌋ := by
  unfold Gain.roundNat
  split
  · next e => rw [Gain.toReal_eq, e]; norm_num
  · next c e =>
    have h1 := Gain.floor_eq 1 0 m g h
    rw [e] at h1
    rw [Gain.toReal_eq, e]
    simpa [Gain.scaledSum, sumAt] using h1
  · split
    · next v e => exact Gain.tryFloor_sound 64 m v g h e
    · obtain ⟨v, e⟩ := Option.isSome_iff_exists.mp (Gain.tryFloor_sure m g h)
      rw [e]
      exact Gain.tryFloor_sound _ m v g h e

end Sys2Proof.Machine
end

