-- ==== Sys2Proof/Laws/Layout.lean ====
section
/-!
SUPPORT. What the byte layouts say once: a field's bytes read back, the check of a built frame, and the reading of cells.
-/

set_option Elab.async false

namespace Sys2Proof.Machine

@[simp] theorem length_bytesOf (n v : Nat) : (bytesOf n v).length = n := by
  induction n with
  | zero => rfl
  | succ n ih => simp [bytesOf, ih]

theorem numberOf_foldl (bs : List Byte) (a : Nat) :
    bs.foldl (fun a b => a * 256 + b.toNat) a = a * 256 ^ bs.length + numberOf bs := by
  induction bs generalizing a with
  | nil => simp [numberOf]
  | cons b bs ih =>
    simp only [List.foldl_cons, List.length_cons, numberOf, Nat.zero_mul, Nat.zero_add]
    rw [ih, ih b.toNat, Nat.pow_succ]
    ring

theorem numberOf_cons (b : Byte) (bs : List Byte) : numberOf (b :: bs) = b.toNat * 256 ^ bs.length + numberOf bs := by
  have := numberOf_foldl bs b.toNat
  simpa [numberOf] using this

/-- The bytes of a field hold its value modulo the field's range. -/
theorem numberOf_bytesOf (n v : Nat) : numberOf (bytesOf n v) = v % 256 ^ n := by
  induction n with
  | zero => simp [bytesOf, numberOf, Nat.mod_one]
  | succ n ih =>
    rw [bytesOf, numberOf_cons, ih, length_bytesOf]
    have h : 2 ^ 8 = 256 := rfl
    rw [BitVec.toNat_ofNat, h, Nat.pow_succ, Nat.mod_mul, Nat.mul_comm (256 ^ n)]
    omega

theorem numberOf_lt (bs : List Byte) : numberOf bs < 256 ^ bs.length := by
  induction bs with
  | nil => simp [numberOf]
  | cons b bs ih =>
    rw [numberOf_cons, List.length_cons, Nat.pow_succ]
    have hb : b.toNat < 256 := b.isLt
    have : b.toNat * 256 ^ bs.length + 256 ^ bs.length ≤ 256 * 256 ^ bs.length := by
      rw [← Nat.succ_mul]; exact Nat.mul_le_mul_right _ hb
    omega

/-- Bytes are the bytes of the number they hold. -/
theorem bytesOf_numberOf (bs : List Byte) : bytesOf bs.length (numberOf bs) = bs := by
  induction bs with
  | nil => rfl
  | cons b bs ih =>
    have hlt := numberOf_lt bs
    have hpos : 0 < 256 ^ bs.length := Nat.pos_of_ne_zero (by simp)
    have hb : b.toNat < 256 := b.isLt
    rw [List.length_cons, bytesOf, numberOf_cons]
    congr 1
    · apply BitVec.eq_of_toNat_eq
      rw [BitVec.toNat_ofNat, Nat.add_comm, Nat.add_mul_div_right _ _ hpos, Nat.div_eq_of_lt hlt]
      simpa using hb
    · have key : ∀ n v k : Nat, bytesOf n (k * 256 ^ n + v) = bytesOf n v := by
        intro n
        induction n with
        | zero => intro v k; rfl
        | succ n ihn =>
          intro v k
          have hp : 0 < 256 ^ n := Nat.pos_of_ne_zero (by simp)
          have e : k * 256 ^ (n + 1) + v = (k * 256) * 256 ^ n + v := by rw [Nat.pow_succ]; ring
          rw [e, bytesOf, bytesOf, ihn]
          congr 1
          apply BitVec.eq_of_toNat_eq
          rw [Nat.add_comm, Nat.add_mul_div_right _ _ hp, BitVec.toNat_ofNat, BitVec.toNat_ofNat]
          have : 2 ^ 8 = 256 := rfl
          omega
      rw [key, ih]

/-- A bit vector's field of enough bytes reads back. -/
theorem fieldOf_bytesOf {w : Nat} (n : Nat) (v : BitVec w) (h : 2 ^ w ≤ 256 ^ n) :
    fieldOf w (bytesOf n v.toNat) = v := by
  apply BitVec.eq_of_toNat_eq
  rw [fieldOf, numberOf_bytesOf, BitVec.toNat_ofNat, Nat.mod_eq_of_lt (lt_of_lt_of_le v.isLt h),
    Nat.mod_eq_of_lt v.isLt]

theorem bytesOf_two (v : Nat) : bytesOf 2 v = [BitVec.ofNat 8 (v / 256), BitVec.ofNat 8 v] := by
  simp [bytesOf]

theorem bytesOf_three (v : Nat) :
    bytesOf 3 v = [BitVec.ofNat 8 (v / 65536), BitVec.ofNat 8 (v / 256), BitVec.ofNat 8 v] := by
  simp [bytesOf]

theorem bytesOf_four (v : Nat) : bytesOf 4 v =
    [BitVec.ofNat 8 (v / 16777216), BitVec.ofNat 8 (v / 65536), BitVec.ofNat 8 (v / 256), BitVec.ofNat 8 v] := by
  simp [bytesOf]

/-! ## Bits and bytes of a transfer (R169) -/

@[simp] theorem length_bitsOfByte (b : Byte) : (bitsOfByte b).length = 8 := by simp [bitsOfByte]

@[simp] theorem bitsOf_nil : bitsOf [] = [] := rfl

theorem bitsOf_cons (b : Byte) (bs : List Byte) : bitsOf (b :: bs) = bitsOfByte b ++ bitsOf bs := rfl

theorem bitsOf_append (as bs : List Byte) : bitsOf (as ++ bs) = bitsOf as ++ bitsOf bs := List.flatMap_append

@[simp] theorem length_bitsOf (bs : List Byte) : (bitsOf bs).length = 8 * bs.length := by
  induction bs with
  | nil => rfl
  | cons b bs ih => rw [bitsOf_cons, List.length_append, length_bitsOfByte, ih, List.length_cons]; omega

/-- A byte's bits are gathered into that byte. -/
theorem bytesIn_bitsOfByte (b : Byte) (rest : List Bool) : bytesIn (bitsOfByte b ++ rest) = b :: bytesIn rest := by
  have e : bitsOfByte b = [b.getMsbD 0, b.getMsbD 1, b.getMsbD 2, b.getMsbD 3, b.getMsbD 4, b.getMsbD 5, b.getMsbD 6,
      b.getMsbD 7] := rfl
  rw [e]
  change byteOfBits _ _ _ _ _ _ _ _ :: bytesIn rest = _
  congr 1
  revert b
  decide +kernel

/-- R169: the bytes gathered from the bits of a run of bytes with any bits after them. -/
theorem bytesIn_bitsOf (bs : List Byte) (rest : List Bool) : bytesIn (bitsOf bs ++ rest) = bs ++ bytesIn rest := by
  induction bs with
  | nil => rfl
  | cons b bs ih => rw [bitsOf_cons, List.append_assoc, bytesIn_bitsOfByte, ih, List.cons_append]

/-- The bits that were gathered into bytes are the bits of those bytes. -/
theorem bitsOf_bytesIn (l : List Bool) : bitsOf (bytesIn l) = l.take (8 * (bytesIn l).length) := by
  induction l using bytesIn.induct with
  | case1 a b c d e f g h rest ih =>
    rw [bytesIn, bitsOf_cons, ih, List.length_cons]
    have : 8 * ((bytesIn rest).length + 1) = 8 * (bytesIn rest).length + 8 := by omega
    rw [this]
    have e : bitsOfByte (byteOfBits a b c d e f g h) = [a, b, c, d, e, f, g, h] := by
      revert a b c d e f g h; decide +kernel
    rw [e]
    rfl
  | case2 l h => simp [bytesIn]

/-- Eight bits make a byte. -/
theorem length_bytesIn (l : List Bool) : (bytesIn l).length = l.length / 8 := by
  induction l using bytesIn.induct with
  | case1 a b c d e f g h rest ih => rw [bytesIn, List.length_cons, ih]; simp only [List.length_cons]; omega
  | case2 l h =>
    rcases l with _ | ⟨a, _ | ⟨b, _ | ⟨c, _ | ⟨d, _ | ⟨e, _ | ⟨f, _ | ⟨g, _ | ⟨i, rest⟩⟩⟩⟩⟩⟩⟩⟩ <;>
      first | exact (h _ _ _ _ _ _ _ _ _ rfl).elim | simp [bytesIn]

/-- R182: a check over joined bytes goes on from the check over the first. -/
theorem crc16_append (a b : List Byte) : crc16 (a ++ b) = b.foldl crcByte (crc16 a) := List.foldl_append ..

theorem length_message (k : Byte) (p : List Byte) : (message k p).length = 5 + p.length := by
  simp [message, Nat.add_comm]; omega

/-- R20: a frame this station builds carries a right check and its header fields. -/
@[simp] theorem checkRight_buildFrame (e o : Nat) (t : BitVec 8) (c : Vector (BitVec 64) 4) (l : Vector Lane 128) :
    checkRight (buildFrame e t o c l) = true := by
  unfold checkRight frameCheck buildFrame
  exact beq_self_eq_true _

@[simp] theorem buildFrame_emitter (e o : Nat) (t : BitVec 8) (c : Vector (BitVec 64) 4) (l : Vector Lane 128) :
    (buildFrame e t o c l).emitter = BitVec.ofNat 8 e := rfl
@[simp] theorem buildFrame_tag (e o : Nat) (t : BitVec 8) (c : Vector (BitVec 64) 4) (l : Vector Lane 128) :
    (buildFrame e t o c l).tag = t := rfl
@[simp] theorem buildFrame_origin (e o : Nat) (t : BitVec 8) (c : Vector (BitVec 64) 4) (l : Vector Lane 128) :
    (buildFrame e t o c l).origin = BitVec.ofNat 8 o := rfl
@[simp] theorem buildFrame_cells (e o : Nat) (t : BitVec 8) (c : Vector (BitVec 64) 4) (l : Vector Lane 128) :
    (buildFrame e t o c l).cells = c := rfl
@[simp] theorem buildFrame_lanes (e o : Nat) (t : BitVec 8) (c : Vector (BitVec 64) 4) (l : Vector Lane 128) :
    (buildFrame e t o c l).lanes = l := rfl

/-- A frame whose check is not the CRC of its bytes is not good. -/
theorem Ring.good_eq_false {f : WireFrame} {r : Ring} (h : checkRight f = false) : r.good f = false := by
  simp [Ring.good, h]

/-- A cell of zeros is empty (R42). -/
@[simp] theorem readCell_zero : readCell 0 = .empty := by decide

@[simp] theorem kindOfCode?_kindCode (k : NoticeKind) : kindOfCode? (kindCode k) = some k := by cases k <;> rfl

@[simp] theorem Mark.ofCode?_code (m : Mark) : Mark.ofCode? m.code = some m := by cases m <;> rfl

end Sys2Proof.Machine
end

