-- ==== Sys2Proof/Laws/Passes.lean ====
section
/-!
SUPPORT. Everything an applied value, and the closing of one pass or of all, does to the open passes and the pass record queue
(R120, R132).
-/

set_option Elab.async false

namespace Sys2Proof.Machine

/-! ## Applied values -/

/-- R120: a change handed on reaches STRIP, HOME, NOTE and the drive list, and neither AUTO nor TAKE. -/
theorem Desk.auto_handOn (e : Env) (c : Fin 176) (d : Desk) :
    (d.handOn e c).auto = d.auto ∧ (d.handOn e c).take = d.take := by
  unfold Desk.handOn
  dsimp only
  split
  · split <;> exact ⟨rfl, rfl⟩
  · exact ⟨rfl, rfl⟩
  · exact ⟨rfl, rfl⟩
  · exact ⟨rfl, rfl⟩
  · split <;> exact ⟨rfl, rfl⟩
  · exact ⟨rfl, rfl⟩

/-- R120: an applied value decided afresh changes that value of that control and nothing else of AUTO and TAKE. -/
theorem Desk.control_apply (e : Env) (c : Fin 176) (v : Value) (d : Desk) :
    (d.apply e c v).take = d.take ∧
      ∀ j, (d.apply e c v).control j = if j = c then { d.control c with applied := v } else d.control j := by
  unfold Desk.apply
  split
  · next h =>
    refine ⟨rfl, fun j => ?_⟩
    split
    · next g => subst g; rw [← h]
    · rfl
  · obtain ⟨a, b⟩ := Desk.auto_handOn e c (d.setControl c { d.control c with applied := v })
    exact ⟨b, fun j => (congrArg (·.controls[j]) a).trans (Desk.control_setControl c j _ d)⟩

theorem Desk.take_decideApplied (e : Env) (c : Fin 176) (d : Desk) : (d.decideApplied e c).take = d.take :=
  (Desk.control_apply e c _ d).1

theorem Desk.openPass_decideApplied (e : Env) (c j : Fin 176) (d : Desk) :
    ((d.decideApplied e c).control j).openPass = (d.control j).openPass := by
  unfold Desk.decideApplied
  rw [(Desk.control_apply e c _ d).2]
  split
  · next h => rw [h]
  · rfl

/-! ## Closing (R132) -/

/-- The open-pass count and TAKE's word of it reach no control and no record. -/
theorem Desk.control_countClosed (j : Fin 176) (d : Desk) :
    d.countClosed.control j = d.control j ∧ d.countClosed.take.queue = d.take.queue := by
  unfold Desk.countClosed
  dsimp only
  split
  · refine ⟨rfl, ?_⟩
    unfold Take.lastPassClosed Take.closeOpen
    dsimp only
    split <;> rfl
  · exact ⟨rfl, rfl⟩

/-- R132: the control's pass, if any, is open no more, and its record joins the queue's newest end; other passes stay. -/
theorem Desk.closePass_passes (e : Env) (r : CloseReason) (c : Fin 176) (d : Desk) :
    (d.closePass e r c).take.queue = d.take.queue ++ ((d.control c).openPass.map fun p => p.record c r).toList ∧
      ∀ j, ((d.closePass e r c).control j).openPass = if j = c then none else (d.control j).openPass := by
  unfold Desk.closePass
  dsimp only
  split
  · next h =>
    refine ⟨by simp [h], fun j => ?_⟩
    split
    · next g => rw [g, h]
    · rfl
  · next p h =>
    refine ⟨?_, fun j => ?_⟩
    · rw [Desk.take_decideApplied, (Desk.control_countClosed c _).2, h]
      rfl
    · rw [Desk.openPass_decideApplied, (Desk.control_countClosed j _).1, Desk.control_setControl]
      split <;> rfl

/-- R132: closing in the order of a list of controls. -/
theorem Desk.each_closePass (e : Env) (r : CloseReason) (l : List (Fin 176)) (hl : l.Nodup) (d : Desk) :
    (d.each l (Desk.closePass e r)).take.queue =
        d.take.queue ++ l.filterMap (fun c => (d.control c).openPass.map fun p => p.record c r) ∧
      ∀ j, ((d.each l (Desk.closePass e r)).control j).openPass = if j ∈ l then none else (d.control j).openPass := by
  induction l generalizing d with
  | nil => exact ⟨by simp [Desk.each], fun j => by simp [Desk.each]⟩
  | cons c l ih =>
    obtain ⟨hc, hl⟩ := List.nodup_cons.mp hl
    obtain ⟨q, p⟩ := Desk.closePass_passes e r c d
    obtain ⟨q', p'⟩ := ih hl (d.closePass e r c)
    have step : d.each (c :: l) (Desk.closePass e r) = (d.closePass e r c).each l (Desk.closePass e r) := rfl
    have same : l.filterMap (fun j => ((d.closePass e r c).control j).openPass.map fun p => p.record j r) =
        l.filterMap (fun j => (d.control j).openPass.map fun p => p.record j r) :=
      List.filterMap_congr fun j hj => by
        have : j ≠ c := fun h => hc (h ▸ hj)
        rw [p, if_neg this]
    rw [step]
    refine ⟨?_, fun j => ?_⟩
    · rw [q', q, same, List.append_assoc]
      cases h : (d.control c).openPass <;> simp [h]
    · rw [p', p]
      by_cases g : j = c <;> by_cases k : j ∈ l <;> simp [g, k]

/-- R132: closing every open pass. -/
theorem Desk.closedBy_closeAll (e : Env) (r : CloseReason) (d : Desk) : d.closedBy r (d.closeAll e r) := by
  unfold Desk.closedBy Desk.closeAll Desk.openRecords allControls
  obtain ⟨q, p⟩ := Desk.each_closePass e r (List.finRange 176) (List.nodup_finRange 176) d
  exact ⟨fun c => by rw [p, if_pos (List.mem_finRange c)], q⟩

/-- R133: what a transport event does to the passes. -/
theorem Desk.closedBy_takeEvent (e : Env) (d : Desk) :
    d.closedBy .stop (d.takeEvent e .stop) ∧ d.closedBy .jump (d.takeEvent e .jump) ∧
      d.closedBy .reverse (d.takeEvent e .reverse) ∧ d.closedBy .ref (d.takeEvent e .refLost) ∧
      d.closedBy .ref (d.takeEvent e .clockLost) ∧ d.takeEvent e .roll = d ∧ d.takeEvent e .framing = d :=
  ⟨Desk.closedBy_closeAll e _ d, Desk.closedBy_closeAll e _ d, Desk.closedBy_closeAll e _ d,
    Desk.closedBy_closeAll e _ d, Desk.closedBy_closeAll e _ d, rfl, rfl⟩

end Sys2Proof.Machine
end

