-- ==== Sys2Proof/Laws/PerInstr.lean ====
section
/-!
SUPPORT. Statements made of each command as syntax, one lemma for each constructor.
-/

namespace Sys2Proof.Laws.Message

open Sys2Proof

/-- The payload of a well-formed Bay Link command is read back as that command, the operands at every value and with the bits
after it as many (R169, R172, 11.3).
The other rows have no message. -/
def Statement (i : Instr) : Prop :=
  ∀ k p, payloadOf i = some (k, p) → WellFormed i = true → decodePayload (tailOf i) k p = some i

theorem configure (payload : List Byte) (tail : Nat) : Statement (.configure payload tail) := by
  intro k p h w
  cases h
  exact if_pos w

theorem join (tail : Nat) : Statement (.join tail) := by
  intro k p h _
  cases h
  rfl

theorem leave (tail : Nat) : Statement (.leave tail) := by
  intro k p h _
  cases h
  rfl

theorem route (strip form bus offset bus1 offset1 bus2 offset2 : Byte) (tail : Nat) : Statement (.route strip form bus offset bus1 offset1 bus2 offset2 tail) := by
  intro k p h _
  cases h
  rfl

theorem solo (strip flags : Byte) (tail : Nat) : Statement (.solo strip flags tail) := by
  intro k p h _
  cases h
  rfl

theorem touchset (line flags interval : Byte) (tail : Nat) : Statement (.touchset line flags interval tail) := by
  intro k p h _
  cases h
  rfl

theorem map (fader form target : Byte) (tail : Nat) : Statement (.map fader form target tail) := by
  intro k p h _
  cases h
  rfl

theorem surface (form target : Byte) (value : BitVec 16) (indication : Byte) (tail : Nat) : Statement (.surface form target value indication tail) := by
  intro k p h _
  have e := Machine.fieldOf_bytesOf 2 value (by decide)
  cases h
  exact congrArg (fun v => some (Instr.surface form target v indication tail)) e

theorem drives (tail : Nat) : Statement (.drives tail) := by
  intro k p h _
  cases h
  rfl

theorem control (id mode safe glide : Byte) (tail : Nat) : Statement (.control id mode safe glide tail) := by
  intro k p h _
  cases h
  rfl

theorem window (form : Byte) (inTick outTick : BitVec 32) (tail : Nat) : Statement (.window form inTick outTick tail) := by
  intro k p h _
  have e := Machine.fieldOf_bytesOf 4 inTick (by decide)
  have e' := Machine.fieldOf_bytesOf 4 outTick (by decide)
  cases h
  exact congrArg₂ (fun v w => some (Instr.window form v w tail)) e e'

theorem abortNow (tail : Nat) : Statement (.abortNow tail) := by
  intro k p h _
  cases h
  rfl

theorem abortAtPageEnd (tail : Nat) : Statement (.abortAtPageEnd tail) := by
  intro k p h _
  cases h
  rfl

theorem span (form : Byte) (first last : BitVec 24) (tail : Nat) : Statement (.span form first last tail) := by
  intro k p h _
  have e := Machine.fieldOf_bytesOf 3 first (by decide)
  have e' := Machine.fieldOf_bytesOf 3 last (by decide)
  cases h
  exact congrArg₂ (fun v w => some (Instr.span form v w tail)) e e'

theorem deliver (payload : List Byte) (tail : Nat) : Statement (.deliver payload tail) := by
  intro k p h w
  cases h
  exact if_pos w

theorem take (tail : Nat) : Statement (.take tail) := by
  intro k p h _
  cases h
  rfl

theorem passes (tail : Nat) : Statement (.passes tail) := by
  intro k p h _
  cases h
  rfl

theorem status (tail : Nat) : Statement (.status tail) := by
  intro k p h _
  cases h
  rfl

theorem mask (set : BitVec 24) (tail : Nat) : Statement (.mask set tail) := by
  intro k p h _
  have e := Machine.fieldOf_bytesOf 3 set (by decide)
  cases h
  exact congrArg (fun v => some (Instr.mask v tail)) e

theorem restart (tail : Nat) : Statement (.restart tail) := by
  intro k p h _
  cases h
  rfl

theorem format (ldi : List Bool) : Statement (.format ldi) := fun _ _ h => nomatch h

theorem poll (clocked : Nat) : Statement (.poll clocked) := fun _ _ h => nomatch h

theorem replyFormed : Statement .replyFormed := fun _ _ h => nomatch h

theorem replyRead (clocked : Nat) : Statement (.replyRead clocked) := fun _ _ h => nomatch h

theorem linkOverrun (ldi : List Bool) : Statement (.linkOverrun ldi) := fun _ _ h => nomatch h

theorem hardwareReset : Statement .hardwareReset := fun _ _ h => nomatch h

theorem resetRise (strap : BitVec 5) (rate96 : Bool) : Statement (.resetRise strap rate96) := fun _ _ h => nomatch h

theorem sampleEvent (p : Period) : Statement (.sampleEvent p) := fun _ _ h => nomatch h

theorem clockLost : Statement .clockLost := fun _ _ h => nomatch h

theorem clockReturn : Statement .clockReturn := fun _ _ h => nomatch h

theorem frameEdge (number : FrameNo) (p : Period) : Statement (.frameEdge number p) := fun _ _ h => nomatch h

theorem flywheel : Statement .flywheel := fun _ _ h => nomatch h

theorem tick (edge : Option FrameNo) : Statement (.tick edge) := fun _ _ h => nomatch h

theorem abortFired (edge : Option FrameNo) : Statement (.abortFired edge) := fun _ _ h => nomatch h

theorem glideEnd (c : Fin 176) (edge : Option FrameNo) : Statement (.glideEnd c edge) := fun _ _ h => nomatch h

theorem rampEnd (r : FactorName) : Statement (.rampEnd r) := fun _ _ h => nomatch h

theorem touchQualified (f : Fin 32) : Statement (.touchQualified f) := fun _ _ h => nomatch h

theorem releaseQualified (f : Fin 32) : Statement (.releaseQualified f) := fun _ _ h => nomatch h

theorem frameArrival (f : WireFrame) (p : Period) : Statement (.frameArrival f p) := fun _ _ h => nomatch h

theorem badFrame (f : WireFrame) (p : Period) : Statement (.badFrame f p) := fun _ _ h => nomatch h

theorem silentSample (p : Period) : Statement (.silentSample p) := fun _ _ h => nomatch h

theorem ringBreak : Statement .ringBreak := fun _ _ h => nomatch h

theorem tagAdoption (f : WireFrame) (checkFirst : Bool) : Statement (.tagAdoption f checkFirst) := fun _ _ h => nomatch h

theorem relock (f : WireFrame) : Statement (.relock f) := fun _ _ h => nomatch h

theorem relockComplete (f : WireFrame) (checkFirst : Bool) : Statement (.relockComplete f checkFirst) := fun _ _ h => nomatch h

theorem settleEnd : Statement .settleEnd := fun _ _ h => nomatch h

theorem settleRiseEnd : Statement .settleRiseEnd := fun _ _ h => nomatch h

theorem tapFrame (f : WireFrame) (p : Period) : Statement (.tapFrame f p) := fun _ _ h => nomatch h

theorem lockPhaseEnd (f : WireFrame) : Statement (.lockPhaseEnd f) := fun _ _ h => nomatch h

theorem listenPhaseEnd (rx : Option WireFrame) : Statement (.listenPhaseEnd rx) := fun _ _ h => nomatch h

theorem firstIn : Statement .firstIn := fun _ _ h => nomatch h

theorem noticeDeadline (slot : Slot) : Statement (.noticeDeadline slot) := fun _ _ h => nomatch h

theorem holdingsTimer : Statement .holdingsTimer := fun _ _ h => nomatch h

theorem holdingsExpiry (x : Fin 24) : Statement (.holdingsExpiry x) := fun _ _ h => nomatch h

theorem leaseExpiry (b : Fin 24) : Statement (.leaseExpiry b) := fun _ _ h => nomatch h

theorem keepalive (b : Fin 24) : Statement (.keepalive b) := fun _ _ h => nomatch h

end Sys2Proof.Laws.Message
end

