-- ==== Sys2Proof/Laws/Phases.lean ====
section
/-!
SUPPORT. No phase of a sample event touches RESET, the word clock, straps, configuration, LINK, LDO or the queue.
-/

set_option Elab.async false

namespace Sys2Proof.Machine

namespace SameOutsideSample

theorem same (s : State) : SameOutsideSample s s := ⟨rfl, rfl, rfl, rfl, rfl, rfl, rfl, rfl⟩

theorem andThen {a b c : State} (h : SameOutsideSample a b) (k : SameOutsideSample b c) : SameOutsideSample a c := by
  obtain ⟨a1, a2, a3, a4, a5, a6, a7, a8⟩ := h
  obtain ⟨b1, b2, b3, b4, b5, b6, b7, b8⟩ := k
  exact ⟨b1.trans a1, b2.trans a2, b3.trans a3, b4.trans a4, b5.trans a5, b6.trans a6, b7.trans a7, b8.trans a8⟩

/-- A change of the blocks that sample events move. -/
theorem update (s : State) (pos : Pos) (ring : Ring) (play : Play) (desk : Desk) (instant : Nat)
    (stem : Vector Sample 128) (emitted : Option WireFrame) (free : Nat) :
    SameOutsideSample s { s with pos := pos, ring := ring, play := play, desk := desk, instant := instant, stem := stem,
                                 emitted := emitted, free := free } :=
  ⟨rfl, rfl, rfl, rfl, rfl, rfl, rfl, rfl⟩

/-- A run through a list of acts that each keep it. -/
theorem foldl {α : Type} (l : List α) (f : State → α → State) (h : ∀ s a, SameOutsideSample s (f s a)) (s : State) :
    SameOutsideSample s (l.foldl f s) := by
  induction l generalizing s with
  | nil => exact same s
  | cons a l ih => exact (h s a).andThen (ih (f s a))

end SameOutsideSample

open SameOutsideSample (same andThen update)

/-! ## NOTE and the roster -/

theorem State.outside_onDesk (f : Env → Desk → Desk) (s : State) : SameOutsideSample s (s.onDesk f) :=
  update s s.pos s.ring s.play _ s.instant s.stem s.emitted s.free

theorem State.outside_raise (f : Flag) (s : State) : SameOutsideSample s (s.raise f) :=
  update s s.pos s.ring s.play _ s.instant s.stem s.emitted s.free

theorem State.outside_desk (d : Desk) (s : State) : SameOutsideSample s { s with desk := d } :=
  update s s.pos s.ring s.play d s.instant s.stem s.emitted s.free

theorem State.outside_ring (r : Ring) (s : State) : SameOutsideSample s { s with ring := r } :=
  update s s.pos r s.play s.desk s.instant s.stem s.emitted s.free

theorem State.outside_applyRoster (now : StationSet) (s : State) : SameOutsideSample s (s.applyRoster now) := by
  unfold State.applyRoster
  dsimp only
  split
  · exact same s
  · exact andThen (andThen (State.outside_ring _ s) (State.outside_raise _ _)) (State.outside_onDesk _ _)

theorem State.outside_place (s : State) : SameOutsideSample s s.place.1 := by
  unfold State.place
  split
  · exact same s
  · exact State.outside_desk _ s

theorem State.outside_strip (n : Notice) (s : State) : SameOutsideSample s (s.strip n) := by
  unfold State.strip
  split
  · split
    · split
      · exact State.outside_desk _ s
      · exact same s
    · exact same s
  · exact same s

theorem State.outside_mismatch (s : State) : SameOutsideSample s s.mismatch := by
  unfold State.mismatch
  split
  · exact andThen (State.outside_ring _ s) (State.outside_raise _ _)
  · exact andThen (State.outside_ring _ s) (State.outside_raise _ _)
  · exact State.outside_raise _ s

theorem State.outside_actHoldings (n : Notice) (s : State) : SameOutsideSample s (s.actHoldings n) := by
  unfold State.actHoldings
  dsimp only
  refine andThen (State.outside_applyRoster (StationSet.add s.ring.present n.origin.toNat) s) ?_
  generalize s.applyRoster (StationSet.add s.ring.present n.origin.toNat) = s1
  let d := { s1.desk with note :=
    { s1.desk.note with ages := s1.desk.note.ages.setIfInBounds n.origin.toNat (some 0) } }
  refine andThen (andThen (State.outside_desk d s1)
    (State.outside_onDesk (fun e d => d.stationSolo e n.origin.toNat (payloadHoldingsSolo n.payload)) _)) ?_
  split
  · exact State.outside_mismatch _
  · exact same _

theorem State.outside_actAnswered (n : Notice) (s : State) : SameOutsideSample s (s.actAnswered n).1 := by
  unfold State.actAnswered
  split
  · split
    · exact State.outside_desk _ s
    · exact same s
  · exact same s

theorem State.outside_actEcho (n : Notice) (s : State) : SameOutsideSample s (s.actEcho n) := by
  unfold State.actEcho
  split
  · split
    · exact State.outside_desk _ s
    · exact same s
  · exact same s

theorem State.outside_actSolo (n : Notice) (s : State) : SameOutsideSample s (s.actSolo n) := by
  unfold State.actSolo
  split
  · exact State.outside_onDesk _ s
  · exact same s

theorem State.outside_actRoster (n : Notice) (s : State) : SameOutsideSample s (s.actRoster n) := by
  unfold State.actRoster
  dsimp only
  split
  · exact State.outside_applyRoster _ s
  · exact same s

theorem State.outside_act (n : Notice) (s : State) : SameOutsideSample s (s.act n).1 := by
  unfold State.act
  split
  · split
    · exact State.outside_actAnswered n s
    · exact State.outside_actAnswered n s
    · exact State.outside_actAnswered n s
    · exact State.outside_actEcho n s
    · exact State.outside_actSolo n s
    · exact State.outside_actHoldings n s
    · exact State.outside_actRoster n s
  · exact same s

theorem State.outside_workCell (c : BitVec 64) (s : State) : SameOutsideSample s (s.workCell c).1 := by
  unfold State.workCell
  split
  · exact State.outside_place s
  · dsimp only
    have h := update s s.pos s.ring s.play s.desk s.instant s.stem s.emitted (s.free + 1)
    split
    · exact andThen h (State.outside_place _)
    · exact h
  · split
    · exact State.outside_strip _ s
    · exact State.outside_act _ s

theorem State.outside_workCells (cells : Vector (BitVec 64) 4) (s : State) :
    SameOutsideSample s (s.workCells cells).1 :=
  andThen (andThen (andThen (State.outside_workCell _ s) (State.outside_workCell _ _)) (State.outside_workCell _ _))
    (State.outside_workCell _ _)

/-! ## RING -/

theorem State.outside_emitterCheck (e : Nat) (s : State) : SameOutsideSample s (s.emitterCheck e) := by
  unfold State.emitterCheck
  split
  · exact same s
  · exact andThen (State.outside_applyRoster _ s) (State.outside_desk _ _)

theorem State.outside_goodArrival (b : Bool) (f : WireFrame) (s : State) :
    SameOutsideSample s (s.goodArrival b f).state := by
  unfold State.goodArrival
  dsimp only
  have h := State.outside_ring s.ring.countGood s
  split
  · exact andThen h (andThen (State.outside_emitterCheck _ _) (State.outside_workCells _ _))
  · exact andThen h (andThen (State.outside_workCells _ _) (State.outside_emitterCheck _ _))

theorem State.outside_countBad (s : State) : SameOutsideSample s s.countBad := by
  unfold State.countBad
  dsimp only
  split
  · exact andThen (andThen (andThen (State.outside_ring _ s) (State.outside_raise .badFrame _))
      (State.outside_ring _ _)) (State.outside_raise _ _)
  · exact andThen (State.outside_ring _ s) (State.outside_raise _ _)

theorem State.outside_endSilence (s : State) : SameOutsideSample s s.endSilence := by
  unfold State.endSilence
  dsimp only
  split
  · exact andThen (State.outside_ring _ s) (State.outside_raise _ _)
  · exact State.outside_ring _ s

theorem State.outside_arrive (b : Bool) (f : WireFrame) (s : State) : SameOutsideSample s (s.arrive b f).state := by
  unfold State.arrive
  dsimp only
  have h := andThen (State.outside_endSilence s)
    (State.outside_ring ((s.endSilence.ring.countRun f).adoption s.endSilence.self f) s.endSilence)
  split
  · exact andThen h (State.outside_goodArrival b f _)
  · exact andThen h (andThen (State.outside_countBad _) (State.outside_workCells _ _))

theorem State.outside_silence (s : State) : SameOutsideSample s s.silence.state := by
  have h : SameOutsideSample s s.countSilent := by
    unfold State.countSilent
    dsimp only
    split
    · exact andThen (State.outside_ring _ s) (State.outside_raise _ _)
    · exact State.outside_ring _ s
  exact andThen h (State.outside_workCells _ _)

theorem State.outside_failJoin (r : JoinResult) (s : State) : SameOutsideSample s (s.failJoin r) :=
  update s s.pos _ s.play _ s.instant s.stem s.emitted s.free

theorem State.outside_insert (p : StationSet) (r : JoinResult) (s : State) : SameOutsideSample s (s.insert p r) :=
  andThen (andThen (andThen (State.outside_ring _ s) (State.outside_applyRoster p _)) (State.outside_onDesk _ _))
    (State.outside_desk _ _)

theorem State.outside_tapGood (f : WireFrame) (s : State) : SameOutsideSample s (s.tapGood f) := by
  unfold State.tapGood
  dsimp only
  have h := State.outside_ring { s.ring with join := { s.ring.join with upstream := some f.emitter.toNat } } s
  split
  · exact andThen h (State.outside_failJoin _ _)
  · split
    · refine andThen h ?_
      unfold State.listen
      dsimp only
      split
      · exact andThen (State.outside_failJoin _ _) (State.outside_raise _ _)
      · exact State.outside_ring _ _
    · exact State.outside_ring _ s

theorem State.outside_tapOther (s : State) : SameOutsideSample s s.tapOther := by
  unfold State.tapOther
  split
  · exact same _
  · exact State.outside_ring _ _

theorem State.outside_tap (f : WireFrame) (s : State) : SameOutsideSample s (s.tap f) := by
  unfold State.tap
  dsimp only
  split
  · exact andThen (State.outside_ring _ s) (State.outside_tapGood f _)
  · exact andThen (State.outside_ring _ s) (State.outside_tapOther _)

theorem State.outside_lockingStep (rx : Option WireFrame) (s : State) : SameOutsideSample s (s.lockingStep rx) := by
  have hlisten : ∀ (b : Bool) (s1 : State), SameOutsideSample s1 (s1.listenStep b) := by
    intro b s1
    unfold State.listenStep
    split
    · dsimp only
      split
      · exact andThen (State.outside_ring _ s1) (State.outside_insert _ _ _)
      · exact State.outside_ring _ s1
    · exact same _
  have hfirst : ∀ (s1 : State), SameOutsideSample s1 s1.firstInStep := by
    intro s1
    unfold State.firstInStep
    split
    · exact andThen (State.outside_ring _ s1) (State.outside_insert _ _ _)
    · exact same _
  unfold State.lockingStep
  dsimp only
  refine andThen (andThen ?_ (hlisten _ _)) (hfirst _)
  split
  · exact andThen (State.outside_ring _ s) (State.outside_tap _ _)
  · exact andThen (State.outside_ring _ s) (State.outside_tapOther _)

theorem State.outside_ringPhase (b : Bool) (rx : Option WireFrame) (s : State) :
    SameOutsideSample s (s.ringPhase b rx).state := by
  unfold State.ringPhase
  dsimp only
  have h := State.outside_ring s.ring.advanceTag s
  split
  · exact State.outside_ring _ s
  · exact andThen h (State.outside_lockingStep rx _)
  all_goals
    split
    · exact andThen h (State.outside_arrive b _ _)
    · exact andThen h (State.outside_silence _)

/-! ## The whole sample event -/

theorem State.outside_expireFlight (x : Slot) (s : State) : SameOutsideSample s (s.expireFlight x) := by
  unfold State.expireFlight
  split
  · split
    · exact State.outside_desk _ s
    · exact same s
  · exact same s

theorem State.outside_countStep (s : State) : SameOutsideSample s s.countStep := by
  unfold State.countStep
  dsimp only
  refine andThen (andThen (b := (s.expireFlights.onDesk fun e d => d.each stationIndices (Desk.ageOf e)))
    (andThen (SameOutsideSample.foldl _ _ (fun s x => State.outside_expireFlight x s) s) (State.outside_onDesk _ _)) ?_)
    (andThen (State.outside_onDesk _ _) (State.outside_onDesk _ _))
  split
  · exact State.outside_onDesk _ _
  · exact same _

theorem State.outside_timers (s : State) : SameOutsideSample s s.timers :=
  andThen (update s s.pos { s.ring with settle := s.ring.settle - 1 } s.play _ (s.instant + 1) s.stem s.emitted s.free)
    (State.outside_countStep _)

theorem State.outside_takePosEvent (v : PosEvent) (s : State) : SameOutsideSample s (s.takePosEvent v) := by
  unfold State.takePosEvent
  dsimp only
  have h := andThen (State.outside_raise v.flag s) (State.outside_onDesk (fun e d => d.takeEvent e v) _)
  split
  · exact andThen h (update _ _ _ _ _ _ _ _ _)
  · exact h

theorem State.outside_takeTick (t : MadeTick) (s : State) : SameOutsideSample s (s.takeTick t) := by
  unfold State.takeTick
  dsimp only
  by_cases h : Play.entersLate s.pos t.index s.play = true
  · simp only [h, if_true]
    exact ⟨rfl, rfl, rfl, rfl, rfl, rfl, rfl, rfl⟩
  · simp only [h]
    exact ⟨rfl, rfl, rfl, rfl, rfl, rfl, rfl, rfl⟩

theorem State.outside_posPhase (edge : Option FrameNo) (s : State) : SameOutsideSample s (s.posPhase edge) := by
  unfold State.posPhase
  dsimp only
  have h := andThen (update s (s.posOut edge).pos s.ring s.play s.desk s.instant s.stem s.emitted s.free)
    (SameOutsideSample.foldl (s.posOut edge).events (fun s v => s.takePosEvent v)
      (fun s v => State.outside_takePosEvent v s) _)
  split
  · exact andThen h (State.outside_takeTick _ _)
  · exact h

theorem State.outside_posAlone (edge : Option FrameNo) (s : State) : SameOutsideSample s (s.posAlone edge) :=
  andThen (State.outside_posPhase edge s) (State.outside_onDesk _ _)

theorem Taken.outside_phases (p : Period) (t : Taken) : SameOutsideSample t.state (t.phases p).state := by
  have hp : ∀ u : Taken, SameOutsideSample u.state (u.pos p).state := fun u => State.outside_posPhase (FrameWord.edge p.edge) u.state
  have hr : ∀ u : Taken, SameOutsideSample u.state (u.ring p).state := fun u => State.outside_ringPhase p.checkFirst p.rx u.state
  have ht : ∀ u : Taken, SameOutsideSample u.state (u.touch p).state := fun u =>
    State.outside_onDesk (fun e d => d.touchPhase e p.levels) u.state
  unfold Taken.phases
  split
  · exact andThen (andThen (hp t) (hr (t.pos p))) (ht ((t.pos p).ring p))
  · exact andThen (andThen (hp t) (ht (t.pos p))) (hr ((t.pos p).touch p))
  · exact andThen (andThen (hr t) (hp (t.ring p))) (ht ((t.ring p).pos p))
  · exact andThen (andThen (hr t) (ht (t.ring p))) (hp ((t.ring p).touch p))
  · exact andThen (andThen (ht t) (hp (t.touch p))) (hr ((t.touch p).pos p))
  · exact andThen (andThen (ht t) (hr (t.touch p))) (hp ((t.touch p).ring p))

theorem State.outside_audio (x : Vector Sample 32) (l : Option (Vector Lane 128)) (s : State) :
    SameOutsideSample s (s.audio x l) :=
  update s s.pos s.ring s.play _ s.instant _ s.emitted s.free

theorem State.outside_emit (r : Ring) (c : Vector (BitVec 64) 4) (l : Option (Vector Lane 128)) (s : State) :
    SameOutsideSample s (s.emit r c l) := by
  unfold State.emit
  split <;> exact update s s.pos s.ring s.play s.desk s.instant s.stem _ s.free

/-- A whole sample event. -/
theorem State.outside_sample (p : Period) (s : State) : SameOutsideSample s (s.sample p) :=
  andThen (andThen (andThen (State.outside_timers s)
    (Taken.outside_phases p { state := s.timers, cells := Vector.replicate 4 0, arriving := none }))
    (State.outside_audio _ _ _)) (State.outside_emit _ _ _ _)

/-! ## What a sample event leaves in the output -/

/-- R20: what is emitted is a frame built here, or nothing where the relay was not inserted. -/
theorem State.emitted_sample (p : Period) (s : State) :
    (s.ring.state.onRing = false → (s.sample p).emitted = none) ∧
    (s.ring.state.onRing = true → ∃ c l, (s.sample p).emitted =
      some (buildFrame (s.sample p).self (s.sample p).ring.tag (s.sample p).ring.origin c l)) := by
  unfold State.sample
  dsimp only
  generalize (State.audio _ _ _) = u
  generalize (Taken.cells _) = c
  generalize (Taken.arriving _) = l
  unfold State.emit
  split
  · next h => exact ⟨fun h' => absurd h (by rw [h']; exact Bool.false_ne_true), fun _ => ⟨_, _, rfl⟩⟩
  · next h => exact ⟨fun _ => rfl, fun h' => absurd h' h⟩

/-- Sample events reach the part exactly while RESET is high and the word clock is present. -/
theorem State.live_of_clocked {s : State} (h : s.clocked) : s.live = true := by
  obtain ⟨a, b⟩ := h
  simp [State.live, a, b]

theorem State.sampled_of_clocked {s : State} (h : s.clocked) (p : Period) : s.sampled p = s.sample p := by
  simp [State.sampled, State.live_of_clocked h]

theorem State.part_of_clocked {s : State} (h : s.clocked) {comes : Bool} (hc : comes = true) (act : State → State) :
    s.part comes act = act s := by
  simp [State.part, State.live_of_clocked h, hc]

/-! ## LINK -/

/-- R170: what a command comes to in READY. -/
theorem State.command_of_ready {s : State} (h : s.ready) (n tail : Nat) (body : State → Answered) :
    s.command n tail body = State.taken n tail (body s).reply (body s).state := by
  obtain ⟨a, b⟩ := h
  simp [State.command, State.message, State.taken, a, b]

/-- R171: what a command comes to out of READY. -/
theorem State.command_of_not_ready {s : State} (hr : s.resetLow = false) (h : s.link.state ≠ .ready) (n tail : Nat)
    (body : State → Answered) : s.command n tail body = s.overrun (8 * (5 + n) + tail) := by
  unfold State.command State.message
  rw [hr]
  rcases e : s.link.state with _ | r | r
  · exact absurd e h
  all_goals rfl

/-- R180: a transfer while RESET is low. -/
theorem State.command_of_reset {s : State} (h : s.resetLow = true) (n tail : Nat) (body : State → Answered) :
    s.command n tail body = { s with ldo := idleBits (8 * (5 + n) + tail) } := by
  simp [State.command, State.message, State.idle, h]

theorem State.configured_of_some {s : State} {c : Conf} (h : s.conf = some c) (k : Byte)
    (body : Conf → State → Answered) : s.configured k body = body c s := by simp [State.configured, h]

end Sys2Proof.Machine
end

