-- ==== Sys2Proof/Tests/Slice0.lean ====
section
/-!
SUPPORT. The author's tests: ill-formed commands that WellFormed refuses, the spec's worked examples, and for every
obligation with hypotheses a concrete state and operands that meet them.
-/

namespace Sys2Proof.Tests

open Sys2Proof Sys2Proof.Machine

set_option Elab.async false

/-! ## Small states -/

/-- 24 frames per second; bus 0 a STEM on lanes 0 and 1 homed at station 0, zone 1; bus 1 a PREMIX on lane 2 homed at
station 0, zone 2; bus 2 a STEM on lane 4 homed at station 5, zone 3; bus 3 a STEM on lane 6 homed at station 9. -/
def conf : Conf :=
  { rate := .fps24, digest := 0x1234,
    plan := [ { kind := .stem, first := 0, width := 2, home := 0, zone := 1 },
              { kind := .premix, first := 2, width := 1, home := 0, zone := 2 },
              { kind := .stem, first := 4, width := 1, home := 5, zone := 3 },
              { kind := .stem, first := 6, width := 1, home := 9, zone := 3 } ] }

/-- Station 0, configured, READY, off the ring. -/
def base : State := { State.reset with conf := some conf }

/-- The same in a locked transport state. -/
def locked (t : Transport) (frame : FrameNo) (offset : Nat) : State :=
  let pos : Pos := { Pos.reset with state := t, frame := frame, offset := offset, tick := some (frame ++ (0 : BitVec 2)),
                                    cold := false }
  { base with pos := pos }

/-- The same on a ring of stations 0 and 5. -/
def ringed (t : RingState) : State := { base with ring := { Ring.reset 0 with state := t, present := 0x21 } }

/-- The same in LOCKING. -/
def joining (j : Join) : State := { base with ring := { Ring.reset 0 with state := .locking, join := j } }

/-- A frame of station 5 with a right check, empty cells and silent lanes. -/
def frame (tag : BitVec 8) : WireFrame := buildFrame 5 tag 0 (Vector.replicate 4 0) (Vector.replicate 128 0)

/-- A frame whose tag origin names no station. -/
def badHeader : WireFrame :=
  { emitter := 5, tag := 0, origin := 24, cells := Vector.replicate 4 0, lanes := Vector.replicate 128 0, check := 0 }

/-- A period in which nothing arrives. -/
def quiet : Period :=
  { samples := Vector.replicate 32 0, levels := 0, edge := none, rx := none, order := .posRingTouch, checkFirst := true }

/-! ## WellFormed refuses (11.3, R169) -/

theorem test_configure_too_short : WellFormed (.configure [0] 0) = false := by decide
theorem test_configure_too_long : WellFormed (.configure (List.replicate 99 0) 0) = false := by decide
theorem test_deliver_too_short : WellFormed (.deliver (List.replicate 7 0) 0) = false := by decide
theorem test_deliver_too_long : WellFormed (.deliver (List.replicate 6681 0) 0) = false := by decide +kernel
theorem test_format_idle_pattern : WellFormed (.format (bitsOf [0xFF, 0x02])) = false := by decide
theorem test_format_no_whole_byte : WellFormed (.format (List.replicate 7 false)) = false := by decide
theorem test_overrun_idle_pattern : WellFormed (.linkOverrun (bitsOf [0xFF])) = false := by decide
theorem test_overrun_no_bit : WellFormed (.linkOverrun []) = false := by decide
theorem test_boundaries_are_well_formed :
    WellFormed (.configure [0, 0] 3) = true ∧ WellFormed (.configure (List.replicate 98 0) 0) = true ∧
    WellFormed (.deliver (List.replicate 8 0) 0) = true ∧ WellFormed (.format (bitsOf [0x02])) = true ∧
    WellFormed (.linkOverrun (bitsOf [0] ++ [true])) = true := by decide

/-! ## The spec's worked examples -/

/-- Chapter 1: the frames 86399 and 86401 at 29.97 and 48 kHz, and their quarters. -/
theorem test_cadence :
    spf false .fps2997 86399 = 1602 ∧ spf false .fps2997 86401 = 1601 ∧
    (List.range 4).map (quarterStart 1602) = [0, 400, 801, 1201] ∧
    (List.range 4).map (quarterStart 1601) = [0, 400, 800, 1200] := by decide

/-- Chapter 1: the flywheel out of frame 86399 and its tick with the crossing mark. -/
theorem test_flywheel_crossing :
    Pos.sample false .fps2997 none
        { Pos.reset with state := .rolling, frame := 86399, offset := 1601, tick := some 345599, cold := false } =
      { pos := { Pos.reset with state := .rolling, frame := 86400, fly := 1, tick := some 345600, cold := false },
        events := [],
        made := some { index := 345600, crossing := true } } := by decide +kernel

/-- Chapter 1: FRAMING at offset 1100, and FRAMING before JUMP for frame 90000. -/
theorem test_framing :
    (Pos.sample false .fps2997 (some 86402)
        { Pos.reset with state := .rolling, frame := 86401, offset := 1099, tick := some 345606 }).events = [.framing] ∧
    (Pos.sample false .fps2997 (some 90000)
        { Pos.reset with state := .rolling, frame := 86401, offset := 1099, tick := some 345606 }).events =
      [.framing, .jump] := by decide +kernel

/-- R5: a chase begun in UNLOCKED resolves moving into another page without a crossing, one begun in a locked state with. -/
theorem test_first_tick_is_no_crossing :
    ([true, false].map fun cold => (Pos.sample false .fps24 (some 16)
        { Pos.reset with state := .chasing, frame := 15, offset := 1999, chaseFrame := some 15, run := some .rolling,
                         cold := cold }).made) =
      [some { index := 64, crossing := false }, some { index := 64, crossing := true }] := by decide +kernel

/-- Chapter 2: distances from home 2 in the present set of stations 2, 5 and 9, and P. -/
theorem test_distances :
    [2, 5, 9].map (distance (stationsWhere fun x => x == 2 || x == 5 || x == 9) 2) = [0, 1, 2] ∧
    StationSet.count (stationsWhere fun x => x == 2 || x == 5 || x == 9) = 3 := by decide +kernel

/-- Chapter 2: the loss of station 5, seen at station 9 and told to station 2. -/
theorem test_loss_of_a_station :
    emitterAfter 9 2 (stationsWhere fun x => x == 2 || x == 5 || x == 9) = stationsWhere (fun x => x == 2 || x == 9) ∧
    rosterAfter 2 9 2 (stationsWhere fun x => x == 2 || x == 5 || x == 9) = stationsWhere (fun x => x == 2 || x == 9) ∧
    settleLength (stationsWhere fun x => x == 2 || x == 9) = 6 := by decide +kernel

/-- Chapter 4: a ramp from LEVEL 927 to 847 over 500 samples. -/
theorem test_level_ramp :
    [1, 100, 500].map (fun k => Gain.round 100000 (Factor.atStep Gain.one (Gain.ofLevel 847) k 500)) =
      [99863, 86325, 31623] := by decide +kernel

/-- Chapter 5: the values of a glide from 800 to 900 over 2 ticks. -/
theorem test_glide_values : [1, 2].map (fun j => glideValue 800 900 j 2) = [850, 900] := by decide

/-- Chapter 6: the grant of a CLAIM and the answer to its RELEASE. -/
theorem test_claim_and_release :
    let d := base.desk.homeClaim base.env 0 9
    d.2 = .granted ∧ (d.1.homeOf 0).driver = some 9 ∧ (d.1.control 128).surface = 927 ∧
      (d.1.homeRelease base.env 0 9).2 = .taken ∧ ((d.1.homeRelease base.env 0 9).1.homeOf 0).driver = none := by
  decide +kernel

/-- Chapter 9: a move of the lost page is dropped though a slot is free, and one of the next page is kept. -/
theorem test_lost_page :
    ((({ Take.reset with lost := some 314 } : Take).accept 20102 132 700).2 = .overrun) ∧
    ((({ Take.reset with lost := some 314 } : Take).accept 20160 132 700).2 = .kept) := by decide +kernel

/-- Chapter 10: a message in REPLY_HELD is an overrun and reads nothing; a transfer of the reply's 48 bits reads it, and one
bit less does not. -/
theorem test_overrun_and_short_read :
    let held : State := { base with link := { base.link with state := .held (.done 0x0E []) } }
    let later := held.overrun 40
    later.link.state = .held (.done 0x0E []) ∧ later.link.overruns = 1 ∧ later.flag .linkOverrun = true ∧
      (later.transfer 48).link.state = .ready ∧ (later.transfer 47).link.state = .held (.done 0x0E []) := by decide +kernel

/-- R169, R180: LDO is idle for every bit of a transfer in READY, and while RESET is low. -/
theorem test_idle_pattern :
    (∃ t, exec (.take 3) base = .next t ∧ t.ldo = List.replicate 43 true) ∧
    exec (.poll 9) base.hold = .next { base.hold with ldo := List.replicate 9 true } ∧
    exec (.take 0) base.hold = .next { base.hold with ldo := List.replicate 40 true } :=
  ⟨⟨_, rfl, rfl⟩, rfl, rfl⟩

/-- R183, log 8: mark 7 makes every cell unreadable, one of kind 0 too. -/
theorem test_unreadable_cells :
    readCell 0 = .empty ∧ readCell 0x8000000000000000 = .unreadable ∧
    readCell (BitVec.ofNat 64 (7 * 2 ^ 41)) = .unreadable := by decide +kernel

/-- A message written out byte by byte, SOLO of strip 12 with flags 1, and three bits more, is read as the command (11.3). -/
theorem test_solo_message :
    decodeTransfer (bitsOf (message 0x05 [12, 1]) ++ [true, false, true]) = some (.solo 12 1 3) := by decide +kernel

/-- R169: the most significant bit of a byte is clocked first. -/
theorem test_bit_order : bitsOf [0x05] = [false, false, false, false, false, true, false, true] ∧
    bytesIn [false, false, false, false, false, true, false, true, true] = [0x05] := by decide

/-- 11.4: a plan of one STEM bus, 2 lanes wide, homed at station 0, zone 1. -/
theorem test_plan :
    readPlan [0, 1, 0, 2, 0, 0x11] =
      some (.fps24, [{ kind := .stem, first := 0, width := 2, home := 0, zone := 1 }]) := by decide +kernel

/-! ## Every hypothesis can be met: the queue and LINK -/

theorem witness_StepRunsFrontCommand : ({ base with pending := [.take 0, .poll 1] } : State).pending = .take 0 :: [.poll 1] := rfl

theorem witness_QueueOfCommands : base.pending = [] := rfl

theorem witness_MessageRoundTrip :
    WellFormed (.solo 12 1 2) = true ∧ encodeMessage (.solo 12 1 2) = some (message 0x05 [12, 1]) ∧
    [true, false].length = tailOf (.solo 12 1 2) := ⟨rfl, rfl, rfl⟩

theorem witness_OnlyMessagesDecode : decodeTransfer (bitsOf (message 0x02 [] ++ [0xAA])) = some (.join 8) := by
  decide +kernel

theorem witness_OverrunDiscardsTheMessage :
    (payloadOf (.take 5) = some (0x10, []) ∧ ({ base with link := { base.link with state := .working (.done 0x10 []) } } :
      State).resetLow = false ∧ LinkState.working (.done 0x10 []) ≠ .ready) ∧
    (carriesMessage (bitsOf [0x10]) = true ∧ LinkState.held (.done 0x10 []) ≠ .ready) := by decide

theorem witness_TransfersWithoutMessage :
    (Instr.poll 6 = .poll 6 ∧ base.resetLow = false) ∧
    (let s : State := { base with link := { base.link with state := .working (.done 0x10 []) } }
     s.resetLow = false ∧ s.link.state = .working (.done 0x10 [])) := by decide

/-- A held reply of 6 bytes: 48 bits clocked read it, 47 do not. -/
theorem witness_Presented :
    8 * (Reply.done 0x10 []).bytes.length ≤ 48 ∧ 47 < 8 * (Reply.done 0x10 []).bytes.length ∧
    ∀ r, base.link.state ≠ .held r := ⟨by decide +kernel, by decide +kernel, fun _ h => by cases h⟩

theorem witness_RefusedByLinkOrWhileUnconfigured :
    (State.reset.ready ∧ (bytesIn (bitsOf [0x10])).head? = some 0x10 ∧ (0x10 : Byte) ≠ 0xFF ∧
      decodeTransfer (bitsOf [0x10]) = none) ∧
    (WellFormed (.join 0) = true ∧ payloadOf (.join 0) = some (0x02, []) ∧ State.reset.conf = none ∧
      (0x02 : Byte) ∉ [0x01, 0x09, 0x10, 0x11, 0x12, 0x13, 0x14]) := by
  unfold State.ready; decide +kernel

/-- The hypotheses of MaskResult, StatusReportsThenClears, RestartResult, DrivesResult and PassesResult; with the plan
present, those that the commands of a configured part share. -/
theorem witness_ready : base.ready ∧ base.conf.isSome ∧ State.reset.ready := ⟨⟨rfl, rfl⟩, rfl, ⟨rfl, rfl⟩⟩

theorem witness_LatnCauses : base.resetLow = false ∧ base.hold.resetLow = true := ⟨rfl, rfl⟩

theorem witness_FlagsStaySet :
    (∀ n, Instr.clockReturn ≠ .status n ∧ Instr.clockReturn ≠ .restart n) ∧ Instr.clockReturn ≠ .hardwareReset ∧
    (∀ x r, Instr.clockReturn ≠ .resetRise x r) ∧
    exec .clockReturn (base.raise .jump) = .next { base.raise .jump with clock := true } ∧
    (base.raise .jump).flag .jump = true :=
  ⟨fun _ => ⟨nofun, nofun⟩, nofun, fun _ _ => nofun, rfl, by decide +kernel⟩

theorem witness_HardwareReset :
    base.hold.resetLow = true ∧ clockedOf (.take 2) = some 42 ∧ clockedOf (.poll 5) = some 5 ∧ clockedOf .firstIn = none ∧
    Instr.firstIn ≠ .hardwareReset ∧ (∀ x r, Instr.firstIn ≠ .resetRise x r) ∧ Instr.firstIn ≠ .clockLost ∧
    Instr.firstIn ≠ .clockReturn := ⟨rfl, rfl, rfl, rfl, nofun, fun _ _ => nofun, nofun, nofun⟩

/-- On the ring with an own solo bit set: both a SOLO and a HOLDINGS with its ECHOs are queued. -/
theorem witness_RestartResult :
    let s : State := { ringed .inserted with desk := { base.desk with strip := { base.desk.strip with ownBits := 4 } } }
    s.ready ∧ s.ring.state.onRing = true ∧ s.desk.strip.ownBits ≠ 0 ∧ s.env.homesBus 0 = true ∧
      s.env.homesBus 2 = false ∧ (joining Join.reset).ready ∧ (joining Join.reset).ring.state = .locking ∧
      base.desk.strip.ownBits = 0 ∧ base.ring.state.onRing = false := by
  unfold State.ready; decide +kernel

/-! ## Invariants -/

theorem witness_PosInvariantKept :
    let s : State := { locked .rolling 10 100 with pending := [.tick none] }
    s.posInv ∧ step s = .next { locked .rolling 10 100 with pending := [] } := by
  refine ⟨⟨nofun, nofun, fun _ => ⟨rfl, rfl⟩, fun c h => ?_, by decide⟩, rfl⟩
  cases h
  decide

theorem witness_RingInvariantKept :
    let s : State := { ringed .inserted with pending := [.clockReturn] }
    s.ringInv ∧ step s = .next { ringed .inserted with pending := [] } := by
  refine ⟨⟨by decide, nofun, fun _ => by decide, nofun, by decide, nofun⟩, rfl⟩

/-- A pass open on control 0, at serial 0. -/
def oneOpenPass : State := { base with desk := base.desk.openPass 0 5 }

theorem witness_PassInvariantKept :
    let s : State := { oneOpenPass with pending := [.clockReturn] }
    s.desk.passInv ∧ step s = .next { oneOpenPass with pending := [] } := by
  refine ⟨?_, rfl⟩
  unfold Desk.passInv
  decide +kernel

/-! ## POS -/

theorem witness_FrameEdgeOnTime :
    (locked .parked 10 1999).clocked ∧ (locked .parked 10 1999).conf = some conf ∧
    (locked .parked 10 1999).pos.state = Motion.parked.transport ∧ (locked .parked 10 1999).pos.due false conf.rate = true ∧
    stepClass 10 11 = some .rolling ∧ stepClass 10 10 = some .parked ∧ stepClass 10 9 = some .reverse ∧
    stepClass 0xFFFFFF 0 = some .rolling ∧ stepClass 0 0xFFFFFF = some .reverse ∧
    (locked .rolling 10 1999).pos.state = Motion.rolling.transport ∧ (.rolling : Motion) ≠ .parked := by
  unfold State.clocked; decide +kernel

theorem locked_posInv (m : Motion) : (locked m.transport 10 1999).posInv := by
  refine ⟨nofun, fun h => by (cases m <;> cases h), fun _ => ⟨rfl, rfl⟩, fun c h => ?_, Nat.zero_le _⟩
  cases h
  show 1999 < 2000
  decide

theorem witness_FrameEdgeIntoChase :
    base.clocked ∧ base.conf = some conf ∧ base.pos.state = .unlocked ∧
    (locked .rolling 10 1999).pos.due false conf.rate = true ∧ stepClass 10 12 = none ∧ stepClass 10 8 = none ∧
    (locked .rolling 10 1998).pos.due false conf.rate = false ∧ (stepClass 10 11).isSome := by
  unfold State.clocked; decide +kernel

/-- A pass open on control 0, in ROLLING at the due sample of frame 10, with bus 0 driven by station 9. -/
def rollingPass (offset : Nat) : State :=
  { locked .rolling 10 offset with desk := oneOpenPass.desk.setHome 0 { Home.reset with driver := some 9, lease := 2046 } }

/-- POS comes first in both of its orders, with a remote driver whose lease does not run out; one sample event later it
would. STOP, REVERSE and JUMP each have a frame, and FRAMING one where nothing else reaches AUTO. -/
theorem witness_TransportEventsClosePasses :
    (∀ o ∈ [BlockOrder.posRingTouch, .posTouchRing], (rollingPass 1999).posComesFirst { quiet with order := o }) ∧
    ¬ (rollingPass 1999).posComesFirst { quiet with order := .ringPosTouch } ∧
    ((rollingPass 1999).desk.control 0).openPass.isSome ∧
    ((rollingPass 1999).desk.openRecords .stop).length = 1 ∧
    ((rollingPass 1999).posOut (some 10)).events = [.stop] ∧ ((rollingPass 1999).posOut (some 9)).events = [.reverse] ∧
    ((rollingPass 1999).posOut (some 12)).events = [.jump] ∧
    ((rollingPass 1998).posOut (some 12)).events = [.framing, .jump] ∧
    ((locked .rolling 10 1998).posOut (some 11)).events = [.framing] := by
  unfold State.posComesFirst; decide +kernel

/-- No block but POS reaches AUTO. -/
theorem witness_FramingLeavesAuto : (locked .rolling 10 1998).autoLeftAlone := by
  unfold State.autoLeftAlone; decide +kernel

/-- In CHASING at frame 15, with a run. -/
def chasing (offset : Nat) (chase : Option FrameNo) (run : Option Motion) (cold : Bool) : State :=
  let pos : Pos := { Pos.reset with state := .chasing, frame := 15, offset := offset, chaseFrame := chase, run := run,
                                    cold := cold }
  { base with pos := pos }

theorem witness_FrameEdgeInChasing :
    ((chasing 7 (some 15) none true).clocked ∧ (chasing 7 (some 15) none true).pos.due false conf.rate = false ∧
      (chasing 1999 none none true).pos.chaseFrame = none) ∧
    (∀ cold ∈ [true, false], (chasing 1999 (some 15) (some .rolling) cold).pos.due false conf.rate = true ∧
      stepClass 15 16 = some .rolling ∧ stepClass 15 15 = some .parked ∧ stepClass 15 17 = none ∧
      (chasing 1999 (some 15) (some .rolling) cold).pos.run = some .rolling ∧
      (chasing 1999 (some 15) (some .rolling) cold).pos.cold = cold) := by
  unfold State.clocked; decide +kernel

theorem witness_FlywheelResult :
    (locked .reverse 0 1999).clocked ∧ (locked .reverse 0 1999).conf = some conf ∧
    (locked .reverse 0 1999).pos.state = Motion.reverse.transport ∧ (locked .reverse 0 1999).pos.due false conf.rate = true ∧
    (locked .reverse 0 1999).pos.fly < 3 ∧
    (let s : State := { locked .reverse 0 1999 with pos := { (locked .reverse 0 1999).pos with fly := 3 } }
     s.pos.fly = 3 ∧ s.pos.due false conf.rate = true) := by
  unfold State.clocked; decide +kernel

theorem witness_FlywheelInChasing :
    (chasing 1999 (some 15) none true).clocked ∧ (chasing 1999 (some 15) none true).conf = some conf ∧
    (chasing 1999 (some 15) none true).pos.state = .chasing ∧ (chasing 1999 (some 15) none true).pos.due false conf.rate = true ∧
    (chasing 1999 (some 15) none true).pos.fly < 3 := by
  unfold State.clocked; decide +kernel

theorem witness_TickResult :
    (locked .rolling 10 499).clocked ∧ (locked .rolling 10 499).pos.state = Motion.rolling.transport ∧
    (0 < (1 : Fin 4).val ∧ (locked .rolling 10 499).pos.offset + 1 = (1 : Fin 4).val * spf false conf.rate 10 / 4) ∧
    (0 < (3 : Fin 4).val ∧ (locked .rolling 10 1499).pos.offset + 1 = (3 : Fin 4).val * spf false conf.rate 10 / 4) := by
  unfold State.clocked; decide +kernel

/-- A page of number 0 with an entry and two moves of control 3. -/
def heldPage : PlayPage :=
  { number := 0, entries := [(2, 5), (3, 6)],
    moves := [{ offset := 1, control := 3, value := 7 }, { offset := 2, control := 3, value := 8 }] }

theorem witness_ValueInForce :
    heldPage.moves = [{ offset := 1, control := 3, value := 7 }] ++ { offset := 2, control := 3, value := 8 } :: [] ∧
    heldPage.valueAt 2 3 = some 8 ∧ heldPage.valueAt 1 3 = some 7 ∧
    (∀ x ∈ heldPage.moves, ¬ (x.control = 3 ∧ x.offset ≤ (0 : BitVec 6))) ∧
    heldPage.entries = [(2, 5)] ++ (3, 6) :: [] ∧ heldPage.valueAt 0 3 = some 6 ∧ (∀ x ∈ heldPage.entries, x.1 ≠ 4) ∧
    heldPage.valueAt 63 4 = none :=
  ⟨rfl, by decide +kernel, by decide +kernel, by decide +kernel, rfl, by decide +kernel, by simp [heldPage],
    by decide +kernel⟩

/-- A glide of control 0 at its first of four ticks, in ROLLING one sample event before a tick. -/
def gliding : State :=
  let x : Control := { Control.reset 0 with mode := .touch, pass := .gliding, glide := some (Glide.mk 800 4 0) }
  { locked .rolling 10 499 with desk := base.desk.setControl 0 x }

theorem witness_TickOfControls :
    gliding.clocked ∧ (gliding.posOut none).made = some { index := 41, crossing := false } ∧
    (gliding.posOut none).events = [] ∧ gliding.desk.auto.pendingAbort = false ∧ gliding.desk.auto.window = none ∧
    gliding.env.live 0 = true ∧ (gliding.desk.control 0).pass = .gliding ∧
    (gliding.desk.control 0).glide = some (Glide.mk 800 4 0) ∧ 0 + 1 < 4 ∧ (gliding.desk.control 1).pass ≠ .gliding ∧
    gliding.env.live 132 = false := by
  unfold State.clocked; decide +kernel

theorem witness_WordClock : base.clocked ∧ ({ base with clock := false } : State).clock = false := ⟨⟨rfl, rfl⟩, rfl⟩

/-! ## Sample events and the ring -/

theorem witness_SampleEventOnAndOffTheRing :
    (base.clocked ∧ base.ring.state = .detached ∧ State.reset.clocked ∧ State.reset.conf = none) ∧
    ((ringed .conflict).clocked ∧ (ringed .conflict).ring.state.onRing = true) := by
  unfold State.clocked; decide +kernel

/-- Strip 0 takes its input, strip 1 no source. -/
def oneInput : State := { base with desk := base.desk.setStrip 0 { Strip.reset with source := .input } }

theorem witness_SampleEventSendOutputs :
    oneInput.clocked ∧ ((oneInput.sample quiet).desk.stripOf 0).source = .input ∧
    ((oneInput.sample quiet).desk.stripOf 1).source = .none := by
  unfold State.clocked; decide +kernel

/-- Strip 2 takes the second lane of bus 0, homed here, as its source. -/
theorem witness_ReturnSource :
    let s : State := { ringed .inserted with desk := base.desk.setStrip 2 { Strip.reset with source := .ret 0 1 } }
    s.clocked ∧ s.ring.state.onRing = true ∧ (s.desk.stripOf 2).source = .ret 0 1 ∧
      s.env.bus? 0 = some { kind := .stem, first := 0, width := 2, home := 0, zone := 1 } ∧ 0 = s.self ∧
      0 + 1 = (1 : Fin 128).val ∧ (s.env.busOfLane? 1).map (·.1) = some 0 ∧ quiet.rx = none ∧
      ((s.sample quiet).desk.stripOf 2).source = .ret 0 1 := by
  unfold State.clocked; decide +kernel

/-- A frame of the right tag and origin, built with its check, is good. -/
theorem good_frame (r : Ring) (tag : BitVec 8) (ht : tag + 1 = r.tag) (ho : r.origin = 0) : r.good (frame tag) = true := by
  unfold Ring.good frame
  rw [checkRight_buildFrame]
  simp [headerRight, buildFrame, ho]
  exact ht

/-- With no arrival before it, a frame starts a run of at most one, so no numbering is adopted. -/
theorem first_arrival (r : Ring) (f : WireFrame) (h : r.prev = none) :
    (r.countRun f).run < 8 ∧ (r.countRun f).tag = r.tag ∧ (r.countRun f).origin = r.origin := by
  refine ⟨?_, rfl, rfl⟩
  unfold Ring.countRun
  dsimp only
  rw [h]
  split <;> simp

theorem adoptLocking_first (r : Ring) (f : WireFrame) (h : r.run < 8) : r.adoptLocking f = r :=
  if_neg (fun e => by omega)

theorem adoptRelocking_first (x : Nat) (r : Ring) (f : WireFrame) (h : r.run < 8) : r.adoptRelocking x f = r :=
  if_neg (fun e => by omega)

theorem adoptInserted_first (r : Ring) (f : WireFrame) (h : r.run < 8) : r.adoptInserted f = r :=
  if_neg (fun e => by omega)

/-- A ring in any state keeps its numbering at a first arrival. -/
theorem heard_first (s : State) (f : WireFrame) (h : s.ring.prev = none) :
    (s.heard f).tag = s.ring.tag + 1 ∧ (s.heard f).origin = s.ring.origin := by
  obtain ⟨a, b, c⟩ := first_arrival s.ring.advanceTag f h
  unfold State.heard Ring.adoption
  split
  · rw [adoptInserted_first _ _ a]; exact ⟨b, c⟩
  · rw [adoptRelocking_first _ _ _ a]; exact ⟨b, c⟩
  · exact ⟨b, c⟩

/-- Lane 0 and 2 are homed here, lane 4 at a present station, lane 6 at an absent one, lane 3 is idle. -/
theorem witness_GoodArrivalLanesAndStems :
    (∀ t, t = .inserted ∨ t = .conflict → (ringed t).clocked ∧ (ringed t).ring.state.onRing = true ∧
      ((ringed t).heard (frame 0)).good (frame 0) = true) ∧
    (base.env.busOfLane? 3 = none ∧ (base.env.busOfLane? 0).map (·.1) = some 0 ∧
      (base.env.busOfLane? 4).map (·.1) = some 2 ∧ (base.env.busOfLane? 6).map (·.1) = some 3 ∧
      StationSet.has 0x21 0 = true ∧ StationSet.has 0x21 5 = true ∧ StationSet.has 0x21 9 = false) := by
  refine ⟨fun t h => ?_, by decide +kernel⟩
  refine ⟨by rcases h with rfl | rfl <;> exact ⟨rfl, rfl⟩, by rcases h with rfl | rfl <;> rfl, ?_⟩
  obtain ⟨a, b⟩ := heard_first (ringed t) (frame 0) rfl
  exact good_frame _ _ a.symm b

theorem witness_BadFramesAndSilence :
    ((ringed .inserted).clocked ∧ (ringed .inserted).ring.state.onRing = true ∧
      ((ringed .inserted).heard badHeader).good badHeader = false) ∧
    (let s : State := { ringed .relocking with ring := { (ringed .relocking).ring with silent := 7 } }
     s.clocked ∧ s.ring.state.onRing = true ∧ s.ring.silent = 7) := by
  refine ⟨⟨⟨rfl, rfl⟩, rfl, ?_⟩, ⟨rfl, rfl⟩, rfl, rfl⟩
  simp [Ring.good, headerRight, badHeader]

theorem witness_AdoptionAndRelocking :
    (let s : State := { ringed .inserted with ring := { (ringed .inserted).ring with origin := 3, run := 7, prev := some (6, 0) } }
     s.clocked ∧ s.ring.state = .inserted ∧ (s.ring.advanceTag.countRun (frame 7)).run = 8 ∧
       (frame 7).origin.toNat < s.ring.origin) ∧
    (let s : State := { ringed .inserted with ring := { (ringed .inserted).ring with badRun := 15 } }
     s.clocked ∧ s.ring.state = .inserted ∧ s.ring.badRun = 15 ∧ (s.heard badHeader).good badHeader = false) ∧
    (let s : State := { ringed .relocking with ring := { (ringed .relocking).ring with goodRun := 63 } }
     s.clocked ∧ s.ring.state = .relocking ∧ s.ring.goodRun = 63 ∧ (s.heard (frame 0)).good (frame 0) = true) := by
  refine ⟨⟨⟨rfl, rfl⟩, rfl, ?_, ?_⟩, ⟨⟨rfl, rfl⟩, rfl, rfl, ?_⟩, ⟨rfl, rfl⟩, rfl, rfl, ?_⟩
  · simp [Ring.countRun, Ring.advanceTag, frame, headerRight]
  · simp [frame]
  · simp [Ring.good, headerRight, badHeader]
  · obtain ⟨a, b⟩ := heard_first
      { ringed .relocking with ring := { (ringed .relocking).ring with goodRun := 63 } } (frame 0) rfl
    exact good_frame _ _ a.symm b

/-! ## CONFIGURE, JOIN, LEAVE -/

theorem witness_PlanTests : ((readPlan [3, 0]).isSome = true ∧ (readPlan [4, 0]).isSome = false) ∧
    (readPlan [0, 2, 0, 2, 0, 0, 1, 1, 0, 0]).isSome = false ∧ (readPlan [0, 2, 0, 2, 0, 0, 2, 1, 0, 0]).isSome = true := by
  decide +kernel

theorem witness_ConfigureResult :
    (base.ready ∧ base.conf.isSome ∧ 2 ≤ [(4 : Byte), 0].length ∧ [(4 : Byte), 0].length ≤ 98) ∧
    ((State.cold 24 false).ready ∧ (State.cold 24 false).conf = none ∧ 24 ≤ (State.cold 24 false).self) ∧
    (State.reset.conf = none ∧ State.reset.self < 24 ∧ readPlan [4, 0] = none ∧ readPlan [3, 0] = some (.fps2997, [])) := by
  unfold State.ready; decide +kernel

theorem witness_JoinResult :
    (joining Join.reset).ready ∧ (joining Join.reset).conf.isSome ∧ (joining Join.reset).ring.state = .locking ∧
    (ringed .relocking).ready ∧ (ringed .relocking).ring.state.onRing = true ∧ base.ready ∧ base.ring.state = .detached := by
  unfold State.ready; decide +kernel

theorem witness_LeaveResult :
    base.ready ∧ base.conf.isSome ∧ base.env.homesBus 0 = true ∧ base.env.requestsBus 2 = true ∧
    (joining Join.reset).ring.state = .locking ∧ base.ring.state ≠ .locking := by
  unfold State.ready; decide +kernel

theorem witness_LockPhase :
    let j : Join := { Join.reset with good := 63 }
    (joining j).clocked ∧ (joining j).ring.state = .locking ∧ (joining j).ring.join.listening = false ∧
      (joining j).ring.join.good = 63 ∧
      (((joining j).ring.advanceTag.countRun (frame 0)).adoptLocking (frame 0)).good (frame 0) = true ∧
      heardSelf (joining j).self (frame 0) = false ∧ heardSelf 5 (frame 0) = true := by
  refine ⟨⟨rfl, rfl⟩, rfl, rfl, rfl, ?_, ?_, ?_⟩
  · obtain ⟨a, b, c⟩ := first_arrival (joining { Join.reset with good := 63 }).ring.advanceTag (frame 0) rfl
    rw [adoptLocking_first _ _ a]
    exact good_frame _ _ b.symm c
  · simp only [heardSelf, heardHoldings, frame, buildFrame_emitter, buildFrame_cells]
    decide +kernel
  · simp only [heardSelf, heardHoldings, frame, buildFrame_emitter, buildFrame_cells]
    decide +kernel

theorem witness_InsertionByJoin :
    (let s := joining { Join.reset with listening := true, listenTime := 1023, upstream := some 5 }
     s.clocked ∧ s.self < 24 ∧ s.ring.state = .locking ∧ s.ring.present = 0 ∧ s.ring.join.listening = true ∧
       s.ring.join.listenTime = 1023 ∧ s.ring.join.upstream = some 5) ∧
    (let s := joining { Join.reset with time := 4095 }
     s.clocked ∧ s.self < 24 ∧ s.ring.state = .locking ∧ s.ring.present = 0 ∧ s.ring.join.heardAny = false ∧
       s.ring.join.listening = false ∧ s.ring.join.time = 4095) := by
  unfold State.clocked; decide +kernel

theorem witness_SettleResult :
    (let s : State := { base with ring := { base.ring with settle := 1 } }; s.clocked ∧ s.ring.settle = 1) ∧
    (let s : State := { base with desk := { base.desk with home := { base.desk.home with rise := some 499 } } }
     s.clocked ∧ s.ring.settle = 0 ∧ s.desk.home.rise = some (if s.rate96 then 999 else 499)) := by
  unfold State.clocked; decide +kernel

/-! ## Notices -/

/-- A CLAIM of bus 2 in flight since instant 0 and a DRIVE of it waiting. -/
def oneFlight : State :=
  let note : Note := { Note.reset with flight := [Flight.mk (.claim 2) .claim 0 0], pending := [Waiting.mk (.drive 2) .drive 5] }
  let desk : Desk := base.desk.setReq 2 { Requester.reset with claim := .claiming }
  { base with instant := 95, desk := { desk with note := note } }

theorem witness_NoteSlots : oneFlight.desk.note.wf := by unfold Note.wf; decide +kernel

theorem witness_NoteStep :
    ({ oneFlight with pending := [.clockReturn] } : State).desk.note.wf ∧
    step { oneFlight with pending := [.clockReturn] } = .next { oneFlight with pending := [] } :=
  ⟨witness_NoteSlots, rfl⟩

theorem witness_CellsOfAnArrival :
    let n : Notice := { kind := .claim, origin := 0, hop := 3, bus := 2, mark := .granted, payload := 0 }
    (readCell (writeCell n) = .notice n ∧ n.origin.toNat = oneFlight.self ∧
      slotOf? n.kind n.bus.toNat = some (.claim 2) ∧ (oneFlight.desk.note.flight? (.claim 2)).isSome ∧
      0 + n.hop.toNat + 1 ≠ oneFlight.instant) ∧
    (let m := { n with origin := 5 }
     readCell (writeCell m) = .notice m ∧ m.origin.toNat ≠ oneFlight.self ∧ m.hop.toNat < 48 ∧
       48 ≤ ({ m with hop := 48 } : Notice).hop.toNat ∧ m.mark ≠ .none) ∧
    base.desk.note.eligible? = none ∧
    oneFlight.desk.note.eligible? = some { slot := .drive 2, kind := .drive, payload := 5 } := by decide +kernel

/-- The return of the CLAIM placed 48 sp before. -/
theorem witness_OwnNoticeReturns :
    let n : Notice := { kind := .claim, origin := 0, hop := 47, bus := 2, mark := .refused, payload := 0 }
    let s : State := { oneFlight with instant := 48 }
    readCell (writeCell n) = .notice n ∧ slotOf? n.kind n.bus.toNat = some (.claim 2) ∧
      s.desk.note.flight? (.claim 2) = some (Flight.mk (.claim 2) .claim 0 0) ∧ 0 + n.hop.toNat + 1 = s.instant := by
  decide +kernel

/-- Foreign notices of every kind, from station 5 (present) and station 7 (absent). -/
theorem witness_ForeignNotices :
    let n (k : NoticeKind) (x : BitVec 5) (b : BitVec 5) (p : BitVec 32) : Notice :=
      { kind := k, origin := x, hop := 0, bus := b, mark := .none, payload := p }
    let s := ringed .inserted
    (∀ m ∈ [n .holdings 7 0 0x00031234, n .holdings 5 0 0x00039999, n .roster 5 0 9, n .roster 5 0 24, n .solo 5 0 3,
        n .solo 7 0 3, n .echo 5 2 0x403, n .echo 5 3 0x403, n .claim 5 0 0, n .drive 5 0 0x403, n .release 5 0 0,
        n .claim 5 2 0], readCell (writeCell m) = .notice m ∧ m.origin.toNat < 24 ∧ m.origin.toNat ≠ s.self) ∧
    StationSet.has s.ring.present 5 = true ∧ StationSet.has s.ring.present 7 = false ∧
    s.conf.map (·.digest) = some ((0x00031234 : BitVec 32).extractLsb' 0 16) ∧
    s.conf.map (·.digest) ≠ some ((0x00039999 : BitVec 32).extractLsb' 0 16) ∧
    (s.env.bus? 2).map (·.home) = some 5 ∧ (s.env.bus? 3).map (·.home) = some 9 ∧ s.env.homesBus 0 = true ∧
    s.env.homesBus 2 = false := by decide +kernel

/-- The requester of bus 2 with the entries that wait and are in flight in its slots. -/
def requester (r : Requester) (waiting : List Waiting) (flight : List Flight) : Desk :=
  { base.desk.setReq 2 r with note := { Note.reset with pending := waiting, flight := flight } }

/-- Notices this station does not answer, with mark NONE: of kinds without an answer, of a bus homed elsewhere, and from no
station. -/
theorem witness_MarkNoneStays :
    let n (k : NoticeKind) (x : BitVec 5) (b : BitVec 5) : Notice :=
      { kind := k, origin := x, hop := 47, bus := b, mark := .none, payload := 0 }
    let s := ringed .inserted
    (∀ m ∈ [n .holdings 5 0, n .roster 5 0, n .solo 5 0, n .echo 5 2, n .claim 5 2, n .drive 5 2, n .release 5 2,
        n .claim 24 0], readCell (writeCell m) = .notice m ∧ m.origin.toNat ≠ s.self ∧ m.hop.toNat < 48 ∧
          m.mark = .none) ∧
    (∀ b : Fin 24, (2 : BitVec 5).toNat = b.val → s.env.homesBus b = false) ∧ 24 ≤ (24 : BitVec 5).toNat := by
  decide +kernel

/-- The placement of a HOLDINGS, of an ECHO and of a DRIVE whose requester waits for it. -/
theorem witness_Placements :
    let r : Requester := { Requester.reset with claim := .releasing, deferred := true }
    let waiting (w : Waiting) : State := { base with desk := requester r [w] [] }
    (∀ w ∈ [Waiting.mk .holdings .holdings 0, Waiting.mk (.echo 0) .echo 927, Waiting.mk (.drive 2) .drive 5],
      (waiting w).desk.note.eligible? = some w) ∧
    base.conf = some conf ∧ Slot.holdings ≠ .drive 2 ∧
    (((waiting (Waiting.mk (.drive 2) .drive 5)).workCell 0).1.desk.note.waiting? (.claim 2)).map (·.kind) =
      some .release := by decide +kernel

/-- Station 0 with stations 0 and 5 present: 5 is the nearest predecessor, 9 is nearer, 3 is farther. -/
theorem witness_EmitterCheck :
    (ringed .inserted).self < 24 ∧ StationSet.has (ringed .inserted).ring.present (ringed .inserted).self = true ∧
    5 = nearestPredecessor 0x21 0 ∧ backCount 0 9 < backCount 0 (nearestPredecessor 0x21 0) ∧
    backCount 0 (nearestPredecessor 0x21 0) < backCount 0 3 := by decide +kernel

/-- Stations 5 and 9 leave: 9 drove bus 0, and bus 2, homed at 5, was driven from here. -/
theorem witness_StationsRemoved :
    let d := (base.desk.setHome 0 { Home.reset with driver := some 9 }).setReq 2 { Requester.reset with claim := .driving }
    let s : State := { ringed .inserted with desk := d, ring := { (ringed .inserted).ring with present := 0x221 } }
    (1 : StationSet) ≠ s.ring.present ∧ StationSet.has s.ring.present 9 = true ∧ StationSet.has (1 : StationSet) 9 = false ∧
      StationSet.has s.ring.present 5 = true ∧ StationSet.has (1 : StationSet) 5 = false ∧ s.env.homesBus 0 = true ∧
      (s.desk.homeOf 0).driver = some 9 ∧ (s.env.bus? 2).map (·.home) = some 5 ∧ 5 ≠ s.self ∧
      (s.desk.reqOf 2).claim = .driving ∧ StationSet.has (1 : StationSet) 0 = true := by decide +kernel

theorem witness_NoticeDeadlineResult :
    oneFlight.clocked ∧ (oneFlight.desk.note.flight? (.claim 2)) = some (Flight.mk (.claim 2) .claim 0 0) ∧
    0 + 96 ≤ oneFlight.instant + 1 ∧ (oneFlight.desk.reqOf 2).claim = .claiming := by
  unfold State.clocked; decide +kernel

theorem witness_HoldingsCounts :
    (let s : State := { ringed .inserted with desk := { base.desk with note := { base.desk.note with timer := 1023 } } }
     s.clocked ∧ s.ring.state.onRing = true ∧ s.desk.note.timer = 1023 ∧ s.env.homesBus 0 = true) ∧
    (let note : Note := { Note.reset with ages := Note.reset.ages.set 5 (some 4095) }
     let s : State := { base with desk := { base.desk with note := note } }
     s.clocked ∧ s.desk.note.ages[(5 : Fin 24)] = some 4095) := by
  unfold State.clocked; decide +kernel

/-! ## HOME and the requesters -/

/-- Bus 0 driven by station 9, one sample event before its lease runs out. -/
def driven : State := { base with desk := base.desk.setHome 0 { Home.reset with driver := some 9, lease := 2047 } }

/-- The requester of bus 2 in a claim state. -/
def requesting (c : ClaimState) : State :=
  { base with desk := base.desk.setReq 2 { Requester.reset with claim := c, keepalive := 511 } }

theorem witness_HomeAnswers : (base.desk.homeOf 0).driver = none ∧ (driven.desk.homeOf 0).driver = some 9 ∧ 9 ≠ 5 := by
  decide +kernel

/-- A touch and a release of bus 0 at its home, with no driver, with the station itself and with station 9. -/
theorem witness_LocalClaim :
    let own := base.desk.localClaim base.env 0
    (base.desk.homeOf 0).driver = none ∧ (own.homeOf 0).driver = some base.env.self ∧ 9 ≠ base.env.self ∧
      (driven.desk.localClaim base.env 0).flag .claimRefused = true ∧
      ((own.localRelease base.env 0).homeOf 0).driver = none ∧
      (driven.desk.homeOf 0).driver ≠ some base.env.self := by decide +kernel

theorem witness_LeaseAndKeepalive :
    (driven.clocked ∧ driven.env.homesBus 0 = true ∧ (driven.desk.homeOf 0).driver = some 9 ∧ 9 ≠ driven.self ∧
      (driven.desk.homeOf 0).lease = 2047) ∧
    ((requesting .driving).clocked ∧ (requesting .driving).env.requestsBus 2 = true ∧
      ((requesting .driving).desk.reqOf 2).claim = .driving ∧ ((requesting .driving).desk.reqOf 2).keepalive = 511) := by
  unfold State.clocked; decide +kernel

theorem witness_RequesterReturns :
    ((requesting .claiming).desk.reqOf 2).claim = .claiming ∧ ((requesting .cancelling).desk.reqOf 2).claim = .cancelling ∧
    ((requesting .driving).desk.reqOf 2).claim = .driving ∧ ((requesting .releasing).desk.reqOf 2).claim = .releasing := by
  decide +kernel

/-- Every way a touch, a release and a placement find the requester: its CLAIM waiting and in flight, its DRIVE waiting, its
RELEASE deferred, waiting and in flight, and its reclaim set. -/
theorem witness_RequesterTouchAndRelease :
    let r (c : ClaimState) : Requester := { Requester.reset with claim := c }
    let claiming := requester (r .claiming) [Waiting.mk (.claim 2) .claim 0] []
    let asked := requester (r .claiming) [] [Flight.mk (.claim 2) .claim 0 0]
    let driving := requester (r .driving) [] []
    let changed := requester (r .driving) [Waiting.mk (.drive 2) .drive 5] []
    let deferred := changed.reqRelease 2
    let releasing := driving.reqRelease 2
    let told := requester (r .releasing) [] [Flight.mk (.claim 2) .release 0 0]
    let reclaiming := told.reqTouch 2
    (claiming.note.waiting? (.claim 2)).isSome ∧ asked.note.waiting? (.claim 2) = none ∧
    ((asked.reqRelease 2).reqOf 2).claim = .cancelling ∧ ((requester (r .none) [] []).reqOf 2).claim = .none ∧
    driving.note.waiting? (.drive 2) = none ∧ (changed.note.waiting? (.drive 2)).isSome ∧
    ((deferred.reqOf 2).claim = .releasing ∧ (deferred.reqOf 2).deferred = true) ∧
    ((releasing.reqOf 2).claim = .releasing ∧ (releasing.reqOf 2).deferred = false ∧
      (releasing.note.waiting? (.claim 2)).map (·.kind) = some .release) ∧
    ((told.reqOf 2).claim = .releasing ∧ (told.reqOf 2).deferred = false ∧ told.note.waiting? (.claim 2) = none ∧
      (told.reqOf 2).reclaim = false) ∧
    ((reclaiming.reqOf 2).claim = .releasing ∧ (reclaiming.reqOf 2).reclaim = true) := by decide +kernel

/-! ## STRIP -/

theorem witness_RouteResult :
    (32 ≤ (32 : Byte).toNat ∧ readSource base.env 3 0 0 = none ∧ readSend base.env 4 0 = none ∧
      readSend base.env 0 2 = none) ∧
    (readSource base.env 2 2 0 = some (.ret 2 0) ∧ sourceHomed base.env (.ret 2 0) = false) ∧
    (readSource base.env 2 1 0 = some (.ret 1 0) ∧ readSend base.env 1 0 = some (some { bus := 1, offset := 0 }) ∧
      readSend base.env 0xFF 7 = some none ∧ sourceHomed base.env (.ret 1 0) = true ∧
      loops base.env (.ret 1 0) (some { bus := 1, offset := 0 }) none = true ∧
      loops base.env .input (some { bus := 1, offset := 0 }) none = false ∧ sourceHomed base.env .input = true) := by
  decide +kernel

theorem witness_SoloResult : base.ready ∧ base.conf.isSome ∧ 32 ≤ (32 : Byte).toNat ∧ (31 : Byte).toNat = (31 : Fin 32).val := by
  unfold State.ready; decide

theorem witness_RampEndResult :
    let x : Strip := { Strip.reset with level := Factor.mk Gain.zero Gain.one (.running Gain.zero 499 500) }
    let s : State := { base with desk := base.desk.setStrip 3 x }
    s.clocked ∧ (s.desk.factor (.level 3)).atLastStep (rampLength s.env) = true := by
  unfold State.clocked; decide +kernel

/-- Every way a factor stands, and the cases of a ramp length: 1501 samples into a frame of 2000, CHASING, UNLOCKED. -/
theorem witness_RampSteps :
    (∀ x ∈ [Ramp.running Gain.zero 3 500, .timed 500, .timed 1, .armed, .held],
      (({ base with desk := base.desk.setStrip 3 { Strip.reset with level := Factor.mk Gain.zero Gain.one x } } :
        State).desk.factor (.level 3)).ramp = x) ∧
    (locked .rolling 10 1501).conf = some conf ∧ (locked .rolling 10 1501).pos.offset + 1 < spf false conf.rate 10 ∧
    rampLength (locked .rolling 10 1501).env = 499 ∧ rampLength (locked .rolling 10 1500).env = 500 ∧
    rampLength (locked .rolling 10 1499).env = 1 ∧ rampLength (chasing 7 none none true).env = 500 ∧
    rampLength base.env = 500 ∧ (locked .rolling 10 1498).nextRampLength = 1 := by decide +kernel

theorem witness_GainLaw : (0 : Int) ≤ 3 ∧ 0 < 2 ∧ Gain.round 3 (Gain.ratio 1 2) = 2 ∧ Gain.round (-3) (Gain.ratio 1 2) = -2 := by
  decide +kernel

/-- Factors of the law, products and steps of ramps, irrational ones among them. -/
theorem witness_RoundingOfEveryFactor :
    (∀ g ∈ [Gain.ofLevel 900, Gain.ofLevel 1, Gain.ofLevel 0, Gain.ofMute 1, (Gain.ofLevel 900).mul (Gain.ofLevel 899),
      Factor.atStep Gain.one (Gain.ofLevel 847) 1 500], g.wf) ∧ (0 : Int) ≤ 8388607 := by
  unfold Gain.wf; decide +kernel

/-! ## TOUCH -/

/-- Line 3 enabled in a state, with its qualify interval code. -/
def lineIn (t : LineState) (count : Nat) (i : Fin 5) : State :=
  { base with desk := base.desk.setLine 3 { Line.reset with enable := true, state := t, count := count, interval := i } }

theorem witness_QualifiedEdges :
    (∀ s ∈ [lineIn .untouched 0 0, lineIn .qualifyTouch 95 2], s.resetLow = false ∧ s.clock = true ∧
      (s.desk.lineOf 3).enable = true ∧
      ((s.desk.lineOf 3).state = .untouched ∧ intervalSamples s.rate96 (s.desk.lineOf 3).interval = 0 ∨
        (s.desk.lineOf 3).state = .qualifyTouch ∧
          intervalSamples s.rate96 (s.desk.lineOf 3).interval ≤ (s.desk.lineOf 3).count + 1)) ∧
    (∀ s ∈ [lineIn .touched 0 0, lineIn .qualifyRelease 95 2], s.resetLow = false ∧ s.clock = true ∧
      (s.desk.lineOf 3).enable = true ∧
      ((s.desk.lineOf 3).state = .touched ∧ intervalSamples s.rate96 (s.desk.lineOf 3).interval = 0 ∨
        (s.desk.lineOf 3).state = .qualifyRelease ∧
          intervalSamples s.rate96 (s.desk.lineOf 3).interval ≤ (s.desk.lineOf 3).count + 1)) := by decide +kernel

/-- Line 3 mapped to a strip, to a bus homed here, to one homed elsewhere and to none; its target untouched, held by another
line, held by SURFACE, and held by line 3 alone. -/
theorem witness_TargetsHandedOver :
    (∀ m ∈ [(FaderTarget.strip 3, TouchTarget.control 12), (.bus 0, .bus 0), (.bus 2, .bus 2)],
      ∀ x ∈ [TargetState.mk 0 false, .mk 1 false, .mk 2 true, .mk 0 true],
        let s := lineIn .untouched 0 0
        let touch := Touch.setTarget x m.2 { s.desk.touch with map := s.desk.touch.map.set 3 m.1 }
        touch.map[(3 : Fin 32)] = m.1 ∧ m.1.target? = some m.2 ∧ touch.target m.2 = x) ∧
    FaderTarget.none.target? = none ∧ base.env.homesBus 0 = true ∧ base.env.requestsBus 2 = true := by decide +kernel

/-- Control 0 in a mode and a pass state, at a tick of ROLLING. -/
def atControl (m : Mode) (p : PassState) (glide : BitVec 6) : State :=
  let x : Control := { Control.reset 0 with mode := m, pass := p, glideLength := glide,
                                            openPass := (oneOpenPass.desk.control 0).openPass }
  { locked .rolling 10 500 with desk := base.desk.setControl 0 x }

theorem witness_TouchAndRelease :
    (∀ m ∈ [Mode.off, .read, .touch, .latch, .write], ∀ p ∈ [PassState.idle, .primed, .writing, .gliding, .holding],
      ∀ g ∈ [(0 : BitVec 6), 3], ((atControl m p g).desk.control 0).mode = m ∧ ((atControl m p g).desk.control 0).pass = p ∧
        ((atControl m p g).desk.control 0).glideLength = g ∧ ((atControl m p g).desk.control 0).openPass.isSome) ∧
    (atControl .touch .idle 0).env.pos.tick = some 40 ∧
    (atControl .touch .idle 0).desk.mayRecord (atControl .touch .idle 0).env 0 40 = true ∧
    (base.desk.mayRecord base.env 0 40 = false) ∧ base.env.pos.tick = none ∧
    (atControl .touch .idle 0).desk.take.queue.length + (atControl .touch .idle 0).desk.take.reserved < 32 ∧
    (32 ≤ ({ Take.reset with reserved := 32 } : Take).queue.length + ({ Take.reset with reserved := 32 } : Take).reserved) := by
  decide +kernel

theorem witness_TouchsetResult :
    base.ready ∧ base.conf.isSome ∧ 32 ≤ (32 : Byte).toNat ∧ 5 ≤ (5 : Byte).toNat ∧ (3 : Byte).toNat = (3 : Fin 32).val ∧
    (4 : Byte).toNat = (4 : Fin 5).val ∧ ((lineIn .touched 0 0).desk.lineOf 3).enable = true ∧
    (0 : Byte).getLsbD 0 = false ∧ (base.desk.lineOf 3).enable = (0 : Byte).getLsbD 0 := by
  unfold State.ready; decide +kernel

theorem witness_MapResult :
    base.ready ∧ mapTarget? base.env 2 4 = none ∧ mapTarget? base.env 3 0 = none ∧ mapTarget? base.env 0 9 = some .none ∧
    mapTarget? base.env 1 3 = some (.strip 3) ∧ mapTarget? base.env 2 0 = some (.bus 0) ∧
    mapTarget? base.env 2 2 = some (.bus 2) ∧ base.env.homesBus 0 = true ∧ base.env.homesBus 2 = false ∧
    base.desk.touch.map[(3 : Fin 32)] = .strip 3 ∧ base.desk.touch.map[(3 : Fin 32)] ≠ .bus 0 := by
  unfold State.ready; decide +kernel

theorem witness_SurfaceResult :
    (128 ≤ (128 : Byte).toNat ∧ 1023 < (1024 : BitVec 16).toNat ∧ (5 : Byte).toNat % 4 = 1 ∧ 1 < (2 : BitVec 16).toNat ∧
      2 < (3 : Byte).toNat) ∧
    (base.ready ∧ (127 : Fin 176).val < 128 ∧ (127 : Byte).toNat = (127 : Fin 176).val ∧ (1023 : BitVec 16).toNat ≤ 1023 ∧
      (base.desk.control 127).mode = .off) ∧
    (base.env.busOfByte? 0 = some 0 ∧ base.env.busOfByte? 2 = some 2 ∧ (1 : BitVec 16).toNat ≤ 1) := by
  unfold State.ready; decide +kernel

/-! ## AUTO -/

theorem witness_ControlCommand :
    (176 ≤ (176 : Byte).toNat ∧ modeOfCode? 5 = none ∧ 1 < (2 : Byte).toNat ∧ 63 < (64 : Byte).toNat) ∧
    (base.ready ∧ base.conf.isSome ∧ (127 : Byte).toNat = (127 : Fin 176).val ∧ modeOfCode? 2 = some .touch ∧
      (1 : Byte).toNat ≤ 1 ∧ (63 : Byte).toNat ≤ 63 ∧ (oneOpenPass.desk.control 0).openPass.isSome ∧
      (oneOpenPass.desk.control 0).mode ≠ .touch) ∧
    ((128 : Byte).toNat = 128 + 2 * (0 : Fin 24).val ∧ base.env.homesBus 0 = true ∧ base.env.requestsBus 2 = true ∧
      base.env.bus? 4 = none) := by
  unfold State.ready; decide +kernel

/-- The bus controls of a bus homed here, and every mode. -/
theorem witness_ControlOfBus :
    (∃ b, (128 : Fin 176) = masterId b ∧ base.env.homesBus b = true) ∧
    (∃ b, (131 : Fin 176) = masterMuteId b ∧ base.env.homesBus b = true) ∧
    ([0, 1, 2, 3, 4].map modeOfCode? = [some .off, some .read, some .touch, some .latch, some .write]) := by
  decide +kernel

theorem witness_WindowResult :
    (1 < (2 : Byte).toNat ∧ (5 : BitVec 32).toNat ≤ (5 : BitVec 32).toNat ∧ 67108863 < (67108864 : BitVec 32).toNat) ∧
    ((5 : BitVec 32).toNat < (67108863 : BitVec 32).toNat ∧ (67108863 : BitVec 32).toNat ≤ 67108863) := by decide

theorem witness_AbortCommands :
    oneOpenPass.ready ∧ oneOpenPass.conf.isSome ∧ oneOpenPass.desk.passInv ∧ oneOpenPass.desk.auto.pendingAbort = false ∧
    (let s : State := { base with desk := { base.desk with auto := { base.desk.auto with pendingAbort := true } } }
     s.ready ∧ s.conf.isSome ∧ s.desk.auto.pendingAbort = true) := by
  unfold State.ready Desk.passInv; decide +kernel

/-- ROLLING into page 1, with an abort pending and control 0 in the last tick of a glide. -/
def lastGlideTick : State :=
  let x : Control := { oneOpenPass.desk.control 0 with mode := .touch, pass := .gliding, glide := some (Glide.mk 800 2 1) }
  let desk : Desk := oneOpenPass.desk.setControl 0 x
  { locked .rolling 15 1999 with desk := { desk with auto := { desk.auto with pendingAbort := true } } }

theorem witness_TickEndsPasses :
    (lastGlideTick.clocked ∧ lastGlideTick.desk.auto.pendingAbort = true ∧
      (lastGlideTick.posOut (some 16)).made = some { index := 64, crossing := true } ∧
      (lastGlideTick.posOut (some 16)).events = []) ∧
    (let auto : Auto := { lastGlideTick.desk.auto with pendingAbort := false }
     let s : State := { lastGlideTick with desk := { lastGlideTick.desk with auto := auto } }
     s.clocked ∧ s.env.live 0 = true ∧ (s.posOut none).made = some { index := 64, crossing := true } ∧
       (s.posOut none).events = [] ∧ s.desk.auto.pendingAbort = false ∧ s.desk.auto.window = none ∧
       (s.desk.control 0).pass = .gliding ∧ (s.desk.control 0).glide = some { start := 800, length := 2, taken := 1 } ∧
       (s.desk.control 0).openPass.isSome) := by
  unfold State.clocked; decide +kernel

/-- Ticks at which the transport stops, reverses and begins to roll, with a pass open; the crossing with a roll. -/
theorem witness_TransportAtTheTick :
    ((rollingPass 1999).clocked ∧ ((rollingPass 1999).posOut (some 10)).made.isSome ∧
      ((rollingPass 1999).posOut (some 10)).events = [.stop]) ∧
    (((rollingPass 1999).posOut (some 9)).made.isSome ∧ ((rollingPass 1999).posOut (some 9)).events = [.reverse]) ∧
    ((locked .parked 15 1999).posOut (some 16)).events = [.roll] ∧
    ((locked .parked 15 1999).posOut (some 16)).made = some { index := 64, crossing := true } := by
  unfold State.clocked; decide +kernel

/-- Controls 0 and 4 primed, 8 writing, 12 holding, in ROLLING one sample event before tick 41; a window from 41 to 50. -/
def punchingIn : State :=
  let pass : Option OpenPass := (oneOpenPass.desk.control 0).openPass
  let primed : Control := { Control.reset 0 with mode := .touch, pass := .primed }
  let d := (((oneOpenPass.desk.setControl 0 primed).setControl 4 primed).setControl 8
      { Control.reset 0 with mode := .touch, pass := .writing, openPass := pass }).setControl 12
      { Control.reset 0 with mode := .latch, pass := .holding, openPass := pass }
  let auto : Auto := { d.auto with openCount := 2, window := some (41, 50) }
  { locked .rolling 10 499 with desk := { d with auto := auto, take := { d.take with reserved := 2 } } }

/-- The passes of a tick at the in-tick, and with PASS_FULL; tick 50 is at the out-tick. -/
theorem witness_PunchInAndOut :
    punchingIn.clocked ∧ (punchingIn.posOut none).made = some { index := 41, crossing := false } ∧
    (punchingIn.posOut none).events = [] ∧ (punchingIn.posOut none).pos.state = .rolling ∧
    punchingIn.desk.auto.pendingAbort = false ∧ punchingIn.desk.passInv ∧ punchingIn.desk.auto.window = some (41, 50) ∧
    (List.finRange 176).filter (fun j => punchingIn.env.live j && (punchingIn.desk.control j).pass == .primed &&
      !(punchingIn.desk.control j).safe) = [0, 4] ∧
    punchingIn.desk.take.queue.length + punchingIn.desk.take.reserved + 2 ≤ 32 ∧
    ((punchingIn.desk.control 8).pass = .writing ∧ (punchingIn.desk.control 12).pass = .holding ∧
      (punchingIn.desk.control 8).openPass.isSome ∧ punchingIn.env.live 8 = true) ∧
    ((locked .rolling 12 999).posOut none).made = some { index := 50, crossing := false } := by
  unfold State.clocked Desk.passInv; decide +kernel

/-- R124 step 5: only a last move left since the tick was produced leaves the opening move out (log 27). -/
theorem test_last_move_of_an_earlier_passage :
    ({ Control.reset 0 with lastMove := some { tick := 5, value := 0, current := true } }).movedAt 5 = true ∧
    ({ Control.reset 0 with lastMove := some { tick := 5, value := 0, current := false } }).movedAt 5 = false := by
  decide

/-! ## PLAY and TAKE -/

theorem witness_SpanResult :
    (1 < (2 : Byte).toNat ∧ (4 : BitVec 24).toNat < (5 : BitVec 24).toNat ∧ 1048575 < (1048576 : BitVec 24).toNat) ∧
    ((5 : BitVec 24).toNat ≤ (1048575 : BitVec 24).toNat ∧ (1048575 : BitVec 24).toNat ≤ 1048575) := by decide

/-- A page of number 0 without entries or moves. -/
def emptyPage : List Byte := [0, 0, 0, 0, 0, 0, 0x0E, 0x10]

/-- The page wanted in slot 2. -/
def wanting : State :=
  let slots := Play.reset.slots.set 2 (.wanted 0)
  { base with play := { Play.reset with slots := slots, wanted := some { page := 0, strays := 0 }, span := some (0, 10) } }

theorem witness_DeliverResult :
    (wanting.ready ∧ wanting.conf.isSome ∧ 8 ≤ emptyPage.length ∧ emptyPage.length ≤ 6680) ∧
    pageCheckRight (List.replicate 8 0) = false ∧
    (pageCheckRight emptyPage = true ∧ readPage emptyPage = some { number := 0, entries := [], moves := [] } ∧
      wanting.play.wanted.map (·.page) = some 0 ∧ wanting.play.slots[(2 : Fin 4)] = .wanted 0 ∧
      (0 : Page) ∈ playWindow wanting.pos ∧ wanting.play.inSpan 0 = true) ∧
    (base.play.wanted = none ∧ base.play.wanted.map (·.page) ≠ some 0) ∧
    ({ page := 1, strays := 2 } : Wanted).strays < 3 := by
  refine ⟨⟨⟨rfl, rfl⟩, rfl, by decide, by decide⟩, by decide +kernel, ⟨by decide +kernel, by decide +kernel, ?_⟩,
    by decide +kernel, by decide⟩
  decide +kernel

/-- The page of `wanting`, with a number of strays, in ROLLING at frame 10. -/
def wantingAfter (strays : Nat) : State :=
  { locked .rolling 10 500 with play := { wanting.play with wanted := some { page := 0, strays := strays } } }

theorem wantingAfter_wf (strays : Nat) (h : strays ≤ 3) : (wantingAfter strays).play.wf := by
  have free : ∀ i : Fin 4, i ≠ 2 → (wantingAfter strays).play.slots[i] = .free := by
    intro i hi
    match i with
    | 0 | 1 | 3 => rfl
    | 2 => exact absurd rfl hi
  have held : (wantingAfter strays).play.slots[(2 : Fin 4)] = .wanted 0 := rfl
  refine ⟨fun i j n hi hj => ?_, fun n => ⟨fun ⟨i, hi⟩ => ?_, fun e => ⟨2, ?_⟩⟩, fun w e => ?_⟩
  · have two : ∀ k : Fin 4, (wantingAfter strays).play.slots[k].page? = some n → k = 2 := by
      intro k hk
      by_contra hne
      rw [free k hne] at hk
      cases hk
    rw [two i hi, two j hj]
  · by_cases e : i = 2
    · subst e
      rw [held] at hi
      cases hi
      rfl
    · rw [free i e] at hi
      cases hi
  · cases e
    exact held
  · cases e
    exact h

/-- The fourth stray, and the page TAKEN with the current tick in it. -/
theorem witness_FourthStrayAndTaken :
    ((wantingAfter 3).play.wf ∧ (wantingAfter 3).play.wanted = some { page := 0, strays := 3 } ∧
      (0 : Page) ∈ playWindow (wantingAfter 3).pos ∧ (wantingAfter 3).play.inSpan 0 = true) ∧
    ((wantingAfter 1).pos.tick = some 40 ∧ (40 : Tick).toNat / 64 = (0 : Page).toNat ∧ (wantingAfter 1).play.wf ∧
      (wantingAfter 1).env.live 0 = true ∧ (wantingAfter 1).env.live 132 = false ∧ wanting.pos.tick = none) :=
  ⟨⟨wantingAfter_wf 3 (by decide), rfl, by decide +kernel, by decide +kernel⟩,
    rfl, by decide, wantingAfter_wf 1 (by decide), by decide +kernel, by decide +kernel, rfl⟩

theorem witness_PlayStep :
    step { wantingAfter 1 with pending := [.clockReturn] } = .next { wantingAfter 1 with pending := [] } := rfl

theorem witness_TakePages :
    (base.ready ∧ base.desk.take.order = []) ∧
    (let t : Take := { Take.reset with order := [2], slots := Take.reset.slots.set 2 (.closed (TakePage.mk 7 [] true)) }
     t.order = 2 :: [] ∧ t.slots[(2 : Fin 4)] = .closed (TakePage.mk 7 [] true)) ∧
    (let m : Move := { offset := 3, control := 9, value := 1 }
     [m].Pairwise (fun a b => a.offset < b.offset ∨ a.offset = b.offset ∧ a.control < b.control) ∧
       ∀ a ∈ [m], ¬ (a.offset = (3 : BitVec 6) ∧ a.control = (10 : Fin 176))) := by
  unfold State.ready; decide +kernel

/-- Slot 0 CLOSED with one move, slot 1 OPEN with `moves` in page 7. -/
def recording (moves : List Move) : Take :=
  { Take.reset with
    order := [0],
    slots := #v[.closed (TakePage.mk 6 [{ offset := 1, control := 3, value := 7 }] false), .opened (TakePage.mk 7 moves false),
                .free, .free] }

theorem recording_wf (moves : List Move) (h1 : 1 ≤ moves.length) (h2 : moves.length ≤ 1024) : (recording moves).wf := by
  have s0 : (recording moves).slots[(0 : Fin 4)] =
      .closed (TakePage.mk 6 [{ offset := 1, control := 3, value := 7 }] false) := rfl
  have s1 : (recording moves).slots[(1 : Fin 4)] = .opened (TakePage.mk 7 moves false) := rfl
  have s2 : (recording moves).slots[(2 : Fin 4)] = .free := rfl
  have s3 : (recording moves).slots[(3 : Fin 4)] = .free := rfl
  have order : (recording moves).order = [0] := rfl
  refine ⟨by simp [order], fun i => ?_, fun i j p q hi hj => ?_, fun i p hp => ?_⟩
  · match i with
    | 0 => simp [order, s0]
    | 1 => simp [order, s1]
    | 2 => simp [order, s2]
    | 3 => simp [order, s3]
  · have one : ∀ (k : Fin 4) (r : TakePage), (recording moves).slots[k] = .opened r → k = 1 := by
      intro k r hk
      match k with
      | 1 => rfl
      | 0 => rw [s0] at hk; cases hk
      | 2 => rw [s2] at hk; cases hk
      | 3 => rw [s3] at hk; cases hk
    rw [one i p hi, one j q hj]
  · match i with
    | 0 => rw [s0] at hp; cases hp; simp
    | 1 => rw [s1] at hp; cases hp; exact ⟨h1, h2⟩
    | 2 => rw [s2] at hp; cases hp
    | 3 => rw [s3] at hp; cases hp

/-- The page OPEN with moves, and a move of that page, of another, and with no FREE slot. -/
theorem witness_TakeAccepts :
    let m : Move := { offset := 1, control := 3, value := 7 }
    ((recording [m]).wf ∧ (recording (List.replicate 1024 m)).wf ∧ 1024 ≤ (List.replicate 1024 m).length) ∧
    ((recording [m]).lost ≠ some 7 ∧ (recording [m]).slots[(1 : Fin 4)] = .opened (TakePage.mk 7 [m] false) ∧
      (recording [m]).slots[(2 : Fin 4)] = .free ∧ (7 : Page) = BitVec.ofNat 20 ((448 : Tick).toNat / 64) ∧
      (8 : Page) = BitVec.ofNat 20 ((512 : Tick).toNat / 64) ∧ ((recording [m]).accept 512 3 9).2 = .kept) ∧
    (∀ j : Fin 4, (Vector.replicate 4 (TakeSlot.closed (TakePage.mk 7 [m] false)))[j] ≠ .free) := by
  have n : (List.replicate 1024 ({ offset := 1, control := 3, value := 7 } : Move)).length = 1024 := List.length_replicate
  refine ⟨⟨recording_wf _ (by decide) (by decide), recording_wf _ (by rw [n]; decide) n.le, n.ge⟩, ?_⟩
  decide +kernel

theorem witness_TakeStep :
    step { base with pending := [.clockReturn] } = .next { base with pending := [] } ∧ Take.reset.order = [] := ⟨rfl, rfl⟩

end Sys2Proof.Tests
end

section
/-!
What NOTE, HOME, STRIP, TOUCH and RING do to AUTO and TAKE, said once for every property of the desk. An operation either
keeps clear of both (`Desk.ClearOfAuto`), or reaches them through a touch, a release or a surface value; a property that
those three keep is kept by every phase of a sample event but POS's (`Desk.Reached`).
-/

set_option Elab.async false

namespace Sys2Proof.Machine

/-- An operation that keeps clear of AUTO, of TAKE, of the drivers and leases at the homes, and of the touch lines. -/
structure Desk.ClearOfAuto (d d' : Desk) : Prop where
  auto  : d'.auto = d.auto
  take  : d'.take = d.take
  homes : d'.home.homes = d.home.homes
  lines : d'.touch.lines = d.touch.lines

namespace Desk.ClearOfAuto

theorem same (d : Desk) : ClearOfAuto d d := ⟨rfl, rfl, rfl, rfl⟩

theorem andThen {a b c : Desk} (h : ClearOfAuto a b) (k : ClearOfAuto b c) : ClearOfAuto a c :=
  ⟨k.auto.trans h.auto, k.take.trans h.take, k.homes.trans h.homes, k.lines.trans h.lines⟩

theorem each {α : Type} (l : List α) (f : α → Desk → Desk) (h : ∀ a d, ClearOfAuto d (f a d)) (d : Desk) :
    ClearOfAuto d (d.each l f) := by
  unfold Desk.each
  induction l generalizing d with
  | nil => exact same d
  | cons a l ih => exact (h a d).andThen (ih (f a d))

theorem homeOf {d d' : Desk} (h : ClearOfAuto d d') (b : Fin 24) : d'.homeOf b = d.homeOf b := by
  unfold Desk.homeOf; rw [h.homes]

end Desk.ClearOfAuto

open Desk.ClearOfAuto (same andThen)

/-! ## The zone solo table and the gates (R77 to R80) -/

theorem Desk.clear_regateStrip (e : Env) (n : Fin 32) (d : Desk) : ClearOfAuto d (d.regateStrip e n) := by
  unfold Desk.regateStrip
  dsimp only
  generalize gateGain (d.gateOpen e (d.stripOf n) (d.stripOf n).send1) = x
  generalize gateGain (d.gateOpen e (d.stripOf n) (d.stripOf n).send2) = y
  exact ⟨rfl, rfl, rfl, rfl⟩

theorem Desk.clear_regate (e : Env) (d : Desk) : ClearOfAuto d (d.regate e) :=
  .each _ _ (Desk.clear_regateStrip e) d

theorem Desk.clear_stationGone (e : Env) (x : Nat) (d : Desk) : ClearOfAuto d (d.stationGone e x) :=
  andThen (b := d.setZones x 0) ⟨rfl, rfl, rfl, rfl⟩ (Desk.clear_regate e _)

theorem Desk.clear_stationSolo (e : Env) (x : Nat) (bits : SoloBits) (d : Desk) :
    ClearOfAuto d (d.stationSolo e x bits) := by
  unfold Desk.stationSolo
  split
  · exact same d
  · exact andThen (b := d.setZones x bits) ⟨rfl, rfl, rfl, rfl⟩ (Desk.clear_regate e _)

/-! ## The requester (R106 to R111) -/

theorem Desk.clear_reqTouch (b : Fin 24) (d : Desk) : ClearOfAuto d (d.reqTouch b) := by
  unfold Desk.reqTouch
  dsimp only
  repeat' split
  all_goals exact ⟨rfl, rfl, rfl, rfl⟩

theorem Desk.clear_reqRelease (b : Fin 24) (d : Desk) : ClearOfAuto d (d.reqRelease b) := by
  unfold Desk.reqRelease
  dsimp only
  repeat' split
  all_goals exact ⟨rfl, rfl, rfl, rfl⟩

theorem Desk.clear_claimReturn (b : Fin 24) (m : Mark) (d : Desk) : ClearOfAuto d (d.claimReturn b m) := by
  unfold Desk.claimReturn
  dsimp only
  split <;> exact ⟨rfl, rfl, rfl, rfl⟩

theorem Desk.clear_releaseReturn (b : Fin 24) (d : Desk) : ClearOfAuto d (d.releaseReturn b) := by
  unfold Desk.releaseReturn
  dsimp only
  repeat' split
  all_goals exact ⟨rfl, rfl, rfl, rfl⟩

theorem Desk.clear_driveReturn (b : Fin 24) (m : Mark) (d : Desk) : ClearOfAuto d (d.driveReturn b m) := by
  unfold Desk.driveReturn
  split <;> exact ⟨rfl, rfl, rfl, rfl⟩

theorem Desk.clear_keepaliveStep (b : Fin 24) (d : Desk) : ClearOfAuto d (d.keepaliveStep b) := by
  unfold Desk.keepaliveStep
  dsimp only
  repeat' split
  all_goals exact ⟨rfl, rfl, rfl, rfl⟩

theorem Desk.clear_reqEcho (b : Fin 24) (v : Value) (m : Bool) (d : Desk) : ClearOfAuto d (d.reqEcho b v m) := by
  unfold Desk.reqEcho
  dsimp only
  split <;> exact ⟨rfl, rfl, rfl, rfl⟩

theorem Desk.clear_homeGone (e : Env) (x : Nat) (b : Fin 24) (d : Desk) : ClearOfAuto d (d.homeGone e x b) := by
  unfold Desk.homeGone
  split <;> exact ⟨rfl, rfl, rfl, rfl⟩

/-! ## Notices (R44 to R58) -/

theorem Desk.clear_queueEcho (b : Fin 24) (d : Desk) : ClearOfAuto d (d.queueEcho b) := ⟨rfl, rfl, rfl, rfl⟩

theorem Desk.clear_queueHoldings (e : Env) (d : Desk) : ClearOfAuto d (d.queueHoldings e) :=
  andThen (b := { d.queue .holdings .holdings 0 with note := { (d.queue .holdings .holdings 0).note with timer := 0 } })
    ⟨rfl, rfl, rfl, rfl⟩ (.each _ _ Desk.clear_queueEcho _)

theorem Desk.clear_timerStep (e : Env) (d : Desk) : ClearOfAuto d (d.timerStep e) := by
  unfold Desk.timerStep
  split
  · exact Desk.clear_queueHoldings e d
  · exact ⟨rfl, rfl, rfl, rfl⟩

theorem Desk.clear_ageOf (e : Env) (x : Fin 24) (d : Desk) : ClearOfAuto d (d.ageOf e x) := by
  unfold Desk.ageOf
  dsimp only
  have h : ClearOfAuto d { d with note := { d.note with ages := d.note.ages.set x (ageStep d.note.ages[x]) } } :=
    ⟨rfl, rfl, rfl, rfl⟩
  split
  · exact h.andThen (Desk.clear_stationGone e _ _)
  · exact h

theorem Desk.clear_tellPlaced (x : Slot) (d : Desk) : ClearOfAuto d (d.tellPlaced x) := by
  unfold Desk.tellPlaced
  split
  · unfold Desk.drivePlaced
    dsimp only
    split <;> exact ⟨rfl, rfl, rfl, rfl⟩
  · exact same d

theorem Desk.clear_closeFlight (x : Slot) (k : NoticeKind) (m : Mark) (d : Desk) :
    ClearOfAuto d (d.closeFlight x k m) := by
  refine andThen (b := { d with note := d.note.close x }) ⟨rfl, rfl, rfl, rfl⟩ ?_
  unfold Desk.closeFlight Desk.handMark
  split
  · exact Desk.clear_claimReturn _ m _
  · exact Desk.clear_releaseReturn _ _
  · exact Desk.clear_driveReturn _ m _
  · exact same _

/-! ## Operations that reach AUTO -/

/-- A property of the change from one desk to a later one that no operation outside AUTO breaks, and no touch, release or
surface value that reaches a control. -/
structure Desk.Reached (R : Desk → Desk → Prop) : Prop where
  clear   : ∀ {d d' : Desk}, d'.auto = d.auto → d'.take = d.take → R d d'
  andThen : ∀ {a b c : Desk}, R a b → R b c → R a c
  touch   : ∀ (e : Env) (c : Fin 176) (d : Desk), R d (d.touchControl e c)
  release : ∀ (e : Env) (lost : Bool) (c : Fin 176) (d : Desk), R d (d.releaseControl e lost c)
  surface : ∀ (e : Env) (c : Fin 176) (v : Value) (d : Desk), R d (d.setSurface e c v)

namespace Desk.Reached

variable {R : Desk → Desk → Prop}

theorem same (h : Reached R) (d : Desk) : R d d := h.clear rfl rfl

theorem of_clear (h : Reached R) {d d' : Desk} (k : ClearOfAuto d d') : R d d' := h.clear k.auto k.take

theorem each (h : Reached R) {α : Type} (l : List α) (f : α → Desk → Desk) (k : ∀ a d, R d (f a d)) (d : Desk) :
    R d (d.each l f) := by
  unfold Desk.each
  induction l generalizing d with
  | nil => exact h.same d
  | cons a l ih => exact h.andThen (k a d) (ih (f a d))

theorem touchBoth (h : Reached R) (e : Env) (b : Fin 24) (d : Desk) : R d (d.touchBoth e b) :=
  h.andThen (h.touch e _ d) (h.touch e _ _)

theorem releaseBoth (h : Reached R) (e : Env) (lost : Bool) (b : Fin 24) (d : Desk) : R d (d.releaseBoth e lost b) :=
  h.andThen (h.release e lost _ d) (h.release e lost _ _)

theorem setBusSurface (h : Reached R) (e : Env) (b : Fin 24) (v w : Value) (d : Desk) :
    R d (d.setBusSurface e b v w) := h.andThen (h.surface e _ v d) (h.surface e _ w _)

theorem setDriver (h : Reached R) (b : Fin 24) (x : Option Nat) (d : Desk) : R d (d.setDriver b x) := h.clear rfl rfl

theorem setLine (h : Reached R) (f : Fin 32) (x : Line) (d : Desk) : R d (d.setLine f x) := h.clear rfl rfl

/-- A bus changes hands: its driver entry, its surface values, a touch of both its controls. -/
theorem grant (h : Reached R) (e : Env) (b : Fin 24) (x : Option Nat) (v w : Value) (d : Desk) :
    R d (((d.setDriver b x).setBusSurface e b v w).touchBoth e b) :=
  h.andThen (h.andThen (h.setDriver b x d) (h.setBusSurface e b v w _)) (h.touchBoth e b _)

/-- A bus is let go. -/
theorem letGo (h : Reached R) (e : Env) (lost : Bool) (b : Fin 24) (d : Desk) :
    R d ((d.setDriver b none).releaseBoth e lost b) := h.andThen (h.setDriver b none d) (h.releaseBoth e lost b _)

theorem homeClaim (h : Reached R) (e : Env) (b : Fin 24) (x : Nat) (d : Desk) : R d (d.homeClaim e b x).1 := by
  unfold Desk.homeClaim
  split
  · dsimp only
    generalize (d.control (masterId b)).applied = v
    generalize (d.control (masterMuteId b)).applied = w
    exact h.grant e b _ v w d
  · split
    · exact h.setDriver b _ d
    · exact h.same d

theorem homeDrive (h : Reached R) (e : Env) (b : Fin 24) (x : Nat) (v : Value) (m : Bool) (d : Desk) :
    R d (d.homeDrive e b x v m).1 := by
  unfold Desk.homeDrive
  split
  · exact h.andThen (h.setBusSurface e b v (muteValue m) d) (h.setDriver b (some x) _)
  · exact h.same d

theorem homeRelease (h : Reached R) (e : Env) (b : Fin 24) (x : Nat) (d : Desk) : R d (d.homeRelease e b x).1 := by
  unfold Desk.homeRelease
  split
  · exact h.letGo e false b d
  · exact h.same d

theorem localClaim (h : Reached R) (e : Env) (b : Fin 24) (d : Desk) : R d (d.localClaim e b) := by
  unfold Desk.localClaim
  split
  · exact h.grant e b _ _ _ d
  · split
    · exact h.same d
    · exact h.clear rfl rfl

theorem localRelease (h : Reached R) (e : Env) (b : Fin 24) (d : Desk) : R d (d.localRelease e b) := by
  unfold Desk.localRelease
  split
  · exact h.letGo e false b d
  · exact h.same d

theorem loseDriver (h : Reached R) (e : Env) (b : Fin 24) (d : Desk) : R d (d.loseDriver e b) :=
  h.andThen (h.letGo e true b d) (h.clear rfl rfl)

theorem leaseStep (h : Reached R) (e : Env) (b : Fin 24) (d : Desk) : R d (d.leaseStep e b) := by
  unfold Desk.leaseStep
  dsimp only
  split
  · exact h.same d
  · split
    · exact h.same d
    · split
      · exact h.loseDriver e b d
      · exact h.clear rfl rfl

theorem driverGone (h : Reached R) (e : Env) (x : Nat) (b : Fin 24) (d : Desk) : R d (d.driverGone e x b) := by
  unfold Desk.driverGone
  split
  · exact h.loseDriver e b d
  · exact h.same d

theorem handRemoved (h : Reached R) (e : Env) (x : Nat) (d : Desk) : R d (d.handRemoved e x) :=
  h.andThen (h.andThen (h.each _ _ (fun b d => h.driverGone e x b d) d)
    (h.each _ _ (fun b d => h.of_clear (Desk.clear_homeGone e x b d)) _)) (h.of_clear (Desk.clear_stationGone e x _))

theorem answer (h : Reached R) (e : Env) (b : Fin 24) (n : Notice) (d : Desk) : R d (d.answer e b n).1 := by
  unfold Desk.answer
  split
  · exact h.homeClaim e b _ d
  · exact h.homeDrive e b _ _ _ d
  · exact h.homeRelease e b _ d
  · exact h.same d

theorem deliverTouch (h : Reached R) (e : Env) (k : TouchTarget) (d : Desk) : R d (d.deliverTouch e k) := by
  unfold Desk.deliverTouch
  split
  · exact h.touch e _ d
  · split
    · exact h.localClaim e _ d
    · split
      · exact h.of_clear (Desk.clear_reqTouch _ d)
      · exact h.same d

theorem deliverRelease (h : Reached R) (e : Env) (k : TouchTarget) (d : Desk) : R d (d.deliverRelease e k) := by
  unfold Desk.deliverRelease
  split
  · exact h.release e false _ d
  · split
    · exact h.localRelease e _ d
    · split
      · exact h.of_clear (Desk.clear_reqRelease _ d)
      · exact h.same d

theorem changeTarget (h : Reached R) (e : Env) (k : TouchTarget) (f : TargetState → TargetState) (d : Desk) :
    R d (d.changeTarget e k f) := by
  unfold Desk.changeTarget
  dsimp only
  have set : R d { d with touch := d.touch.setTarget (f (d.touch.target k)) k } := h.clear rfl rfl
  split
  · exact h.andThen set (h.deliverTouch e k _)
  · exact h.andThen set (h.deliverRelease e k _)
  · exact set

theorem holdTarget (h : Reached R) (e : Env) (k : Option TouchTarget) (d : Desk) : R d (d.holdTarget e k) := by
  unfold Desk.holdTarget
  split
  · exact h.changeTarget e _ _ d
  · exact h.same d

theorem dropTarget (h : Reached R) (e : Env) (k : Option TouchTarget) (d : Desk) : R d (d.dropTarget e k) := by
  unfold Desk.dropTarget
  split
  · exact h.changeTarget e _ _ d
  · exact h.same d

theorem lineEdge (h : Reached R) (e : Env) (f : Fin 32) (x : LineEdge) (d : Desk) : R d (d.lineEdge e f x) := by
  unfold Desk.lineEdge
  dsimp only
  split
  · exact h.same d
  · exact h.andThen (h.setLine f _ d) (h.holdTarget e _ _)
  · exact h.andThen (h.setLine f _ d) (h.dropTarget e _ _)

theorem lineStep (h : Reached R) (e : Env) (high : Bool) (f : Fin 32) (d : Desk) : R d (d.lineStep e high f) := by
  unfold Desk.lineStep
  dsimp only
  split
  · exact h.andThen (h.setLine f _ d) (h.lineEdge e f _ _)
  · exact h.same d

theorem touchPhase (h : Reached R) (e : Env) (levels : BitVec 32) (d : Desk) : R d (d.touchPhase e levels) :=
  h.each _ _ (fun _ _ => h.lineStep e _ _ _) d

end Desk.Reached

/-! ## The whole state: POS and PLAY stay, the desk changes as `R` allows -/

/-- POS and PLAY are as they were, and the desk has changed as `R` allows. -/
structure State.DeskStep (R : Desk → Desk → Prop) (s t : State) : Prop where
  pos  : t.pos = s.pos
  play : t.play = s.play
  desk : R s.desk t.desk

namespace State.DeskStep

variable {R : Desk → Desk → Prop}

theorem andThen (h : Desk.Reached R) {a b c : State} (k : DeskStep R a b) (l : DeskStep R b c) : DeskStep R a c :=
  ⟨l.pos.trans k.pos, l.play.trans k.play, h.andThen k.desk l.desk⟩

/-- AUTO and TAKE are as they were. -/
theorem still (h : Desk.Reached R) {s t : State} (pos : t.pos = s.pos := by rfl) (play : t.play = s.play := by rfl)
    (auto : t.desk.auto = s.desk.auto := by rfl) (take : t.desk.take = s.desk.take := by rfl) : DeskStep R s t :=
  ⟨pos, play, h.clear auto take⟩

theorem same (h : Desk.Reached R) (s : State) : DeskStep R s s := .still h

theorem onDesk {f : Env → Desk → Desk} {s : State} (k : R s.desk (f s.env s.desk)) : DeskStep R s (s.onDesk f) :=
  ⟨rfl, rfl, k⟩

theorem foldl (h : Desk.Reached R) {α : Type} (l : List α) (f : State → α → State)
    (k : ∀ s a, DeskStep R s (f s a)) (s : State) : DeskStep R s (l.foldl f s) := by
  induction l generalizing s with
  | nil => exact same h s
  | cons a l ih => exact andThen h (k s a) (ih (f s a))

end State.DeskStep

namespace Desk.Reached

open State (DeskStep)

variable {R : Desk → Desk → Prop}

/-! ### NOTE and the roster -/

theorem applyRoster (h : Reached R) (now : StationSet) (s : State) : DeskStep R s (s.applyRoster now) := by
  unfold State.applyRoster
  dsimp only
  split
  · exact .still h
  · exact .andThen h (.still h) (.onDesk (h.each _ _ (h.handRemoved _) _))

theorem place (h : Reached R) (s : State) : DeskStep R s s.place.1 := by
  unfold State.place
  split
  · exact .still h
  · next w _ =>
    have told := Desk.clear_tellPlaced w.slot { s.desk with note :=
      { s.desk.note.withdraw w.slot with flight := (s.desk.note.withdraw w.slot).flight ++
          [{ slot := w.slot, kind := w.kind, payload := s.placedPayload w, placed := s.instant }] } }
    exact .still h (auto := told.auto) (take := told.take)

theorem strip (h : Reached R) (n : Notice) (s : State) : DeskStep R s (s.strip n) := by
  unfold State.strip
  split
  · split
    · split
      · exact ⟨rfl, rfl, h.of_clear (Desk.clear_closeFlight _ _ _ _)⟩
      · exact .still h
    · exact .still h
  · exact .still h

theorem mismatch (h : Reached R) (s : State) : DeskStep R s s.mismatch := by
  unfold State.mismatch
  split <;> exact .still h

theorem actHoldings (h : Reached R) (n : Notice) (s : State) : DeskStep R s (s.actHoldings n) := by
  unfold State.actHoldings
  dsimp only
  refine .andThen h (h.applyRoster (StationSet.add s.ring.present n.origin.toNat) s) ?_
  generalize s.applyRoster (StationSet.add s.ring.present n.origin.toNat) = s1
  refine .andThen h (b := { s1 with desk := { s1.desk with note :=
    { s1.desk.note with ages := s1.desk.note.ages.setIfInBounds n.origin.toNat (some 0) } } }) (.still h) ?_
  refine .andThen h (.onDesk (f := fun e d => d.stationSolo e n.origin.toNat (payloadHoldingsSolo n.payload))
    (h.of_clear (Desk.clear_stationSolo _ _ _ _))) ?_
  split
  · exact h.mismatch _
  · exact .still h

theorem actAnswered (h : Reached R) (n : Notice) (s : State) : DeskStep R s (s.actAnswered n).1 := by
  unfold State.actAnswered
  split
  · split
    · exact ⟨rfl, rfl, h.answer _ _ _ _⟩
    · exact .still h
  · exact .still h

theorem actEcho (h : Reached R) (n : Notice) (s : State) : DeskStep R s (s.actEcho n) := by
  unfold State.actEcho
  split
  · split
    · exact ⟨rfl, rfl, h.of_clear (Desk.clear_reqEcho _ _ _ _)⟩
    · exact .still h
  · exact .still h

theorem actSolo (h : Reached R) (n : Notice) (s : State) : DeskStep R s (s.actSolo n) := by
  unfold State.actSolo
  split
  · exact .onDesk (h.of_clear (Desk.clear_stationSolo _ _ _ _))
  · exact .still h

theorem actRoster (h : Reached R) (n : Notice) (s : State) : DeskStep R s (s.actRoster n) := by
  unfold State.actRoster
  dsimp only
  split
  · exact h.applyRoster _ s
  · exact .still h

theorem act (h : Reached R) (n : Notice) (s : State) : DeskStep R s (s.act n).1 := by
  unfold State.act
  split
  · split
    · exact h.actAnswered n s
    · exact h.actAnswered n s
    · exact h.actAnswered n s
    · exact h.actEcho n s
    · exact h.actSolo n s
    · exact h.actHoldings n s
    · exact h.actRoster n s
  · exact .still h

theorem workCell (h : Reached R) (c : BitVec 64) (s : State) : DeskStep R s (s.workCell c).1 := by
  unfold State.workCell
  split
  · exact h.place s
  · dsimp only
    split
    · exact .andThen h (.still h) (h.place { s with free := s.free + 1 })
    · exact .still h
  · split
    · exact h.strip _ s
    · exact h.act _ s

theorem workCells (h : Reached R) (cells : Vector (BitVec 64) 4) (s : State) : DeskStep R s (s.workCells cells).1 :=
  .andThen h (.andThen h (.andThen h (h.workCell _ s) (h.workCell _ _)) (h.workCell _ _)) (h.workCell _ _)

/-! ### RING -/

theorem emitterCheck (h : Reached R) (e : Nat) (s : State) : DeskStep R s (s.emitterCheck e) := by
  unfold State.emitterCheck
  split
  · exact .still h
  · exact .andThen h (h.applyRoster _ s) (.still h)

theorem goodArrival (h : Reached R) (b : Bool) (f : WireFrame) (s : State) : DeskStep R s (s.goodArrival b f).state := by
  unfold State.goodArrival
  dsimp only
  have count : DeskStep R s { s with ring := s.ring.countGood } := .still h
  split
  · exact .andThen h count (.andThen h (h.emitterCheck _ _) (h.workCells _ _))
  · exact .andThen h count (.andThen h (h.workCells _ _) (h.emitterCheck _ _))

theorem countBad (h : Reached R) (s : State) : DeskStep R s s.countBad := by
  unfold State.countBad
  dsimp only
  split <;> exact .still h

theorem endSilence (h : Reached R) (s : State) : DeskStep R s s.endSilence := by
  unfold State.endSilence
  dsimp only
  split <;> exact .still h

theorem arrive (h : Reached R) (b : Bool) (f : WireFrame) (s : State) : DeskStep R s (s.arrive b f).state := by
  unfold State.arrive
  dsimp only
  have heard : DeskStep R s { s.endSilence with
      ring := (s.endSilence.ring.countRun f).adoption s.endSilence.self f } := .andThen h (h.endSilence s) (.still h)
  split
  · exact .andThen h heard (h.goodArrival b f _)
  · exact .andThen h heard (.andThen h (h.countBad _) (h.workCells _ _))

theorem silence (h : Reached R) (s : State) : DeskStep R s s.silence.state := by
  have count : DeskStep R s s.countSilent := by
    unfold State.countSilent
    dsimp only
    split <;> exact .still h
  exact .andThen h count (h.workCells _ _)

theorem insert (h : Reached R) (p : StationSet) (r : JoinResult) (s : State) : DeskStep R s (s.insert p r) :=
  .andThen h (.andThen h (.andThen h (.still h) (h.applyRoster p { s with ring := { s.ring with state := .inserted } }))
    (.onDesk (h.of_clear (Desk.clear_queueHoldings _ _)))) (.still h)

theorem tapGood (h : Reached R) (f : WireFrame) (s : State) : DeskStep R s (s.tapGood f) := by
  unfold State.tapGood
  dsimp only
  split
  · exact .still h
  · split
    · unfold State.listen
      dsimp only
      split <;> exact .still h
    · exact .still h

theorem tapOther (h : Reached R) (s : State) : DeskStep R s s.tapOther := by
  unfold State.tapOther
  split <;> exact .still h

theorem tap (h : Reached R) (f : WireFrame) (s : State) : DeskStep R s (s.tap f) := by
  unfold State.tap
  dsimp only
  split
  · exact .andThen h (.still h) (h.tapGood f _)
  · exact .andThen h (.still h) (h.tapOther _)

theorem listenStep (h : Reached R) (b : Bool) (s : State) : DeskStep R s (s.listenStep b) := by
  unfold State.listenStep
  split
  · dsimp only
    split
    · exact .andThen h (.still h) (h.insert _ _ _)
    · exact .still h
  · exact .still h

theorem firstInStep (h : Reached R) (s : State) : DeskStep R s s.firstInStep := by
  unfold State.firstInStep
  split
  · exact .andThen h (.still h) (h.insert _ _ _)
  · exact .still h

theorem lockingStep (h : Reached R) (rx : Option WireFrame) (s : State) : DeskStep R s (s.lockingStep rx) := by
  unfold State.lockingStep
  dsimp only
  refine .andThen h (.andThen h ?_ (h.listenStep _ _)) (h.firstInStep _)
  split
  · exact .andThen h (.still h) (h.tap _ _)
  · exact .andThen h (.still h) (h.tapOther _)

/-- RING's part of a sample event. -/
theorem ringPhase (h : Reached R) (b : Bool) (rx : Option WireFrame) (s : State) :
    DeskStep R s (s.ringPhase b rx).state := by
  unfold State.ringPhase
  dsimp only
  have tag : DeskStep R s { s with ring := s.ring.advanceTag } := .still h
  split
  · exact .still h
  · exact .andThen h tag (h.lockingStep rx _)
  all_goals
    split
    · exact .andThen h tag (h.arrive b _ _)
    · exact .andThen h tag (h.silence _)

/-! ### The counts before the phases -/

theorem expireFlight (h : Reached R) (x : Slot) (s : State) : DeskStep R s (s.expireFlight x) := by
  unfold State.expireFlight
  split
  · split
    · exact ⟨rfl, rfl, h.of_clear (Desk.clear_closeFlight _ _ _ _)⟩
    · exact .still h
  · exact .still h

theorem countStep (h : Reached R) (s : State) : DeskStep R s s.countStep := by
  unfold State.countStep
  dsimp only
  have flights : DeskStep R s s.expireFlights := .foldl h _ _ (fun s x => h.expireFlight x s) s
  have ages := State.DeskStep.onDesk (s := s.expireFlights) (f := fun e d => d.each stationIndices (Desk.ageOf e))
    (h.each _ _ (fun x d => h.of_clear (Desk.clear_ageOf _ x d)) _)
  refine .andThen h (.andThen h (.andThen h flights ages) ?_) (.andThen h
    (.onDesk (h.each _ _ (fun b d => h.leaseStep _ b d) _))
    (.onDesk (h.each _ _ (fun b d => h.of_clear (Desk.clear_keepaliveStep b d)) _)))
  split
  · exact .onDesk (h.of_clear (Desk.clear_timerStep _ _))
  · exact .still h

theorem timers (h : Reached R) (s : State) : DeskStep R s s.timers :=
  .andThen h (b := State.settleStep (State.riseStep (0 < s.ring.settle) s.advanceInstant)) (.still h) (h.countStep _)

end Desk.Reached

end Sys2Proof.Machine
end

section
/-!
No operation of AUTO takes a record out of the pass record queue (R164): new ones join its newest end.
-/

set_option Elab.async false

namespace Sys2Proof.Machine

/-- The pass record queue holds what it held, with newer records behind. -/
def Desk.QueueGrows (d d' : Desk) : Prop := d.take.queue <+: d'.take.queue

namespace Desk.QueueGrows

theorem of_queue {d d' : Desk} (h : d'.take.queue = d.take.queue := by rfl) : QueueGrows d d' := by
  unfold QueueGrows; rw [h]

theorem andThen {a b c : Desk} (h : QueueGrows a b) (k : QueueGrows b c) : QueueGrows a c := List.IsPrefix.trans h k

theorem each {α : Type} (l : List α) (f : α → Desk → Desk) (h : ∀ a d, QueueGrows d (f a d)) (d : Desk) :
    QueueGrows d (d.each l f) := by
  unfold Desk.each
  induction l generalizing d with
  | nil => exact of_queue
  | cons a l ih => exact (h a d).andThen (ih (f a d))

end Desk.QueueGrows

open Desk.QueueGrows (of_queue andThen)

/-! ## TAKE's pages leave the records alone -/

@[simp] theorem Take.queue_closeOpen (t : Take) : t.closeOpen.queue = t.queue := by
  unfold Take.closeOpen
  split <;> rfl

@[simp] theorem Take.queue_leavePage (page : Page) (t : Take) : (t.leavePage page).queue = t.queue := by
  unfold Take.leavePage
  dsimp only
  have page1 : (match t.open? with
      | some (_, p) => if p.page = page then t else t.closeOpen
      | none => t).queue = t.queue := by
    split
    · split
      · rfl
      · exact Take.queue_closeOpen t
    · rfl
  split
  · split
    · exact page1
    · exact page1
  · exact page1

@[simp] theorem Take.queue_openFor (page : Page) (m : Move) (t : Take) : (t.openFor page m).1.queue = t.queue := by
  unfold Take.openFor
  split <;> rfl

@[simp] theorem Take.queue_accept (k : Tick) (c : Fin 176) (v : Value) (t : Take) :
    (t.accept k c v).1.queue = t.queue := by
  unfold Take.accept
  dsimp only
  split
  · rfl
  · split
    · split
      · split <;> rfl
      · exact (Take.queue_openFor _ _ _).trans (Take.queue_closeOpen _)
    · exact Take.queue_openFor _ _ _

/-! ## Applied values, moves and passes -/

theorem Desk.queue_decideApplied (e : Env) (c : Fin 176) (d : Desk) : QueueGrows d (d.decideApplied e c) :=
  of_queue (by rw [Desk.take_decideApplied])

theorem Desk.queue_appendMove (c : Fin 176) (t : Tick) (d : Desk) : QueueGrows d (d.appendMove c t) := by
  unfold Desk.appendMove
  dsimp only
  have kept := Take.queue_accept t c (d.control c).applied d.take
  split
  all_goals
    next k h => exact of_queue ((congrArg (fun x => x.1.queue) h).symm.trans kept)

theorem Desk.queue_closePass (e : Env) (r : CloseReason) (c : Fin 176) (d : Desk) :
    QueueGrows d (d.closePass e r c) := by
  unfold QueueGrows
  rw [(Desk.closePass_passes e r c d).1]
  exact List.prefix_append _ _

theorem Desk.queue_closeAll (e : Env) (r : CloseReason) (d : Desk) : QueueGrows d (d.closeAll e r) :=
  .each _ _ (Desk.queue_closePass e r) d

theorem Desk.queue_takeEvent (e : Env) (v : PosEvent) (d : Desk) : QueueGrows d (d.takeEvent e v) := by
  cases v
  case roll | framing => exact of_queue
  all_goals exact Desk.queue_closeAll e _ d

/-! ## Touch and release -/

theorem Desk.queue_prime (e : Env) (c : Fin 176) (d : Desk) : QueueGrows d (d.prime e c) :=
  andThen (b := d.setControl c _) of_queue (Desk.queue_decideApplied e c _)

theorem Desk.queue_openBetween (e : Env) (c : Fin 176) (t : Tick) (d : Desk) : QueueGrows d (d.openBetween e c t) := by
  unfold Desk.openBetween
  dsimp only
  refine andThen (andThen (b := d.openPass c t) of_queue (Desk.queue_decideApplied e c _)) ?_
  split
  · exact of_queue
  · exact Desk.queue_appendMove c t _

theorem Desk.queue_touchIdle (e : Env) (c : Fin 176) (d : Desk) : QueueGrows d (d.touchIdle e c) := by
  unfold Desk.touchIdle
  split
  · split
    · split
      · exact Desk.queue_openBetween e c _ d
      · exact andThen (b := d.raise .passFull) of_queue (Desk.queue_prime e c _)
    · exact Desk.queue_prime e c d
  · exact Desk.queue_prime e c d

theorem Desk.queue_takeBack (e : Env) (c : Fin 176) (d : Desk) : QueueGrows d (d.takeBack e c) :=
  andThen (b := d.setControl c _) of_queue (Desk.queue_decideApplied e c _)

theorem Desk.queue_touchControl (e : Env) (c : Fin 176) (d : Desk) : QueueGrows d (d.touchControl e c) := by
  unfold Desk.touchControl
  dsimp only
  refine andThen (b := d.setControl c { d.control c with touched := true }) of_queue ?_
  split
  case h_1 | h_2 => exact Desk.queue_touchIdle e c _
  case h_7 => exact of_queue
  all_goals exact Desk.queue_takeBack e c _

theorem Desk.queue_beginGlide (e : Env) (c : Fin 176) (d : Desk) : QueueGrows d (d.beginGlide e c) := by
  unfold Desk.beginGlide
  dsimp only
  split
  · exact Desk.queue_closePass e _ c d
  · exact of_queue

theorem Desk.queue_releaseControl (e : Env) (lost : Bool) (c : Fin 176) (d : Desk) :
    QueueGrows d (d.releaseControl e lost c) := by
  unfold Desk.releaseControl
  dsimp only
  have mark : QueueGrows d (if lost = true then (d.setControl c { d.control c with touched := false }).markDriverLost c
      else d.setControl c { d.control c with touched := false }) := by
    split <;> exact of_queue
  refine andThen mark ?_
  generalize (if lost = true then (d.setControl c { d.control c with touched := false }).markDriverLost c
      else d.setControl c { d.control c with touched := false }) = d1
  split
  · exact Desk.queue_beginGlide e c _
  · exact of_queue
  · exact andThen (b := d1.setControl c _) of_queue (Desk.queue_decideApplied e c _)
  · exact andThen (b := d1.setControl c _) of_queue (Desk.queue_decideApplied e c _)
  · exact of_queue

/-- No phase of a sample event takes a record out of the queue. -/
theorem Desk.reached_queueGrows : Desk.Reached QueueGrows where
  clear _ take := of_queue (by rw [take])
  andThen := andThen
  touch := Desk.queue_touchControl
  release := Desk.queue_releaseControl
  surface e c v d := andThen (b := d.setControl c { d.control c with surface := v }) of_queue
    (Desk.queue_decideApplied e c _)

/-! ## One tick (R138) -/

theorem Desk.queue_tickAbort (e : Env) (t : MadeTick) (d : Desk) : QueueGrows d (d.tickAbort e t) := by
  unfold Desk.tickAbort
  split
  · have closed := Desk.queue_closeAll e .abort d
    unfold Desk.fireAbort
    dsimp only
    generalize d.closeAll e .abort = x at closed ⊢
    exact andThen closed of_queue
  · exact of_queue

theorem Desk.queue_tickWindow (e : Env) (t : MadeTick) (d : Desk) : QueueGrows d (d.tickWindow e t) := by
  unfold Desk.tickWindow
  split
  · split
    · exact Desk.queue_closeAll e _ d
    · exact of_queue
  · exact of_queue

theorem Desk.queue_takePlayback (e : Env) (t : Tick) (c : Fin 176) (d : Desk) :
    QueueGrows d (d.takePlayback e t c) := by
  unfold Desk.takePlayback
  split <;> exact of_queue

theorem Desk.queue_tickGlide (c : Fin 176) (d : Desk) : QueueGrows d (d.tickGlide c) := by
  unfold Desk.tickGlide
  dsimp only
  split <;> exact of_queue

theorem Desk.queue_tickPunchIn (e : Env) (t : Tick) (c : Fin 176) (d : Desk) :
    QueueGrows d (d.tickPunchIn e t c) := by
  unfold Desk.tickPunchIn
  split
  · split <;> exact of_queue
  · exact of_queue

theorem Desk.queue_tickApplied (e : Env) (c : Fin 176) (d : Desk) : QueueGrows d (d.tickApplied e c) := by
  unfold Desk.tickApplied
  dsimp only
  split
  · exact of_queue (by rw [(Desk.control_apply e c _ d).1])
  · exact Desk.queue_decideApplied e c d

theorem Desk.queue_tickMove (e : Env) (t : Tick) (opened : Bool) (c : Fin 176) (d : Desk) :
    QueueGrows d (d.tickMove e t opened c) := by
  unfold Desk.tickMove
  dsimp only
  split
  · split
    · exact andThen (Desk.queue_appendMove c t d) of_queue
    · exact of_queue
  · exact of_queue

theorem Desk.queue_tickGlideEnd (e : Env) (c : Fin 176) (d : Desk) : QueueGrows d (d.tickGlideEnd e c) := by
  unfold Desk.tickGlideEnd
  split
  · split
    · exact Desk.queue_closePass e _ c d
    · exact of_queue
  · exact of_queue

theorem Desk.queue_takeTick (e : Env) (t : MadeTick) (d : Desk) : QueueGrows d (d.takeTick e t) := by
  unfold Desk.takeTick
  dsimp only
  have before : QueueGrows d ((d.ageMoves.tickAbort e t).tickWindow e t) :=
    andThen (andThen (b := d.ageMoves) of_queue (Desk.queue_tickAbort e t _)) (Desk.queue_tickWindow e t _)
  exact andThen (andThen (andThen (andThen (andThen (andThen before
    (.each _ _ (Desk.queue_takePlayback e t.index) _)) (.each _ _ Desk.queue_tickGlide _))
    (.each _ _ (Desk.queue_tickPunchIn e t.index) _)) (.each _ _ (Desk.queue_tickApplied e) _))
    (.each _ _ (fun c d => Desk.queue_tickMove e t.index _ c d) _)) (.each _ _ (Desk.queue_tickGlideEnd e) _)

end Sys2Proof.Machine
end

section
/-!
POS: the quarters of a frame and their ticks, what one sample event makes of the position counter, case by case, and the
invariant that it keeps (chapter 1).
-/

set_option Elab.async false

namespace Sys2Proof.Machine

/-! ## Frames, quarters, ticks and pages (R3, R4) -/

theorem spf_gt (rate96 : Bool) (rate : FrameRate) (f : FrameNo) : 1600 < spf rate96 rate f := by
  cases rate <;> cases rate96 <;> simp only [spf]
  case fps2997.false | fps2997.true => split <;> omega
  all_goals omega

@[simp] theorem quarterAt_zero (n : Nat) : quarterAt n 0 = some 0 := by simp [quarterAt, quarterStart]

/-- R4: the four quarters of a frame begin at four offsets. -/
theorem quarterAt_quarterStart {n : Nat} (hn : 4 ≤ n) (q : Fin 4) :
    quarterAt n (quarterStart n q.val) = some (BitVec.ofNat 2 q.val) := by
  unfold quarterAt quarterStart
  match q with
  | 0 => rw [if_pos (by simp)]; rfl
  | 1 => rw [if_neg (by simp; omega), if_pos (by simp)]; rfl
  | 2 => rw [if_neg (by simp; omega), if_neg (by simp; omega), if_pos (by simp)]; rfl
  | 3 => rw [if_neg (by simp; omega), if_neg (by simp; omega), if_neg (by simp; omega), if_pos (by simp)]; rfl

/-- R4: the tick index is frame × 4 + q. -/
theorem tickOf_eq (f : FrameNo) (q : Nat) (hq : q < 4) :
    tickOf f (BitVec.ofNat 2 q) = BitVec.ofNat 26 (f.toNat * 4 + q) := by
  apply BitVec.eq_of_toNat_eq
  have h := f.isLt
  have hq' : q % 2 ^ 2 = q := Nat.mod_eq_of_lt (by omega)
  unfold tickOf
  rw [BitVec.toNat_append, BitVec.toNat_ofNat, BitVec.toNat_ofNat, hq', ← Nat.shiftLeft_add_eq_or_of_lt (by omega),
    Nat.shiftLeft_eq]
  omega

theorem tickOf_zero (f : FrameNo) : tickOf f 0 = BitVec.ofNat 26 (f.toNat * 4) := tickOf_eq f 0 (by decide)

/-- R4: the page of a tick is its index div 64. -/
theorem pageOf_eq (t : Tick) : pageOf t = BitVec.ofNat 20 (t.toNat / 64) := by
  apply BitVec.eq_of_toNat_eq
  simp [pageOf, BitVec.extractLsb'_toNat, Nat.shiftRight_eq_div_pow]

theorem toNat_pageOf (t : Tick) : (pageOf t).toNat = t.toNat / 64 := by
  have h := t.isLt
  rw [pageOf_eq, BitVec.toNat_ofNat]
  omega

/-- R4: the offset of a tick in its page is its index mod 64. -/
theorem offsetOf_eq (t : Tick) : offsetOf t = BitVec.ofNat 6 (t.toNat % 64) := by
  apply BitVec.eq_of_toNat_eq
  simp [offsetOf, BitVec.extractLsb'_toNat]

theorem toNat_pageOfFrame (f : FrameNo) : (pageOfFrame f).toNat = f.toNat / 16 := by
  have h := f.isLt
  simp only [pageOfFrame, BitVec.extractLsb'_toNat, Nat.shiftRight_eq_div_pow]
  omega

/-- R5: a step of a motion crosses a page where the two frames lie in different pages. -/
theorem crosses_eq (left entered : FrameNo) (m : Motion) :
    crosses left entered m = decide (m ≠ .parked ∧ left.toNat / 16 ≠ entered.toNat / 16) := by
  have page : pageOfFrame left = pageOfFrame entered ↔ left.toNat / 16 = entered.toNat / 16 := by
    rw [← toNat_pageOfFrame, ← toNat_pageOfFrame, BitVec.toNat_inj]
  unfold crosses
  rw [Bool.eq_iff_iff]
  simp [page]

/-! ## Transport states -/

@[simp] theorem Motion.motion?_transport (m : Motion) : m.transport.motion? = some m := by cases m <;> rfl

theorem Motion.transport_ne_unlocked (m : Motion) : m.transport ≠ .unlocked := by cases m <;> decide

theorem Transport.eq_of_motion? {x : Transport} {m : Motion} (h : x.motion? = some m) : x = m.transport := by
  cases x <;> cases h <;> rfl

/-- R11: which flags the entry into a locked state raises. -/
theorem entryEvent_flags (before : Option Motion) (now : Motion) :
    ((entryEvent before now).any fun v => decide (v.flag = .roll)) =
        decide (now = .rolling ∧ before ≠ some .rolling) ∧
      ((entryEvent before now).any fun v => decide (v.flag = .stop)) =
        decide (now = .parked ∧ before = some .rolling) ∧
      ((entryEvent before now).any fun v => decide (v.flag = .reverse)) =
        decide (now = .reverse ∧ before ≠ some .reverse) := by
  rcases before with _ | m
  · cases now <;> decide
  · cases m <;> cases now <;> decide

/-! ## Ticks -/

theorem produceTick_of_quarter {n : Nat} {p : Pos} {m : Motion} {q : BitVec 2} (hm : p.state.motion? = some m)
    (hq : quarterAt n p.offset = some q) (crossing : Bool) (events : List PosEvent) :
    produceTick n crossing events p =
      { pos := { p with tick := some (tickOf p.frame q), cold := false }, events := events,
        made := some { index := tickOf p.frame q, crossing := crossing } } := by
  unfold produceTick; rw [hm, hq]

/-- R4: outside the quarter starts nothing is produced. -/
theorem produceTick_cases (n : Nat) (crossing : Bool) (events : List PosEvent) (p : Pos) :
    (∃ t k, produceTick n crossing events p =
        { pos := { p with tick := some t, cold := false }, events := events, made := some k }) ∨
      produceTick n crossing events p = { pos := p, events := events, made := none } := by
  unfold produceTick
  split
  · exact .inl ⟨_, _, rfl⟩
  · exact .inr rfl

/-- R9, R10, R13: entry into a frame in a locked state produces its quarter 0 tick. -/
theorem enterLocked_eq (rate96 : Bool) (rate : FrameRate) (left entered : FrameNo) (m : Motion) (events : List PosEvent)
    (p : Pos) :
    enterLocked rate96 rate left entered m events p =
      { pos := { p with state := m.transport, frame := entered, offset := 0,
                        tick := some (BitVec.ofNat 26 (entered.toNat * 4)), cold := false },
        events := events,
        made := some { index := BitVec.ofNat 26 (entered.toNat * 4),
                       crossing := crosses left entered m && !p.cold } } := by
  unfold enterLocked
  rw [produceTick_of_quarter (m := m) (q := 0) (Motion.motion?_transport m) (quarterAt_zero _), tickOf_zero]

/-! ## One sample event, case by case (R6 to R13) -/

section
variable {rate96 : Bool} {rate : FrameRate} {p : Pos} {m : Motion}

/-- R10: an edge at the due sample of a locked state. -/
theorem Pos.sample_edge_due (hp : p.state = m.transport) (hd : p.due rate96 rate = true) (f : FrameNo) :
    p.sample rate96 rate (some f) = takeEdgeLocked rate96 rate m f p := by
  simp [Pos.sample, hp, hd]

/-- R12: an edge off time in a locked state. -/
theorem Pos.sample_edge_off_time (hp : p.state = m.transport) (hd : p.due rate96 rate = false) (f : FrameNo) :
    p.sample rate96 rate (some f) = takeEdgeOffTime m f p := by
  simp [Pos.sample, hp, hd]

/-- R13: a due sample without an edge in a locked state. -/
theorem Pos.sample_miss (hp : p.state = m.transport) (hd : p.due rate96 rate = true) :
    p.sample rate96 rate none = missEdgeLocked rate96 rate m p := by
  simp [Pos.sample, hp, hd]

/-- R6: between edges a locked position moves by one sample. -/
theorem Pos.sample_move (hp : p.state = m.transport) (hd : p.due rate96 rate = false) :
    p.sample rate96 rate none =
      produceTick (spf rate96 rate p.frame) false [] { p with offset := p.offset + 1 } := by
  simp [Pos.sample, hp, hd]

/-- R8: an edge in UNLOCKED. -/
theorem Pos.sample_unlocked_edge (hp : p.state = .unlocked) (f : FrameNo) :
    p.sample rate96 rate (some f) = { pos := takeEdgeUnlocked f, events := [], made := none } := by
  simp [Pos.sample, hp, Transport.motion?]

theorem Pos.sample_unlocked_none (hp : p.state = .unlocked) :
    p.sample rate96 rate none = { pos := p, events := [], made := none } := by
  simp [Pos.sample, hp, Transport.motion?]

/-- R9: an edge in CHASING that is off time, or finds the chase frame absent. -/
theorem Pos.sample_chasing_fresh (hp : p.state = .chasing) (h : p.due rate96 rate = false ∨ p.chaseFrame = none)
    (f : FrameNo) : p.sample rate96 rate (some f) = takeEdgeFresh f p := by
  unfold Pos.sample
  rw [hp]
  dsimp only [Transport.motion?]
  split
  · next x hc hd =>
    rcases h with h | h
    · rw [h] at hd; cases hd
    · rw [h] at hc; cases hc
  · rfl

/-- R9: an edge on time in CHASING, the chase frame present. -/
theorem Pos.sample_chasing_due (hp : p.state = .chasing) (hd : p.due rate96 rate = true) {x : FrameNo}
    (hc : p.chaseFrame = some x) (f : FrameNo) :
    p.sample rate96 rate (some f) = takeEdgeChasing rate96 rate x f p := by
  simp [Pos.sample, hp, hd, hc, Transport.motion?]

/-- R9: a due sample without an edge in CHASING. -/
theorem Pos.sample_chasing_miss (hp : p.state = .chasing) (hd : p.due rate96 rate = true) :
    p.sample rate96 rate none = missEdgeChasing p := by
  simp [Pos.sample, hp, hd, Transport.motion?]

theorem Pos.sample_chasing_move (hp : p.state = .chasing) (hd : p.due rate96 rate = false) :
    p.sample rate96 rate none = { pos := { p with offset := p.offset + 1 }, events := [], made := none } := by
  simp [Pos.sample, hp, hd, Transport.motion?]

end

/-! ## The invariant (section 1.4) -/

/-- The invariant of a position counter of a configured part. -/
def Pos.inv (rate96 : Bool) (rate : FrameRate) (p : Pos) : Prop :=
  (p.state = .unlocked → p.resting) ∧
  (p.state.motion?.isSome → p.tick.isSome ∧ p.cold = false) ∧
  p.offset < spf rate96 rate p.frame ∧ p.fly ≤ 3

theorem Pos.resting_unlock (p : Pos) : p.unlock.resting := ⟨rfl, rfl, rfl, rfl, rfl, rfl, rfl⟩

section
variable (rate96 : Bool) (rate : FrameRate)

theorem Pos.offset_lt_spf_of_zero {p : Pos} (h : p.offset = 0) : p.offset < spf rate96 rate p.frame := by
  have := spf_gt rate96 rate p.frame
  omega

theorem Pos.inv_unlock (p : Pos) : p.unlock.inv rate96 rate :=
  ⟨fun _ => Pos.resting_unlock p, nofun, Pos.offset_lt_spf_of_zero _ _ rfl, Nat.zero_le _⟩

theorem Pos.inv_of_chasing {p : Pos} (hs : p.state = .chasing) (ho : p.offset = 0) (hf : p.fly ≤ 3) :
    p.inv rate96 rate :=
  ⟨fun h => absurd (hs.symm.trans h) (by decide), fun h => absurd h (by rw [hs]; decide), Pos.offset_lt_spf_of_zero _ _ ho, hf⟩

theorem enterLocked_keeps_inv (left entered : FrameNo) (m : Motion) (events : List PosEvent) {p : Pos}
    (hf : p.fly ≤ 3) : (enterLocked rate96 rate left entered m events p).pos.inv rate96 rate := by
  rw [enterLocked_eq]
  exact ⟨fun h => absurd h (Motion.transport_ne_unlocked m), fun _ => ⟨rfl, rfl⟩, Pos.offset_lt_spf_of_zero _ _ rfl, hf⟩

/-- R6: the offset moves on within the frame. -/
theorem Pos.inv_move {p : Pos} (h : p.inv rate96 rate) (hs : p.state ≠ .unlocked) (hd : p.due rate96 rate = false) :
    Pos.inv rate96 rate { p with offset := p.offset + 1 } := by
  obtain ⟨_, tick, _, fly⟩ := h
  exact ⟨fun h => absurd h hs, tick, by simpa [Pos.due] using hd, fly⟩

theorem takeEdgeLocked_keeps_inv (m : Motion) (f : FrameNo) (p : Pos) :
    (takeEdgeLocked rate96 rate m f p).pos.inv rate96 rate := by
  unfold takeEdgeLocked
  split
  · exact enterLocked_keeps_inv _ _ _ _ _ _ (Nat.zero_le _)
  · exact Pos.inv_of_chasing _ _ rfl rfl (Nat.zero_le _)

theorem takeEdgeOffTime_keeps_inv (m : Motion) (f : FrameNo) (p : Pos) :
    (takeEdgeOffTime m f p).pos.inv rate96 rate := by
  unfold takeEdgeOffTime
  dsimp only
  split <;> exact Pos.inv_of_chasing _ _ rfl rfl (Nat.zero_le _)

theorem missEdgeLocked_keeps_inv (m : Motion) (p : Pos) : (missEdgeLocked rate96 rate m p).pos.inv rate96 rate := by
  unfold missEdgeLocked
  split
  · exact Pos.inv_unlock _ _ p
  · exact enterLocked_keeps_inv _ _ _ _ _ _ (show p.fly + 1 ≤ 3 by omega)

theorem takeEdgeFresh_keeps_inv {p : Pos} (hp : p.state = .chasing) (f : FrameNo) :
    (takeEdgeFresh f p).pos.inv rate96 rate := by
  unfold takeEdgeFresh
  dsimp only
  split <;> exact Pos.inv_of_chasing _ _ hp rfl (Nat.zero_le _)

theorem takeEdgeChasing_keeps_inv {p : Pos} (hp : p.state = .chasing) (x f : FrameNo) :
    (takeEdgeChasing rate96 rate x f p).pos.inv rate96 rate := by
  unfold takeEdgeChasing
  dsimp only
  split
  · split
    · exact enterLocked_keeps_inv _ _ _ _ _ _ (Nat.zero_le _)
    · exact Pos.inv_of_chasing _ _ hp rfl (Nat.zero_le _)
  · exact Pos.inv_of_chasing _ _ hp rfl (Nat.zero_le _)

theorem missEdgeChasing_keeps_inv {p : Pos} (hp : p.state = .chasing) :
    (missEdgeChasing p).pos.inv rate96 rate := by
  unfold missEdgeChasing
  split
  · exact Pos.inv_unlock _ _ p
  · exact Pos.inv_of_chasing _ _ hp rfl (show p.fly + 1 ≤ 3 by omega)

/-- One sample event keeps the invariant, with and without an edge. -/
theorem Pos.sample_keeps_inv (edge : Option FrameNo) {p : Pos} (h : p.inv rate96 rate) :
    (p.sample rate96 rate edge).pos.inv rate96 rate := by
  rcases hm : p.state.motion? with _ | m
  · rcases hs : p.state with _ | _ | _ | _ | _
    case parked | rolling | reverse => rw [hs] at hm; cases hm
    case unlocked =>
      rcases edge with _ | f
      · rwa [Pos.sample_unlocked_none hs]
      · rw [Pos.sample_unlocked_edge hs]
        exact Pos.inv_of_chasing _ _ rfl rfl (Nat.zero_le _)
    case chasing =>
      rcases hd : p.due rate96 rate with _ | _
      · rcases edge with _ | f
        · rw [Pos.sample_chasing_move hs hd]
          exact Pos.inv_move _ _ h (by rw [hs]; decide) hd
        · rw [Pos.sample_chasing_fresh hs (.inl hd)]
          exact takeEdgeFresh_keeps_inv _ _ hs f
      · rcases edge with _ | f
        · rw [Pos.sample_chasing_miss hs hd]
          exact missEdgeChasing_keeps_inv _ _ hs
        · rcases hc : p.chaseFrame with _ | x
          · rw [Pos.sample_chasing_fresh hs (.inr hc)]
            exact takeEdgeFresh_keeps_inv _ _ hs f
          · rw [Pos.sample_chasing_due hs hd hc]
            exact takeEdgeChasing_keeps_inv _ _ hs x f
  · have hs := Transport.eq_of_motion? hm
    rcases hd : p.due rate96 rate with _ | _
    · rcases edge with _ | f
      · rw [Pos.sample_move hs hd]
        have locked : p.state ≠ .unlocked := hs ▸ Motion.transport_ne_unlocked m
        have moved := Pos.inv_move _ _ h locked hd
        rcases produceTick_cases (spf rate96 rate p.frame) false [] { p with offset := p.offset + 1 } with ⟨t, k, e⟩ | e
        · rw [e]
          obtain ⟨_, _, offset, fly⟩ := moved
          exact ⟨fun h => absurd h locked, fun _ => ⟨rfl, rfl⟩, offset, fly⟩
        · rwa [e]
      · rw [Pos.sample_edge_off_time hs hd]
        exact takeEdgeOffTime_keeps_inv _ _ m f p
    · rcases edge with _ | f
      · rw [Pos.sample_miss hs hd]
        exact missEdgeLocked_keeps_inv _ _ m p
      · rw [Pos.sample_edge_due hs hd]
        exact takeEdgeLocked_keeps_inv _ _ m f p

end

end Sys2Proof.Machine
end

section
/-!
A sample event taken apart: the counts before the phases where no lease runs out (R104), POS's phase, and the parts before
and behind it in whichever of the six orders the sender has chosen (log 2).
-/

set_option Elab.async false

namespace Sys2Proof.Machine

/-! ## The counts before the phases (R54, R55, R58, R104, R108) -/

theorem Desk.each_of_fixed {α : Type} {l : List α} {f : α → Desk → Desk} {d : Desk} (h : ∀ a ∈ l, f a d = d) :
    d.each l f = d := by
  unfold Desk.each
  induction l with
  | nil => rfl
  | cons a l ih =>
    rw [List.foldl_cons, h a List.mem_cons_self]
    exact ih fun b hb => h b (List.mem_cons_of_mem a hb)

/-- R104: no remote driver of a bus is at the end of its lease. -/
def Desk.leasesRun (self : Nat) (d : Desk) : Prop :=
  ∀ b x, (d.homeOf b).driver = some x → x ≠ self → (d.homeOf b).lease < 2047

/-- R104: a lease that does not run out counts, and that is all. -/
theorem Desk.leaseStep_of_runs {e : Env} {b : Fin 24} {d : Desk}
    (h : ∀ x, (d.homeOf b).driver = some x → x ≠ e.self → (d.homeOf b).lease < 2047) :
    ∃ n, d.leaseStep e b = d.setHome b { d.homeOf b with lease := n } ∨ d.leaseStep e b = d := by
  unfold Desk.leaseStep
  dsimp only
  split
  · exact ⟨0, .inr rfl⟩
  · next x hx =>
    split
    · exact ⟨0, .inr rfl⟩
    · next hs =>
      rw [if_neg (by have := h x hx hs; omega)]
      exact ⟨_, .inl rfl⟩

/-- What the counts leave of the desk where no lease runs out: AUTO, TAKE, the touch lines and every driver. -/
structure Desk.Counted (d d' : Desk) : Prop where
  auto    : d'.auto = d.auto
  take    : d'.take = d.take
  lines   : d'.touch.lines = d.touch.lines
  drivers : ∀ b, (d'.homeOf b).driver = (d.homeOf b).driver

namespace Desk.Counted

theorem same (d : Desk) : Counted d d := ⟨rfl, rfl, rfl, fun _ => rfl⟩

theorem andThen {a b c : Desk} (h : Counted a b) (k : Counted b c) : Counted a c :=
  ⟨k.auto.trans h.auto, k.take.trans h.take, k.lines.trans h.lines, fun b => (k.drivers b).trans (h.drivers b)⟩

theorem of_clear {d d' : Desk} (h : ClearOfAuto d d') : Counted d d' :=
  ⟨h.auto, h.take, h.lines, fun b => by rw [h.homeOf]⟩

end Desk.Counted

/-- R104: the leases of the homed buses count one after the other, each for itself. -/
theorem Desk.counted_leases (e : Env) (l : List (Fin 24)) (hl : l.Nodup) (d : Desk)
    (h : ∀ b ∈ l, ∀ x, (d.homeOf b).driver = some x → x ≠ e.self → (d.homeOf b).lease < 2047) :
    Counted d (d.each l (Desk.leaseStep e)) := by
  induction l generalizing d with
  | nil => exact .same d
  | cons b l ih =>
    obtain ⟨hb, hl⟩ := List.nodup_cons.mp hl
    have step : Counted d (d.leaseStep e b) ∧ ∀ c, c ≠ b → (d.leaseStep e b).homeOf c = d.homeOf c := by
      obtain ⟨n, k | k⟩ := Desk.leaseStep_of_runs (h b List.mem_cons_self)
      · rw [k]
        refine ⟨⟨rfl, rfl, rfl, fun c => ?_⟩, fun c hc => by simp [hc]⟩
        by_cases hc : c = b
        · subst hc; simp
        · simp [hc]
      · rw [k]
        exact ⟨.same d, fun _ _ => rfl⟩
    refine step.1.andThen (ih hl _ fun c hc => ?_)
    rw [step.2 c fun k => hb (k ▸ hc)]
    exact h c (List.mem_cons_of_mem b hc)

theorem State.expireFlight_eq (x : Slot) (s : State) :
    ∃ d, s.expireFlight x = { s with desk := d } ∧ Desk.ClearOfAuto s.desk d := by
  unfold State.expireFlight
  split
  · split
    · exact ⟨_, rfl, Desk.clear_closeFlight _ _ _ _⟩
    · exact ⟨_, rfl, .same _⟩
  · exact ⟨_, rfl, .same _⟩

theorem State.expireFlights_eq (s : State) :
    ∃ d, s.expireFlights = { s with desk := d } ∧ Desk.ClearOfAuto s.desk d := by
  unfold State.expireFlights
  induction s.desk.note.flight.map (·.slot) generalizing s with
  | nil => exact ⟨_, rfl, .same _⟩
  | cons x l ih =>
    obtain ⟨d, hd, k⟩ := State.expireFlight_eq x s
    obtain ⟨d', hd', k'⟩ := ih (s.expireFlight x)
    rw [List.foldl_cons, hd']
    rw [hd] at k' ⊢
    exact ⟨d', rfl, k.andThen k'⟩

theorem State.onDesk_eq {f : Env → Desk → Desk} {s : State} (h : Desk.ClearOfAuto s.desk (f s.env s.desk)) :
    ∃ d, s.onDesk f = { s with desk := d } ∧ Desk.ClearOfAuto s.desk d := ⟨_, rfl, h⟩

/-- The counts of NOTE and HOME change the desk alone, and of AUTO and TAKE nothing where no lease runs out. -/
theorem State.countStep_eq {s : State} (h : s.desk.leasesRun s.self) :
    ∃ d, s.countStep = { s with desk := d } ∧ Desk.Counted s.desk d := by
  unfold State.countStep
  dsimp only
  obtain ⟨d1, e1, k1⟩ := State.expireFlights_eq s
  rw [e1]
  obtain ⟨d2, e2, k2⟩ := State.onDesk_eq (s := { s with desk := d1 }) (f := fun e d => d.each stationIndices (Desk.ageOf e))
    (.each _ _ (Desk.clear_ageOf _) _)
  rw [e2]
  obtain ⟨d3, e3, k3⟩ : ∃ d3,
      (if s.ring.state.onRing then State.onDesk Desk.timerStep { s with desk := d2 } else { s with desk := d2 }) =
        { s with desk := d3 } ∧ Desk.ClearOfAuto d2 d3 := by
    split
    · exact State.onDesk_eq (s := { s with desk := d2 }) (Desk.clear_timerStep _ _)
    · exact ⟨_, rfl, .same _⟩
  rw [e3]
  have clear := (k1.andThen k2).andThen k3
  have leases := Desk.counted_leases s.env s.env.homedBuses ((List.nodup_finRange 24).filter _) d3
    (fun b _ x hx hs => by rw [clear.homeOf] at hx ⊢; exact h b x hx hs)
  exact ⟨_, rfl, ((Desk.Counted.of_clear clear).andThen leases).andThen
    (.of_clear (.each s.env.requestedBuses Desk.keepaliveStep Desk.clear_keepaliveStep _))⟩

/-- R104: where no lease runs out, the counts of a sample event leave AUTO, TAKE, the lines, the drivers and the ring state. -/
theorem State.counted_timers {s : State} (h : s.desk.leasesRun s.self) :
    Desk.Counted s.desk s.timers.desk ∧ s.timers.ring.state = s.ring.state := by
  obtain ⟨d, e, k⟩ := State.countStep_eq (s := (s.advanceInstant.riseStep (0 < s.ring.settle)).settleStep) h
  unfold State.timers
  rw [e]
  exact ⟨⟨k.auto, k.take, k.lines, k.drivers⟩, rfl⟩

/-! ## POS's phase -/

theorem State.posOut_of_conf {s : State} {c : Conf} (h : s.conf = some c) (edge : Option FrameNo) :
    s.posOut edge = s.pos.sample s.rate96 c.rate edge := by
  unfold State.posOut; rw [h]

/-- What POS makes of a sample event depends on POS, the sample rate and the configuration alone. -/
theorem State.posOut_congr {s t : State} (pos : t.pos = s.pos) (rate96 : t.rate96 = s.rate96) (conf : t.conf = s.conf)
    (edge : Option FrameNo) : t.posOut edge = s.posOut edge := by
  unfold State.posOut; rw [pos, rate96, conf]

/-- What POS hands on reaches the desk and PLAY. -/
theorem State.takePosEvents_eq (l : List PosEvent) (s : State) :
    ∃ d y, l.foldl (fun (s : State) v => s.takePosEvent v) s = { s with desk := d, play := y } := by
  induction l generalizing s with
  | nil => exact ⟨_, _, rfl⟩
  | cons v l ih =>
    obtain ⟨d, y, e⟩ : ∃ d y, s.takePosEvent v = { s with desk := d, play := y } := by
      unfold State.takePosEvent
      dsimp only
      split <;> exact ⟨_, _, rfl⟩
    obtain ⟨d', y', e'⟩ := ih (s.takePosEvent v)
    refine ⟨d', y', ?_⟩
    rw [List.foldl_cons, e', e]

/-- What a tick does at PLAY and at AUTO; TAKE has left the pages behind the tick, and a late page is reported. -/
theorem State.takeTick_eq (t : MadeTick) (s : State) :
    ∃ d : Desk, s.takeTick t =
        { s with play := s.play.tick s.pos t.index,
                 desk := d.takeTick { s.env with play := s.play.tick s.pos t.index } t } ∧
      d.auto = s.desk.auto ∧ d.take.queue = s.desk.take.queue := by
  unfold State.takeTick
  dsimp only
  split
  · exact ⟨_, rfl, rfl, Take.queue_leavePage _ _⟩
  · exact ⟨_, rfl, rfl, Take.queue_leavePage _ _⟩

/-- POS's phase of a sample event changes POS, the desk and PLAY, and nothing else. -/
theorem State.posPhase_eq (edge : Option FrameNo) (s : State) :
    ∃ d y, s.posPhase edge = { s with pos := (s.posOut edge).pos, desk := d, play := y } := by
  obtain ⟨d, y, e⟩ := State.takePosEvents_eq (s.posOut edge).events { s with pos := (s.posOut edge).pos }
  unfold State.posPhase
  dsimp only
  rw [e]
  split
  · obtain ⟨d', e', _⟩ := State.takeTick_eq _ { s with pos := (s.posOut edge).pos, desk := d, play := y }
    exact ⟨_, _, e'⟩
  · exact ⟨_, _, rfl⟩

@[simp] theorem State.pos_posPhase (edge : Option FrameNo) (s : State) :
    (s.posPhase edge).pos = (s.posOut edge).pos := by
  obtain ⟨d, y, e⟩ := State.posPhase_eq edge s
  rw [e]

/-- Where no tick is produced, POS hands on its events alone. -/
theorem State.posPhase_of_no_tick {edge : Option FrameNo} {s : State} (h : (s.posOut edge).made = none) :
    s.posPhase edge =
      (s.posOut edge).events.foldl (fun s v => s.takePosEvent v) { s with pos := (s.posOut edge).pos } := by
  unfold State.posPhase
  dsimp only
  rw [h]

/-- Where POS hands on no event and produces no tick, it alone has moved. -/
theorem State.posPhase_of_quiet {edge : Option FrameNo} {s : State} (hm : (s.posOut edge).made = none)
    (he : (s.posOut edge).events = []) : s.posPhase edge = { s with pos := (s.posOut edge).pos } := by
  rw [State.posPhase_of_no_tick hm, he, List.foldl_nil]

/-- R138: where a tick is produced, the events come before it. -/
theorem State.posPhase_of_tick {edge : Option FrameNo} {s : State} {k : MadeTick} (h : (s.posOut edge).made = some k) :
    s.posPhase edge = ((s.posOut edge).events.foldl (fun (s : State) v => s.takePosEvent v)
      { s with pos := (s.posOut edge).pos }).takeTick k := by
  unfold State.posPhase
  dsimp only
  rw [h]

/-! ## What transport events do to PLAY and to the passes (R132, R133, R144) -/

/-- PLAY takes no transport event but JUMP. -/
theorem State.play_takePosEvent {v : PosEvent} (h : v ≠ .jump) (s : State) : (s.takePosEvent v).play = s.play := by
  unfold State.takePosEvent
  dsimp only
  rw [if_neg h]
  rfl

theorem State.entered_jump (s : State) : (s.takePosEvent .jump).play.entered = none := by
  unfold State.takePosEvent
  dsimp only
  rw [if_pos rfl]
  rfl

/-- R144: after a JUMP no page is entered. -/
theorem State.entered_takePosEvents {l : List PosEvent} (h : .jump ∈ l) (s : State) :
    (l.foldl (fun s v => s.takePosEvent v) s).play.entered = none := by
  have keep : ∀ (v : PosEvent) (s : State), s.play.entered = none → (s.takePosEvent v).play.entered = none := by
    intro v s hs
    by_cases hv : v = .jump
    · rw [hv]; exact State.entered_jump s
    · rw [State.play_takePosEvent hv]; exact hs
  have keeps : ∀ (l : List PosEvent) (s : State), s.play.entered = none →
      (l.foldl (fun s v => s.takePosEvent v) s).play.entered = none := by
    intro l
    induction l with
    | nil => exact fun _ hs => hs
    | cons v l ih => exact fun s hs => ih _ (keep v s hs)
  induction l generalizing s with
  | nil => cases h
  | cons v l ih =>
    rw [List.foldl_cons]
    rcases List.mem_cons.mp h with rfl | h
    · exact keeps l _ (State.entered_jump s)
    · exact ih h (s.takePosEvent v)

theorem State.desk_takePosEvent (v : PosEvent) (s : State) :
    (s.takePosEvent v).desk = (s.desk.raise v.flag).takeEvent s.env v := by
  unfold State.takePosEvent
  dsimp only
  split <;> rfl

theorem State.queue_takePosEvents (l : List PosEvent) (s : State) :
    Desk.QueueGrows s.desk (l.foldl (fun s v => s.takePosEvent v) s).desk := by
  induction l generalizing s with
  | nil => exact .of_queue
  | cons v l ih =>
    refine Desk.QueueGrows.andThen ?_ (ih (s.takePosEvent v))
    rw [State.desk_takePosEvent]
    exact Desk.queue_takeEvent s.env v (s.desk.raise v.flag)

theorem State.queue_takeTick (t : MadeTick) (s : State) : Desk.QueueGrows s.desk (s.takeTick t).desk := by
  obtain ⟨d, e, _, q⟩ := State.takeTick_eq t s
  rw [e]
  exact Desk.QueueGrows.andThen (.of_queue q) (Desk.queue_takeTick _ t d)

/-- The reason with which a transport event closes the open passes (R133). -/
def PosEvent.closes : PosEvent → Option CloseReason
  | .stop => some .stop
  | .jump => some .jump
  | .reverse => some .reverse
  | .refLost | .clockLost => some .ref
  | .roll | .framing => none

/-- R132, R133: an event that closes passes closes all of them, in ascending order of control id. -/
theorem State.closedBy_takePosEvent {v : PosEvent} {r : CloseReason} (h : v.closes = some r) (s : State) :
    s.desk.closedBy r (s.takePosEvent v).desk := by
  have closed := Desk.closedBy_takeEvent s.env (s.desk.raise v.flag)
  obtain ⟨stop, jump, reverse, refLost, clockLost, _, _⟩ := closed
  rw [State.desk_takePosEvent]
  cases v <;> cases h
  · exact refLost
  · exact clockLost
  · exact jump
  · exact stop
  · exact reverse

/-- An event that closes none reaches neither AUTO nor TAKE. -/
theorem State.passes_takePosEvent {v : PosEvent} (h : v.closes = none) (s : State) :
    (s.takePosEvent v).desk = s.desk.raise v.flag := by
  rw [State.desk_takePosEvent]
  cases v <;> cases h <;> rfl

/-- R132: the first event that closes passes files their records at the queue's newest end, whatever follows it. -/
theorem State.records_takePosEvents {l : List PosEvent} {r : CloseReason} {v : PosEvent}
    (h : l.find? (fun v => v.closes.isSome) = some v) (hr : v.closes = some r) (s : State) :
    s.desk.take.queue ++ s.desk.openRecords r <+: (l.foldl (fun s v => s.takePosEvent v) s).desk.take.queue := by
  induction l generalizing s with
  | nil => cases h
  | cons w l ih =>
    rw [List.foldl_cons]
    rcases hw : w.closes with _ | x
    · rw [List.find?_cons_of_neg (by simp [hw])] at h
      have same := State.passes_takePosEvent hw s
      have rest := ih h (s.takePosEvent w)
      rw [same] at rest
      exact rest
    · rw [List.find?_cons_of_pos (by simp [hw])] at h
      cases h
      rw [← (State.closedBy_takePosEvent hr s).2]
      exact State.queue_takePosEvents l (s.takePosEvent v)

/-- R132: POS's phase files the records of the passes that its transport events close. -/
theorem State.records_posPhase {edge : Option FrameNo} {s : State} {r : CloseReason} {v : PosEvent}
    (h : (s.posOut edge).events.find? (fun v => v.closes.isSome) = some v) (hr : v.closes = some r) :
    s.desk.take.queue ++ s.desk.openRecords r <+: (s.posPhase edge).desk.take.queue := by
  have events := State.records_takePosEvents h hr { s with pos := (s.posOut edge).pos }
  rcases hm : (s.posOut edge).made with _ | k
  · rw [State.posPhase_of_no_tick hm]
    exact events
  · rw [State.posPhase_of_tick hm]
    exact List.IsPrefix.trans events (State.queue_takeTick k _)

end Sys2Proof.Machine
end

section
/-!
The whole sample event: what comes before POS's phase, that phase, and what comes behind it.
-/

set_option Elab.async false

namespace Sys2Proof.Machine

/-! ## Audio and the emitted frame -/

theorem Desk.counted_advanceAll (L : Nat) (d : Desk) : Counted d (d.advanceAll L) :=
  ⟨rfl, rfl, rfl, fun b => by rw [Desk.homeOf_advanceAll]; rfl⟩

theorem Desk.counted_formOutputs (e : Env) (g : Gain) (l : Option (Vector Lane 128)) (x : Vector Sample 32) (d : Desk) :
    Counted d (d.formOutputs e g l x) := by
  unfold Desk.formOutputs
  dsimp only
  generalize Vector.ofFn _ = strips
  exact ⟨rfl, rfl, rfl, fun _ => rfl⟩

/-- The audio and the emitted frame leave AUTO, TAKE, the touch lines and the drivers as they are. -/
theorem State.output_eq (x : Vector Sample 32) (r : Ring) (c : Vector (BitVec 64) 4) (l : Option (Vector Lane 128))
    (s : State) : ∃ d stem f, (s.audio x l).emit r c l = { s with desk := d, stem := stem, emitted := f } ∧
      Desk.Counted s.desk d := by
  have counted := (Desk.counted_advanceAll (rampLength s.env) s.desk).andThen
    (Desk.counted_formOutputs s.env (settleGain s.rate96 s.desk.home.rise) l x _)
  unfold State.audio
  dsimp only
  generalize settleGain s.rate96 s.desk.home.rise = g at counted ⊢
  generalize (s.desk.advanceAll (rampLength s.env)).formOutputs s.env g l x = d at counted ⊢
  generalize (s.desk.advanceAll (rampLength s.env)).stemStream s.env g l = stem
  unfold State.emit
  split <;> exact ⟨d, stem, _, rfl, counted⟩

/-! ## A station that no block but POS reaches AUTO of -/

/-- Where no other block reaches AUTO before, AUTO and TAKE are as they were, and none reaches AUTO after. -/
def State.LeavesAuto (s t : State) : Prop :=
  s.autoLeftAlone → t.autoLeftAlone ∧ t.desk.auto = s.desk.auto ∧ t.desk.take = s.desk.take

namespace State.LeavesAuto

theorem andThen {a b c : State} (h : LeavesAuto a b) (k : LeavesAuto b c) : LeavesAuto a c := fun x =>
  have ⟨y, auto, take⟩ := h x
  have ⟨z, auto', take'⟩ := k y
  ⟨z, auto'.trans auto, take'.trans take⟩

theorem timers (s : State) : LeavesAuto s s.timers := by
  intro ⟨ring, lines, drivers⟩
  obtain ⟨k, r⟩ := State.counted_timers (s := s) fun b x hx => by rw [drivers b] at hx; cases hx
  refine ⟨⟨r.trans ring, fun f => ?_, fun b => (k.drivers b).trans (drivers b)⟩, k.auto, k.take⟩
  have same : s.timers.desk.lineOf f = s.desk.lineOf f := congrArg (·[f]) k.lines
  rw [same]
  exact lines f

theorem ringPhase (b : Bool) (rx : Option WireFrame) (s : State) : LeavesAuto s (s.ringPhase b rx).state := by
  intro ⟨ring, lines, drivers⟩
  have e : (s.ringPhase b rx).state = { s with ring := { s.ring.advanceTag with run := 0 } } := by
    unfold State.ringPhase
    dsimp only
    rw [ring]
  rw [e]
  exact ⟨⟨ring, lines, drivers⟩, rfl, rfl⟩

theorem touchPhase (levels : BitVec 32) (s : State) : LeavesAuto s (s.onDesk fun e d => d.touchPhase e levels) := by
  intro ⟨ring, lines, drivers⟩
  have step : ∀ f ∈ allLines, s.desk.lineStep s.env (levels.getLsbD f.val) f = s.desk := fun f _ => by
    simp [Desk.lineStep, lines f]
  have e : s.desk.touchPhase s.env levels = s.desk := Desk.each_of_fixed step
  have same : (s.onDesk fun e d => d.touchPhase e levels) = s := by unfold State.onDesk; dsimp only; rw [e]
  rw [same]
  exact ⟨⟨ring, lines, drivers⟩, rfl, rfl⟩

theorem output (x : Vector Sample 32) (r : Ring) (c : Vector (BitVec 64) 4) (l : Option (Vector Lane 128)) (s : State) :
    LeavesAuto s ((s.audio x l).emit r c l) := by
  intro ⟨ring, lines, drivers⟩
  obtain ⟨d, stem, f, e, k⟩ := State.output_eq x r c l s
  rw [e]
  refine ⟨⟨ring, fun f => ?_, fun b => (k.drivers b).trans (drivers b)⟩, k.auto, k.take⟩
  have same : d.lineOf f = s.desk.lineOf f := congrArg (·[f]) k.lines
  exact same ▸ lines f

/-- R14: FRAMING by itself closes no pass. -/
theorem posPhase_of_framing {edge : Option FrameNo} {s : State} (he : (s.posOut edge).events = [.framing])
    (hm : (s.posOut edge).made = none) : LeavesAuto s (s.posPhase edge) := by
  intro ⟨ring, lines, drivers⟩
  have e : s.posPhase edge = State.takePosEvent .framing { s with pos := (s.posOut edge).pos } := by
    rw [State.posPhase_of_no_tick hm, he]
    rfl
  have same : (s.posPhase edge).desk = s.desk.raise .framing := by
    rw [e]
    exact State.passes_takePosEvent rfl { s with pos := (s.posOut edge).pos }
  obtain ⟨d, y, e'⟩ := State.posPhase_eq edge s
  rw [e'] at same ⊢
  cases same
  exact ⟨⟨ring, lines, drivers⟩, rfl, rfl⟩

end State.LeavesAuto

/-! ## The parts of a sample event that are not POS's -/

/-- A part of a sample event that is not POS's: POS and PLAY stay, the desk changes as `R` allows, nothing outside the
sample event moves, flags set stay set, and POS's own flags stay as they are. -/
structure State.NotPos (R : Desk → Desk → Prop) (s t : State) : Prop where
  step    : s.DeskStep R t
  outside : SameOutsideSample s t
  flags   : s.FlagFrame t
  alone   : s.LeavesAuto t

namespace State.NotPos

variable {R : Desk → Desk → Prop}

theorem andThen (h : Desk.Reached R) {a b c : State} (k : NotPos R a b) (l : NotPos R b c) : NotPos R a c :=
  ⟨.andThen h k.step l.step, k.outside.andThen l.outside, k.flags.andThen l.flags, k.alone.andThen l.alone⟩

theorem same (h : Desk.Reached R) (s : State) : NotPos R s s :=
  ⟨.same h s, .same s, .same s, fun x => ⟨x, rfl, rfl⟩⟩

theorem timers (h : Desk.Reached R) (s : State) : NotPos R s s.timers :=
  ⟨h.timers s, s.outside_timers, s.flags_timers, .timers s⟩

theorem ringPhase (h : Desk.Reached R) (b : Bool) (rx : Option WireFrame) (s : State) :
    NotPos R s (s.ringPhase b rx).state :=
  ⟨h.ringPhase b rx s, s.outside_ringPhase b rx, s.flags_ringPhase b rx, .ringPhase b rx s⟩

theorem touchPhase (h : Desk.Reached R) (levels : BitVec 32) (s : State) :
    NotPos R s (s.onDesk fun e d => d.touchPhase e levels) :=
  ⟨.onDesk (h.touchPhase _ _ _), s.outside_onDesk _, s.flags_touchPhase levels, .touchPhase levels s⟩

theorem output (h : Desk.Reached R) (x : Vector Sample 32) (r : Ring) (c : Vector (BitVec 64) 4)
    (l : Option (Vector Lane 128)) (s : State) : NotPos R s ((s.audio x l).emit r c l) := by
  refine ⟨?_, (s.outside_audio x l).andThen (State.outside_emit r c l _),
    (s.flags_audio x l).andThen (State.flags_emit r c l _), .output x r c l s⟩
  obtain ⟨d, stem, f, e, k⟩ := State.output_eq x r c l s
  rw [e]
  exact ⟨rfl, rfl, h.clear k.auto k.take⟩

end State.NotPos

/-- A sample event is POS's phase on some state `u`, and parts that are not POS's before and behind it; where POS comes first
in the period, only the counts lie before it (log 2). -/
theorem State.sample_around_pos {R : Desk → Desk → Prop} (h : Desk.Reached R) (p : Period) (s : State) :
    ∃ u, NotPos R s u ∧ NotPos R (u.posPhase (FrameWord.edge p.edge)) (s.sample p) ∧
      (p.order = .posRingTouch ∨ p.order = .posTouchRing → u = s.timers) := by
  have ring : ∀ t : Taken, NotPos R t.state (t.ring p).state := fun t => .ringPhase h p.checkFirst p.rx t.state
  have touch : ∀ t : Taken, NotPos R t.state (t.touch p).state := fun t => .touchPhase h p.levels t.state
  have pos : ∀ t : Taken, (t.pos p).state = t.state.posPhase (FrameWord.edge p.edge) := fun _ => rfl
  have timers := NotPos.timers h s
  obtain ⟨t, ht⟩ : ∃ t : Taken, t = { state := s.timers, cells := Vector.replicate 4 0, arriving := none } := ⟨_, rfl⟩
  have start : t.state = s.timers := by rw [ht]
  suffices around : ∃ u, NotPos R s u ∧ NotPos R (u.posPhase (FrameWord.edge p.edge)) (t.phases p).state ∧
      (p.order = .posRingTouch ∨ p.order = .posTouchRing → u = s.timers) by
    obtain ⟨u, before, behind, first⟩ := around
    refine ⟨u, before, ?_, first⟩
    have e : s.sample p = ((t.phases p).state.audio p.samples (t.phases p).arriving).emit s.ring (t.phases p).cells
        (t.phases p).arriving := by rw [ht]; rfl
    rw [e]
    exact behind.andThen h (.output h _ _ _ _ _)
  rw [← start] at timers ⊢
  unfold Taken.phases
  split
  · exact ⟨t.state, timers, pos t ▸ (ring (t.pos p)).andThen h (touch ((t.pos p).ring p)), fun _ => rfl⟩
  · exact ⟨t.state, timers, pos t ▸ (touch (t.pos p)).andThen h (ring ((t.pos p).touch p)), fun _ => rfl⟩
  · next o => exact ⟨(t.ring p).state, timers.andThen h (ring t), pos (t.ring p) ▸ touch ((t.ring p).pos p), by simp [o]⟩
  · next o =>
    have before := timers.andThen h ((ring t).andThen h (touch (t.ring p)))
    exact ⟨((t.ring p).touch p).state, before, .same h _, by simp [o]⟩
  · next o => exact ⟨(t.touch p).state, timers.andThen h (touch t), pos (t.touch p) ▸ ring ((t.touch p).pos p), by simp [o]⟩
  · next o =>
    have before := timers.andThen h ((touch t).andThen h (ring (t.touch p)))
    exact ⟨((t.touch p).ring p).state, before, .same h _, by simp [o]⟩

/-! ## POS in a whole sample event -/

/-- POS takes a sample event on the position, sample rate and configuration before it, whatever comes before POS. -/
theorem State.NotPos.posOut {R : Desk → Desk → Prop} {s u : State} (h : NotPos R s u) (edge : Option FrameNo) :
    u.posOut edge = s.posOut edge := by
  obtain ⟨_, _, _, rate96, conf, _⟩ := h.outside
  exact State.posOut_congr h.step.pos rate96 conf edge

theorem State.pos_sample (p : Period) (s : State) : (s.sample p).pos = (s.posOut (FrameWord.edge p.edge)).pos := by
  obtain ⟨u, before, behind, _⟩ := State.sample_around_pos Desk.reached_queueGrows p s
  rw [behind.step.pos, State.pos_posPhase, before.posOut]

/-- What a sample event that carries the edge `f` makes of POS, of its flags, of PLAY and of the open passes. -/
structure State.EdgeTaken (f : FrameNo) (p : Period) (s t : State) : Prop where
  pos     : t.pos = (s.posOut (some f)).pos
  flag    : ∀ g, g.ofPos = true → t.flag g = (s.flag g || (s.posOut (some f)).events.any fun v => decide (v.flag = g))
  records : ∀ r v, (s.posOut (some f)).events.find? (fun v => v.closes.isSome) = some v → v.closes = some r →
    s.posComesFirst p → s.desk.take.queue ++ s.desk.openRecords r <+: t.desk.take.queue
  entered : .jump ∈ (s.posOut (some f)).events → (s.posOut (some f)).made = none → t.play.entered = none
  alone   : (s.posOut (some f)).events = [.framing] → (s.posOut (some f)).made = none → s.autoLeftAlone →
    t.desk.auto = s.desk.auto ∧ t.desk.take = s.desk.take
  outside : SameOutsideSample s t

/-- R1: a sample event with a frame edge, where sample events reach the part. -/
theorem State.exists_edgeTaken {s : State} (h : s.clocked) (f : FrameNo) (p : Period) :
    ∃ t, exec (.frameEdge f p) s = .next t ∧ s.EdgeTaken f p t := by
  obtain ⟨q, hq⟩ : ∃ q : Period, q = { p with edge := some { number := f, valid := true } } := ⟨_, rfl⟩
  have edge : FrameWord.edge q.edge = some f := by rw [hq]; rfl
  have order : q.order = p.order := by rw [hq]
  have run : exec (.frameEdge f p) s = .next (s.sample q) := by
    rw [← State.sampled_of_clocked h, hq]
    rfl
  obtain ⟨u, before, behind, first⟩ := State.sample_around_pos Desk.reached_queueGrows q s
  rw [edge] at behind
  have out := before.posOut (some f)
  refine ⟨_, run, ?_, fun g hg => ?_, fun r v hv hr comes => ?_, fun hj hm => ?_, fun he hm x => ?_,
    s.outside_sample q⟩
  · rw [State.pos_sample, edge]
  · have a := before.flags.quiet g hg
    have b := State.flag_posPhase (some f) u g hg
    have c := behind.flags.quiet g hg
    rw [out] at b
    exact c.trans (b.trans (congrArg (· || _) a))
  · obtain ⟨o, leases⟩ := comes
    have timers := first (order ▸ o)
    obtain ⟨k, _⟩ := State.counted_timers (s := s) leases
    rw [← timers] at k
    have records := State.records_posPhase (s := u) (r := r) (by rw [out]; exact hv) hr
    have same : u.desk.openRecords r = s.desk.openRecords r := by
      unfold Desk.openRecords Desk.control
      rw [k.auto]
    rw [same, k.take] at records
    exact List.IsPrefix.trans records behind.step.desk
  · rw [behind.step.play, State.posPhase_of_no_tick (by rw [out]; exact hm)]
    exact State.entered_takePosEvents (by rw [out]; exact hj) _
  · obtain ⟨x1, auto1, take1⟩ := before.alone x
    obtain ⟨x2, auto2, take2⟩ := State.LeavesAuto.posPhase_of_framing (out ▸ he) (out ▸ hm) x1
    obtain ⟨_, auto3, take3⟩ := behind.alone x2
    exact ⟨auto3.trans (auto2.trans auto1), take3.trans (take2.trans take1)⟩

end Sys2Proof.Machine
end

section
/-!
Edges in a locked state and in CHASING (R4, R5, R8 to R12), with the passes they close (R132, R133).
-/

set_option Elab.async false

namespace Sys2Proof.Machine

/-- R11, R133: of the events of an entry into a locked state, the one that closes passes. -/
theorem find?_entryEvent (before : Option Motion) (now : Motion) :
    (now = .parked ∧ before = some .rolling →
        (entryEvent before now).find? (fun v => v.closes.isSome) = some .stop) ∧
      (now = .reverse ∧ before ≠ some .reverse →
        (entryEvent before now).find? (fun v => v.closes.isSome) = some .reverse) := by
  rcases before with _ | m
  · cases now <;> decide
  · cases m <;> cases now <;> decide

section
variable {s : State} {c : Conf} {m : Motion}

/-- R10: what POS makes of an edge on time of step +1, 0 or −1. -/
theorem State.posOut_edge_on_time (hc : s.conf = some c) (hs : s.pos.state = m.transport)
    (hd : s.pos.due s.rate96 c.rate = true) {f : FrameNo} {m' : Motion} (hm : stepClass s.pos.frame f = some m') :
    s.posOut (some f) =
      { pos := { s.pos with state := m'.transport, frame := f, offset := 0, fly := 0,
                            tick := some (BitVec.ofNat 26 (f.toNat * 4)), cold := false },
        events := entryEvent (some m) m',
        made := some { index := BitVec.ofNat 26 (f.toNat * 4), crossing := crosses s.pos.frame f m' && !s.pos.cold } } := by
  rw [State.posOut_of_conf hc, Pos.sample_edge_due hs hd]
  unfold takeEdgeLocked
  rw [hm]
  dsimp only
  rw [enterLocked_eq]

/-- R10: what POS makes of an edge on time that is a jump. -/
theorem State.posOut_edge_jump (hc : s.conf = some c) (hs : s.pos.state = m.transport)
    (hd : s.pos.due s.rate96 c.rate = true) {f : FrameNo} (hm : stepClass s.pos.frame f = none) :
    s.posOut (some f) =
      { pos := { s.pos with state := .chasing, frame := f, offset := 0, chaseFrame := some f, run := none,
                            before := none, fly := 0, tick := none },
        events := [.jump], made := none } := by
  rw [State.posOut_of_conf hc, Pos.sample_edge_due hs hd]
  unfold takeEdgeLocked
  rw [hm]

/-- R12: what POS makes of an off-time edge in a locked state. -/
theorem State.posOut_edge_off_time (hc : s.conf = some c) (hs : s.pos.state = m.transport)
    (hd : s.pos.due s.rate96 c.rate = false) (f : FrameNo) :
    s.posOut (some f) = takeEdgeOffTime m f s.pos := by
  rw [State.posOut_of_conf hc, Pos.sample_edge_off_time hs hd]

/-- R9: what POS makes of an edge that completes the chase. -/
theorem State.posOut_chase_completed (hc : s.conf = some c) (hs : s.pos.state = .chasing)
    (hd : s.pos.due s.rate96 c.rate = true) {x f : FrameNo} (hx : s.pos.chaseFrame = some x)
    (hm : stepClass x f = some m) (hr : s.pos.run = some m) :
    s.posOut (some f) =
      { pos := { s.pos with state := m.transport, frame := f, offset := 0, chaseFrame := some f, fly := 0, run := none,
                            before := none, tick := some (BitVec.ofNat 26 (f.toNat * 4)), cold := false },
        events := entryEvent s.pos.before m,
        made := some { index := BitVec.ofNat 26 (f.toNat * 4), crossing := crosses s.pos.frame f m && !s.pos.cold } } := by
  rw [State.posOut_of_conf hc, Pos.sample_chasing_due hs hd hx]
  unfold takeEdgeChasing
  rw [hm]
  dsimp only
  rw [if_pos hr, enterLocked_eq]

/-- R9: what POS makes of an edge on time that does not complete the chase. -/
theorem State.posOut_chase_run (hc : s.conf = some c) (hs : s.pos.state = .chasing)
    (hd : s.pos.due s.rate96 c.rate = true) {x f : FrameNo} (hx : s.pos.chaseFrame = some x)
    (hm : stepClass x f = some m) (hr : s.pos.run ≠ some m) :
    s.posOut (some f) =
      { pos := { s.pos with frame := f, offset := 0, chaseFrame := some f, fly := 0, run := some m },
        events := [], made := none } := by
  rw [State.posOut_of_conf hc, Pos.sample_chasing_due hs hd hx]
  unfold takeEdgeChasing
  rw [hm]
  dsimp only
  rw [if_neg hr]

/-- R9: what POS makes of an edge on time in CHASING that is a jump. -/
theorem State.posOut_chase_jump (hc : s.conf = some c) (hs : s.pos.state = .chasing)
    (hd : s.pos.due s.rate96 c.rate = true) {x f : FrameNo} (hx : s.pos.chaseFrame = some x)
    (hm : stepClass x f = none) :
    s.posOut (some f) =
      { pos := { s.pos with frame := f, offset := 0, chaseFrame := some f, fly := 0, run := none, before := none,
                            tick := none },
        events := [.jump], made := none } := by
  rw [State.posOut_of_conf hc, Pos.sample_chasing_due hs hd hx]
  unfold takeEdgeChasing
  rw [hm]

end

end Sys2Proof.Machine

open Sys2Proof Sys2Proof.Machine

/-- Settles O19: POS's part from `posOut_edge_on_time`, the rest of the sample event from `exists_edgeTaken`. -/
theorem frameEdgeOnTime : Obligations.FrameEdgeOnTime := by
  intro s c m m' f p live hc hs hd hm
  obtain ⟨t, run, taken⟩ := State.exists_edgeTaken live f p
  have out := State.posOut_edge_on_time hc hs hd hm
  obtain ⟨roll, stop, reverse⟩ := entryEvent_flags (some m) m'
  obtain ⟨closeStop, closeReverse⟩ := find?_entryEvent (some m) m'
  have flag := taken.flag
  have records := taken.records
  rw [out] at flag records
  refine ⟨t, run, ?_, ?_, ?_, ?_, ?_, ?_, ?_, ?_, fun inv => ?_, fun r hr comes => ?_, taken.outside⟩
  iterate 5 rw [taken.pos, out]
  · rw [flag .roll rfl, roll]; simp
  · rw [flag .stop rfl, stop]; simp
  · rw [flag .reverse rfl, reverse]; simp
  · obtain ⟨_, _, locked, _⟩ := inv
    obtain ⟨_, warm⟩ := locked (by rw [hs]; simp)
    rw [out, crosses_eq, warm]
    simp
  · rcases hr with ⟨parked, rolling, rfl⟩ | ⟨reverse, moving, rfl⟩
    · exact records .stop .stop (closeStop ⟨parked, by rw [rolling]⟩) rfl comes
    · exact records .reverse .reverse (closeReverse ⟨reverse, by simpa using moving⟩) rfl comes

/-- Settles O20: POS's part by the cases of R8 to R12, the rest of the sample event from `exists_edgeTaken`. -/
theorem frameEdgeIntoChase : Obligations.FrameEdgeIntoChase := by
  refine ⟨fun s c f p live hc => ?_, fun s c f p live hc hs => ?_⟩ <;>
    obtain ⟨t, run, taken⟩ := State.exists_edgeTaken live f p
  · refine ⟨fun hs => ?_, fun m hs hd hm => ?_, fun m hs hd => ?_⟩
    · have out : s.posOut (some f) = { pos := takeEdgeUnlocked f, events := [], made := none } := by
        rw [State.posOut_of_conf hc, Pos.sample_unlocked_edge hs]
      refine ⟨t, run, ?_, ?_, ?_, ?_, ?_, taken.outside⟩
      all_goals rw [taken.pos, out]; rfl
    · have out := State.posOut_edge_jump hc hs hd hm
      obtain ⟨pos, flag, records, entered, _, outside⟩ := taken
      rw [out] at pos flag records entered
      refine ⟨t, run, ?_, ?_, ?_, ?_, ?_, by simp [flag .jump rfl, PosEvent.flag], entered (by simp) rfl,
        records .jump .jump rfl rfl, outside⟩
      all_goals rw [pos]
    · have out := State.posOut_edge_off_time hc hs hd f
      obtain ⟨pos, flag, records, _, alone, outside⟩ := taken
      rw [out] at pos flag records alone
      unfold takeEdgeOffTime at pos flag records alone
      rcases hm : stepClass s.pos.frame f with _ | m'
      · rw [hm] at pos flag records
        refine ⟨t, run, ?_, ?_, ?_, ?_, by simp [flag .framing rfl, PosEvent.flag], nofun, fun _ =>
          ⟨by simp [flag .jump rfl, PosEvent.flag], ?_, records .jump .jump rfl rfl⟩, outside⟩
        all_goals rw [pos]
      · rw [hm] at pos flag alone
        refine ⟨t, run, ?_, ?_, ?_, ?_, by simp [flag .framing rfl, PosEvent.flag],
          fun _ => ⟨?_, ?_, alone rfl rfl⟩, nofun, outside⟩
        all_goals rw [pos]
  · refine ⟨fun fresh => ?_, fun x m hd hx hm => ?_, fun x hd hx hm => ?_⟩
    · have out : s.posOut (some f) = takeEdgeFresh f s.pos := by
        rw [State.posOut_of_conf hc, Pos.sample_chasing_fresh hs fresh]
      obtain ⟨pos, flag, records, entered, _, outside⟩ := taken
      rw [out] at pos flag records entered
      unfold takeEdgeFresh at pos flag records entered
      rcases hm : stepClass s.pos.frame f with _ | m
      · rw [hm] at pos flag records entered
        exact ⟨t, run, nofun, fun _ => ⟨by simp [flag .jump rfl, PosEvent.flag], entered (by simp) rfl, pos,
          records .jump .jump rfl rfl⟩, outside⟩
      · rw [hm] at pos
        exact ⟨t, run, fun _ => pos, nofun, outside⟩
    · obtain ⟨pos, flag, _, _, _, outside⟩ := taken
      refine ⟨t, run, outside, fun hr => ?_, fun hr => ?_⟩
      · rw [pos, State.posOut_chase_run hc hs hd hx hm hr]
      · have out := State.posOut_chase_completed hc hs hd hx hm hr
        obtain ⟨roll, stop, reverse⟩ := entryEvent_flags s.pos.before m
        rw [out] at pos flag
        refine ⟨?_, ?_, ?_, ?_, ?_, ?_, ?_, ?_, ?_, ?_, ?_⟩
        iterate 7 rw [pos]
        · rw [flag .roll rfl, roll]
        · rw [flag .stop rfl, stop]
        · rw [flag .reverse rfl, reverse]
        · rw [out, crosses_eq]
          cases s.pos.cold <;> simp
    · obtain ⟨pos, flag, records, entered, _, outside⟩ := taken
      rw [State.posOut_chase_jump hc hs hd hx hm] at pos flag records entered
      exact ⟨t, run, by simp [flag .jump rfl, PosEvent.flag], entered (by simp) rfl, outside,
        records .jump .jump rfl rfl, pos⟩
end

section
/-!
POS's part of a sample event by itself (log 1): the flywheel, and the loss of the word clock (R2, R9, R13).
-/

set_option Elab.async false

namespace Sys2Proof.Machine

/-- POS's part of a sample event moves POS, the desk and PLAY, and nothing else. -/
theorem State.posAlone_eq (edge : Option FrameNo) (s : State) :
    ∃ d y, s.posAlone edge = { s with pos := (s.posOut edge).pos, desk := d, play := y } := by
  obtain ⟨d, y, e⟩ := State.posPhase_eq edge s
  unfold State.posAlone
  rw [e]
  exact ⟨_, _, rfl⟩

/-- Fixing the ramp lengths reaches the factors alone. -/
theorem State.posAlone_desk (edge : Option FrameNo) (s : State) :
    (s.posAlone edge).desk = (s.posPhase edge).desk.fixLengths (rampLength (s.posPhase edge).env) := rfl

/-- R73: in UNLOCKED and CHASING a ramp takes 500 sample events, or 1000 at 96 kHz. -/
theorem rampLength_of_not_locked {e : Env} (h : e.pos.state.motion? = none) :
    rampLength e = if e.rate96 then 1000 else 500 := by
  unfold rampLength
  rw [h]
  rcases e.conf with _ | c <;> rfl

/-- R132, R133: POS unlocks with an event that closes every pass, and PLAY stays. -/
theorem State.posAlone_unlocks {s : State} {v : PosEvent} {r : CloseReason} (hv : v.closes = some r) (hj : v ≠ .jump)
    (out : s.posOut none = { pos := s.pos.unlock, events := [v], made := none }) :
    (s.posAlone none).pos = s.pos.unlock ∧ (s.posAlone none).flag v.flag = true ∧
      s.desk.closedBy r (s.posAlone none).desk ∧ SameOutsideSample s (s.posAlone none) ∧
      (s.posAlone none).ring = s.ring ∧ (s.posAlone none).play = s.play := by
  have phase : s.posPhase none = State.takePosEvent v { s with pos := s.pos.unlock } := by
    rw [State.posPhase_of_no_tick (by rw [out]), out]
    rfl
  have closed := State.closedBy_takePosEvent hv { s with pos := s.pos.unlock }
  have flag := State.flag_posPhase none s v.flag (by cases v <;> rfl)
  obtain ⟨d, y, e⟩ := State.posAlone_eq none s
  refine ⟨by rw [e, out], ?_, ?_, State.outside_posAlone none s, by rw [e], ?_⟩
  · unfold State.flag
    rw [State.posAlone_desk, Desk.flag_fixLengths]
    exact flag.trans (by rw [out]; simp)
  · rw [State.posAlone_desk, phase]
    exact closed
  · have same : (s.posAlone none).play = (s.posPhase none).play := rfl
    rw [same, phase, State.play_takePosEvent hj]

theorem State.flywheel_of_due {s : State} {c : Conf} (h : s.clocked) (hc : s.conf = some c)
    (hs : s.pos.state ≠ .unlocked) (hd : s.pos.due s.rate96 c.rate = true) :
    exec .flywheel s = .next (s.posAlone none) := by
  have due : s.dueNow = true := by unfold State.dueNow; rw [hc]; simp [hs, hd]
  exact congrArg Host.Outcome.next (State.part_of_clocked h due _)

section
variable {s : State} {c : Conf} {m : Motion}

/-- R13: what POS makes of a due sample without an edge in a locked state. -/
theorem State.posOut_miss (hc : s.conf = some c) (hs : s.pos.state = m.transport)
    (hd : s.pos.due s.rate96 c.rate = true) (hf : s.pos.fly < 3) :
    s.posOut none =
      { pos := { s.pos with state := m.transport, frame := predicted m s.pos.frame, offset := 0, fly := s.pos.fly + 1,
                            tick := some (BitVec.ofNat 26 ((predicted m s.pos.frame).toNat * 4)), cold := false },
        events := [],
        made := some { index := BitVec.ofNat 26 ((predicted m s.pos.frame).toNat * 4),
                       crossing := crosses s.pos.frame (predicted m s.pos.frame) m && !s.pos.cold } } := by
  rw [State.posOut_of_conf hc, Pos.sample_miss hs hd]
  unfold missEdgeLocked
  rw [if_neg (by omega), enterLocked_eq]

/-- R13: the fourth in a row. -/
theorem State.posOut_last_miss (hc : s.conf = some c) (hs : s.pos.state = m.transport)
    (hd : s.pos.due s.rate96 c.rate = true) (hf : s.pos.fly = 3) :
    s.posOut none = { pos := s.pos.unlock, events := [.refLost], made := none } := by
  rw [State.posOut_of_conf hc, Pos.sample_miss hs hd]
  unfold missEdgeLocked
  rw [if_pos (by omega)]

/-- R9: what POS makes of a due sample without an edge in CHASING. -/
theorem State.posOut_chase_miss (hc : s.conf = some c) (hs : s.pos.state = .chasing)
    (hd : s.pos.due s.rate96 c.rate = true) (hf : s.pos.fly < 3) :
    s.posOut none =
      { pos := { s.pos with offset := 0, chaseFrame := none, run := none, fly := s.pos.fly + 1 }, events := [],
        made := none } := by
  rw [State.posOut_of_conf hc, Pos.sample_chasing_miss hs hd]
  unfold missEdgeChasing
  rw [if_neg (by omega)]

theorem State.posOut_chase_last_miss (hc : s.conf = some c) (hs : s.pos.state = .chasing)
    (hd : s.pos.due s.rate96 c.rate = true) (hf : s.pos.fly = 3) :
    s.posOut none = { pos := s.pos.unlock, events := [.refLost], made := none } := by
  rw [State.posOut_of_conf hc, Pos.sample_chasing_miss hs hd]
  unfold missEdgeChasing
  rw [if_pos (by omega)]

end

/-! ## The word clock (R2) -/

theorem Desk.AutoFrame.sameSettings {d d' : Desk} (h : AutoFrame d d') : SameSettings d d' := by
  have lines : ∀ f, d'.lineOf f = d.lineOf f := fun f => congrArg (·[f]) h.lines
  refine ⟨fun n => ?_, fun f => by rw [lines f]; exact ⟨rfl, rfl, rfl⟩, h.map, h.settings, h.window⟩
  obtain ⟨source, send1, send2, solo, safe, _⟩ := h.strips n
  exact ⟨source, send1, send2, solo, safe⟩

end Sys2Proof.Machine

open Sys2Proof Sys2Proof.Machine

/-- Settles O21: POS's part from the four cases of a due sample without an edge. -/
theorem flywheelResult : Obligations.FlywheelResult := by
  refine ⟨fun s c m live hc hs hd => ?_, fun s c live hc hs hd => ?_⟩
  · have run := State.flywheel_of_due live hc (by rw [hs]; exact Motion.transport_ne_unlocked m) hd
    refine ⟨fun hf => ?_, fun hf => ?_⟩
    · have outside := State.outside_posAlone none s
      obtain ⟨d, y, e⟩ := State.posAlone_eq none s
      rw [State.posOut_miss hc hs hd hf] at e
      rw [e] at run outside
      exact ⟨_, run, hs.symm, rfl, rfl, rfl, rfl, outside, rfl, rfl, rfl, rfl⟩
    · obtain ⟨pos, flag, closed, outside, ring, play⟩ :=
        State.posAlone_unlocks (r := .ref) rfl (by decide) (State.posOut_last_miss hc hs hd hf)
      exact ⟨_, run, by rw [pos]; rfl, by rw [pos]; rfl, by rw [pos]; exact Pos.resting_unlock _, flag, closed,
        outside, ring, play⟩
  · have run := State.flywheel_of_due live hc (by rw [hs]; decide) hd
    refine ⟨fun hf => ?_, fun hf => ?_⟩
    · have out := State.posOut_chase_miss hc hs hd hf
      have phase := State.posPhase_of_quiet (s := s) (edge := none) (by rw [out]) (by rw [out])
      have length : rampLength (s.posPhase none).env = if s.rate96 then 1000 else 500 := by
        rw [phase, out]
        exact rampLength_of_not_locked (by show s.pos.state.motion? = none; rw [hs]; rfl)
      refine ⟨_, run, ?_, ?_⟩
      · change (s.posPhase none).pos = _
        rw [phase, out]
      · unfold State.posAlone State.onDesk
        dsimp only
        rw [length, phase, out]
    · obtain ⟨pos, flag, closed, outside, ring, play⟩ :=
        State.posAlone_unlocks (r := .ref) rfl (by decide) (State.posOut_chase_last_miss hc hs hd hf)
      exact ⟨_, run, by rw [pos]; rfl, by rw [pos]; rfl, by rw [pos]; exact Pos.resting_unlock _, flag, closed,
        outside, ring, play⟩

/-- Settles O23: the loss from what a transport event does to the passes and from AUTO's frame. -/
theorem wordClock : Obligations.WordClock := by
  refine ⟨fun s ⟨high, clock⟩ => ?_, fun _ => rfl, fun s p lost => ?_⟩
  · have run : exec .clockLost s = .next s.loseClock := by
      have e : exec .clockLost s =
        .next (if s.resetLow then { s with clock := false } else if s.clock then s.loseClock else s) := rfl
      rw [e, high, clock]
      rfl
    obtain ⟨e, he⟩ : ∃ e, s.loseClock.desk = (s.desk.raise .clockLost).takeEvent e .clockLost := by
      unfold State.loseClock
      exact ⟨_, State.onDesk_desk _ _⟩
    obtain ⟨_, _, _, _, closed, _, _⟩ := Desk.closedBy_takeEvent e (s.desk.raise .clockLost)
    have frame := Desk.frame_takeEvent e .clockLost (s.desk.raise .clockLost)
    rw [← he] at closed frame
    refine ⟨_, run, rfl, rfl, rfl, Pos.resting_unlock s.pos, ?_, closed, rfl, rfl, rfl, rfl, rfl, rfl, rfl, frame.reqs,
      frame.lines, frame.sameSettings⟩
    exact (frame.flags.quiet .clockLost rfl).trans (by simp)
  · have e : exec (.sampleEvent p) s = .next (if s.live then s.sample p else s) := rfl
    rw [e]
    simp [State.live, lost]
end

section
/-!
The values after a hardware reset (R17, R41, R62, R81, R93, R112, R139, R156, R168, R180), and the invariants there.
-/

set_option Elab.async false

namespace Sys2Proof.Machine

/-- R139: every control at reset. -/
theorem Desk.control_reset (c : Fin 176) :
    State.reset.desk.control c = Control.reset (if 128 ≤ c.val ∧ c.val % 2 = 0 then 927 else 0) :=
  Vector.getElem_ofFn _

theorem Desk.stripOf_reset (n : Fin 32) : State.reset.desk.stripOf n = Strip.reset := Vector.getElem_replicate _

theorem Desk.homeOf_reset (b : Fin 24) : State.reset.desk.homeOf b = Home.reset := Vector.getElem_replicate _

theorem Desk.reqOf_reset (b : Fin 24) : State.reset.desk.reqOf b = Requester.reset := Vector.getElem_replicate _

theorem Desk.lineOf_reset (f : Fin 32) : State.reset.desk.lineOf f = Line.reset := Vector.getElem_replicate _

theorem Touch.target_reset (k : TouchTarget) : State.reset.desk.touch.target k = { held := 0, surfaced := false } := by
  cases k
  · exact Vector.getElem_replicate _
  · exact Vector.getElem_replicate _

theorem Play.slots_reset (i : Fin 4) : State.reset.play.slots[i] = .free := Vector.getElem_replicate _

theorem Take.slots_reset (i : Fin 4) : State.reset.desk.take.slots[i] = .free := Vector.getElem_replicate _

/-! ## The invariants at reset -/

/-- Section 1.4: the reset state meets the invariant of POS. -/
theorem State.posInv_reset : State.reset.posInv :=
  ⟨fun _ => rfl, fun _ => ⟨rfl, rfl, rfl, rfl, rfl, rfl, rfl⟩, nofun, nofun, Nat.zero_le _⟩

theorem State.ringInv_reset : State.reset.ringInv :=
  ⟨fun _ => rfl, fun _ => rfl, nofun, fun _ => rfl, Nat.zero_le _, nofun⟩

/-- A record of the control table is that of a control. -/
theorem Desk.exists_control_of_mem {d : Desk} {x : Control} (h : x ∈ d.auto.controls.toList) :
    ∃ c : Fin 176, x = d.control c := by
  obtain ⟨i, hi, e⟩ := List.getElem_of_mem h
  exact ⟨⟨i, by simpa using hi⟩, by rw [← e, Vector.getElem_toList]; rfl⟩

/-- No control has an open pass, so the count is 0. -/
theorem Auto.openPasses_of_none {d : Desk} (h : ∀ c : Fin 176, (d.control c).openPass = none) :
    d.auto.openPasses = 0 := by
  unfold Auto.openPasses
  rw [List.countP_eq_zero]
  intro x hx
  obtain ⟨c, rfl⟩ := Desk.exists_control_of_mem hx
  rw [h c]
  exact Bool.false_ne_true

theorem Auto.openPasses_reset : State.reset.desk.auto.openPasses = 0 :=
  Auto.openPasses_of_none fun c => by rw [Desk.control_reset]; rfl

theorem Desk.passInv_reset : State.reset.desk.passInv :=
  ⟨fun c => by rw [Desk.control_reset]; rfl, Auto.openPasses_reset.symm, rfl, by decide⟩

theorem Play.wf_reset : State.reset.play.wf := by
  refine ⟨fun i j n h => ?_, fun n => ⟨fun ⟨i, h⟩ => ?_, nofun⟩, nofun⟩
  · rw [Play.slots_reset] at h; cases h
  · rw [Play.slots_reset] at h; cases h

theorem Take.wf_reset : State.reset.desk.take.wf := by
  refine ⟨List.nodup_nil, fun i => ⟨nofun, fun ⟨p, h⟩ => ?_⟩, fun i j p q h => ?_, fun i p h => ?_⟩
  all_goals rw [Take.slots_reset] at h; cases h

end Sys2Proof.Machine

open Sys2Proof Sys2Proof.Machine

/-- Settles O15: each table's entries at reset, and the invariants. -/
theorem resetValuesAndInvariants : Obligations.ResetValuesAndInvariants := by
  refine ⟨⟨rfl, rfl, rfl, ⟨rfl, rfl, rfl, rfl, rfl, rfl, rfl⟩, rfl, rfl, rfl, rfl, rfl, rfl, rfl, rfl, rfl, rfl, rfl, rfl,
    rfl, rfl, rfl, fun x => Vector.getElem_replicate _⟩, Desk.stripOf_reset,
    ⟨rfl, fun z => Vector.getElem_replicate _, rfl, fun b => ⟨Desk.homeOf_reset b, Desk.reqOf_reset b⟩,
      fun f => ⟨Desk.lineOf_reset f, Vector.getElem_ofFn _, Vector.getElem_replicate _⟩, Touch.target_reset⟩,
    ⟨Desk.control_reset, rfl, rfl, rfl, rfl⟩,
    ⟨fun i => ⟨Play.slots_reset i, Take.slots_reset i⟩, rfl, rfl, rfl, rfl, rfl, rfl, rfl, rfl, rfl⟩,
    State.posInv_reset, State.ringInv_reset, ⟨List.nodup_nil, List.nodup_nil⟩, Desk.passInv_reset, Play.wf_reset,
    Take.wf_reset⟩
end

section
/-!
Every step keeps the invariant of the position counter (section 1.4): sample events through POS's own invariant, every
other row because it leaves POS alone.
-/

set_option Elab.async false

namespace Sys2Proof.Machine

/-- POS, the sample rate and the configuration are as they were. -/
structure State.PosKept (s t : State) : Prop where
  pos    : t.pos = s.pos
  rate96 : t.rate96 = s.rate96
  conf   : t.conf = s.conf

namespace State.PosKept

/-- A change of the other blocks. -/
theorem elsewhere {s t : State} (pos : t.pos = s.pos := by rfl) (rate96 : t.rate96 = s.rate96 := by rfl)
    (conf : t.conf = s.conf := by rfl) : PosKept s t := ⟨pos, rate96, conf⟩

theorem andThen {a b c : State} (h : PosKept a b) (k : PosKept b c) : PosKept a c :=
  ⟨k.pos.trans h.pos, k.rate96.trans h.rate96, k.conf.trans h.conf⟩

theorem posInv {s t : State} (h : PosKept s t) (k : s.posInv) : t.posInv := by
  unfold State.posInv at k ⊢
  rw [h.pos, h.rate96, h.conf]
  exact k

end State.PosKept

/-! ## Sample events -/

/-- With a configuration the invariant is that of the position counter at its frame rate. -/
theorem State.posInv_iff_of_conf {s : State} {c : Conf} (h : s.conf = some c) :
    s.posInv ↔ s.pos.inv s.rate96 c.rate := by
  unfold State.posInv Pos.inv
  rw [h]
  simp

/-- R1: POS's own invariant through one sample event; while UNCONFIGURED nothing moves. -/
theorem State.posInv_posOut {s t : State} {edge : Option FrameNo} (pos : t.pos = (s.posOut edge).pos)
    (rate96 : t.rate96 = s.rate96) (conf : t.conf = s.conf) (h : s.posInv) : t.posInv := by
  rcases hc : s.conf with _ | c
  · have out : s.posOut edge = { pos := s.pos, events := [], made := none } := by unfold State.posOut; rw [hc]
    exact State.PosKept.posInv ⟨by rw [pos, out], rate96, conf⟩ h
  · rw [State.posInv_iff_of_conf (conf.trans hc), pos, rate96, State.posOut_of_conf hc]
    exact Pos.sample_keeps_inv _ _ edge ((State.posInv_iff_of_conf hc).mp h)

theorem State.posInv_sampled (p : Period) {s : State} (h : s.posInv) : (s.sampled p).posInv := by
  unfold State.sampled
  split
  · obtain ⟨_, _, _, rate96, conf, _⟩ := State.outside_sample p s
    exact State.posInv_posOut (State.pos_sample p s) rate96 conf h
  · exact h

theorem State.posInv_part {comes : Bool} {act : State → State} {s : State} (h : s.posInv)
    (k : (act s).posInv) : (s.part comes act).posInv := by
  unfold State.part
  split
  · exact k
  · exact h

theorem State.posInv_posAlone (edge : Option FrameNo) {s : State} (h : s.posInv) : (s.posAlone edge).posInv := by
  obtain ⟨d, y, e⟩ := State.posAlone_eq edge s
  rw [e]
  exact State.posInv_posOut (s := s) (edge := edge) rfl rfl rfl h

theorem State.posKept_ringAlone (b : Bool) (rx : Option WireFrame) (s : State) : s.PosKept (s.ringAlone b rx) := by
  obtain ⟨_, _, _, rate96, conf, _⟩ := State.outside_ringPhase b rx s.advanceInstant
  exact ⟨(Desk.reached_queueGrows.ringPhase b rx s.advanceInstant).pos, rate96, conf⟩

theorem State.posKept_expireFlight (x : Slot) (s : State) : s.PosKept (s.advanceInstant.expireFlight x) := by
  obtain ⟨d, e, _⟩ := State.expireFlight_eq x s.advanceInstant
  rw [e]
  exact .elsewhere

/-! ## LINK, RESET and the word clock -/

theorem State.posInv_cold (strap : BitVec 5) (rate96 : Bool) : (State.cold strap rate96).posInv :=
  ⟨fun _ => rfl, fun _ => ⟨rfl, rfl, rfl, rfl, rfl, rfl, rfl⟩, nofun, nofun, Nat.zero_le _⟩

theorem State.posInv_hold (s : State) : s.hold.posInv :=
  State.PosKept.posInv .elsewhere (State.posInv_cold s.strap s.rate96)

theorem State.posInv_rise (strap : BitVec 5) (rate96 : Bool) (s : State) : (s.rise strap rate96).posInv :=
  State.PosKept.posInv .elsewhere (State.posInv_cold strap rate96)

/-- R2: the loss of the word clock leaves POS at rest. -/
theorem State.posInv_loseClock (s : State) : s.loseClock.posInv :=
  ⟨fun _ => rfl, fun _ => Pos.resting_unlock s.pos, nofun, fun _ _ => Pos.offset_lt_spf_of_zero _ _ rfl, Nat.zero_le _⟩

theorem State.posKept_transfer (n : Nat) (s : State) : s.PosKept (s.transfer n) := by
  unfold State.transfer
  split <;> exact .elsewhere

theorem State.posKept_overrun (n : Nat) (s : State) : s.PosKept (s.overrun n) :=
  .andThen .elsewhere (State.posKept_transfer n _)

theorem State.posKept_emptyTransfer (n : Nat) (s : State) : s.PosKept (s.emptyTransfer n) := by
  unfold State.emptyTransfer
  split
  · exact .elsewhere
  · exact State.posKept_transfer n s

theorem State.posKept_formReply (s : State) : s.PosKept s.formReply := by
  unfold State.formReply
  split
  · exact .elsewhere
  · split <;> exact .elsewhere

/-- R170, R171, R180: a transfer that carries a message does what its command does, or leaves POS alone. -/
theorem State.posInv_message {n : Nat} {body : State → Answered} {s : State} (h : s.posInv)
    (k : (body s).state.posInv) : (s.message n body).posInv := by
  unfold State.message
  split
  · exact State.PosKept.posInv .elsewhere h
  · split
    · exact State.PosKept.posInv .elsewhere k
    · exact (State.posKept_overrun n s).posInv h

theorem State.posInv_command {n tail : Nat} {body : State → Answered} {s : State} (h : s.posInv)
    (k : (body s).state.posInv) : (s.command n tail body).posInv := State.posInv_message h k

/-- A command not taken while UNCONFIGURED. -/
theorem State.posInv_configured {n tail : Nat} {k : Byte} {body : Conf → State → Answered} {s : State} (h : s.posInv)
    (kept : ∀ c, s.PosKept (body c s).state) : (s.command n tail (State.configured k body)).posInv := by
  refine State.posInv_command h ?_
  unfold State.configured
  split
  · exact (kept _).posInv h
  · exact h

theorem State.posInv_reject (ldi : List Bool) (s : State) (h : s.posInv) : (s.reject ldi).posInv := by
  unfold State.reject
  split
  · exact State.PosKept.posInv .elsewhere h
  · split
    · exact State.posInv_message h (State.PosKept.posInv .elsewhere h)
    · exact h

theorem State.posKept_discard (ldi : List Bool) (s : State) : s.PosKept (s.discard ldi) := by
  unfold State.discard
  split
  · exact .elsewhere
  · split
    · exact State.posKept_overrun _ s
    · exact .elsewhere

/-! ## The commands of the blocks -/

/-- R24: a configuration is stored while UNCONFIGURED alone, where POS is at rest at offset 0. -/
theorem State.posInv_configure (payload : List Byte) {s : State} (h : s.posInv) : (s.configure payload).state.posInv := by
  unfold State.configure
  split
  · exact h
  · next hc =>
    split
    · exact h
    · split
      · exact h
      · obtain ⟨unlocked, rest, locked, _, fly⟩ := h
        obtain ⟨offset, _⟩ := rest (unlocked hc)
        exact ⟨nofun, rest, locked, fun _ _ => Pos.offset_lt_spf_of_zero _ _ offset, fly⟩

theorem State.posKept_join (s : State) : s.PosKept s.join.state := by
  unfold State.join
  split <;> exact .elsewhere

theorem State.posKept_route (strip form bus offset bus1 offset1 bus2 offset2 : Byte) (s : State) :
    s.PosKept (s.route strip form bus offset bus1 offset1 bus2 offset2).state := by
  unfold State.route
  split <;> exact .elsewhere

theorem State.posKept_solo (strip flags : Byte) (s : State) : s.PosKept (s.solo strip flags).state := by
  unfold State.solo
  split <;> exact .elsewhere

theorem State.posKept_touchset (line flags interval : Byte) (s : State) :
    s.PosKept (s.touchset line flags interval).state := by
  unfold State.touchset
  split <;> exact .elsewhere

theorem State.posKept_mapFader (fader form target : Byte) (s : State) :
    s.PosKept (s.mapFader fader form target).state := by
  unfold State.mapFader
  split
  · split <;> exact .elsewhere
  · exact .elsewhere

theorem State.posKept_surface (form target : Byte) (value : BitVec 16) (indication : Byte) (s : State) :
    s.PosKept (s.surface form target value indication).state := by
  unfold State.surface
  split
  · split <;> exact .elsewhere
  · exact .elsewhere

theorem State.posKept_controlCommand (id mode safe glide : Byte) (s : State) :
    s.PosKept (s.controlCommand id mode safe glide).state := by
  unfold State.controlCommand
  split <;> exact .elsewhere

theorem State.posKept_window (form : Byte) (inTick outTick : BitVec 32) (s : State) :
    s.PosKept (s.window form inTick outTick).state := by
  unfold State.window
  split <;> exact .elsewhere

theorem State.posKept_abortAtPageEnd (s : State) : s.PosKept s.abortAtPageEnd.state := by
  unfold State.abortAtPageEnd
  split <;> exact .elsewhere

theorem State.posKept_setSpan (form : Byte) (first last : BitVec 24) (s : State) :
    s.PosKept (s.setSpan form first last).state := by
  unfold State.setSpan
  split <;> exact .elsewhere

theorem State.posKept_countStray (s : State) : s.PosKept s.countStray := by
  unfold State.countStray
  split
  · exact .elsewhere
  · dsimp only
    split <;> exact .elsewhere

theorem State.posKept_takePage (p : PlayPage) (s : State) : s.PosKept (s.takePage p) := by
  unfold State.takePage
  dsimp only
  split
  · split <;> exact .elsewhere
  · exact .elsewhere

theorem State.posKept_deliverEffect (r : Delivery) (s : State) : s.PosKept (s.deliverEffect r) := by
  cases r
  case taken p => exact State.posKept_takePage p s
  case stray => exact State.posKept_countStray s
  all_goals exact .andThen (b := s.raise .pageRejected) .elsewhere (State.posKept_countStray _)

/-! ## Every row -/

/-- Every row answers a next state that meets the invariant. -/
theorem exec_keeps_posInv (i : Instr) {s : State} (h : s.posInv) : ∃ t, exec i s = .next t ∧ t.posInv := by
  have ring := fun b rx => (State.posKept_ringAlone b rx s).posInv h
  cases i with
  | configure payload tail =>
    refine ⟨_, rfl, State.posInv_command h ?_⟩
    split
    · exact State.posInv_configure payload h
    · exact State.PosKept.posInv .elsewhere h
  | join => exact ⟨_, rfl, State.posInv_configured h fun _ => State.posKept_join s⟩
  | leave => exact ⟨_, rfl, State.posInv_configured h fun _ => .elsewhere⟩
  | route => exact ⟨_, rfl, State.posInv_configured h fun _ => State.posKept_route _ _ _ _ _ _ _ _ s⟩
  | solo => exact ⟨_, rfl, State.posInv_configured h fun _ => State.posKept_solo _ _ s⟩
  | touchset => exact ⟨_, rfl, State.posInv_configured h fun _ => State.posKept_touchset _ _ _ s⟩
  | map => exact ⟨_, rfl, State.posInv_configured h fun _ => State.posKept_mapFader _ _ _ s⟩
  | surface => exact ⟨_, rfl, State.posInv_configured h fun _ => State.posKept_surface _ _ _ _ s⟩
  | drives => exact ⟨_, rfl, State.posInv_command h (State.PosKept.posInv .elsewhere h)⟩
  | control => exact ⟨_, rfl, State.posInv_configured h fun _ => State.posKept_controlCommand _ _ _ _ s⟩
  | window => exact ⟨_, rfl, State.posInv_configured h fun _ => State.posKept_window _ _ _ s⟩
  | abortNow => exact ⟨_, rfl, State.posInv_configured h fun _ => .elsewhere⟩
  | abortAtPageEnd => exact ⟨_, rfl, State.posInv_configured h fun _ => State.posKept_abortAtPageEnd s⟩
  | span => exact ⟨_, rfl, State.posInv_configured h fun _ => State.posKept_setSpan _ _ _ s⟩
  | deliver payload tail =>
    refine ⟨_, rfl, State.posInv_command h ?_⟩
    split
    · unfold State.configured
      split
      · exact (State.posKept_deliverEffect _ s).posInv h
      · exact h
    · exact State.PosKept.posInv .elsewhere h
  | take => exact ⟨_, rfl, State.posInv_command h (State.PosKept.posInv .elsewhere h)⟩
  | passes => exact ⟨_, rfl, State.posInv_command h (State.PosKept.posInv .elsewhere h)⟩
  | status => exact ⟨_, rfl, State.posInv_command h (State.PosKept.posInv .elsewhere h)⟩
  | mask => exact ⟨_, rfl, State.posInv_command h (State.PosKept.posInv .elsewhere h)⟩
  | restart => exact ⟨_, rfl, State.posInv_command h (State.PosKept.posInv .elsewhere h)⟩
  | format ldi => exact ⟨_, rfl, State.posInv_reject ldi s h⟩
  | poll n => exact ⟨_, rfl, (State.posKept_emptyTransfer n s).posInv h⟩
  | replyFormed => exact ⟨_, rfl, (State.posKept_formReply s).posInv h⟩
  | replyRead n => exact ⟨_, rfl, (State.posKept_emptyTransfer n s).posInv h⟩
  | linkOverrun ldi => exact ⟨_, rfl, (State.posKept_discard ldi s).posInv h⟩
  | hardwareReset => exact ⟨_, rfl, State.posInv_hold s⟩
  | resetRise strap rate96 =>
    refine ⟨_, rfl, ?_⟩
    split
    · exact State.posInv_rise strap rate96 s
    · exact h
  | clockLost =>
    refine ⟨_, rfl, ?_⟩
    split
    · exact State.PosKept.posInv .elsewhere h
    · split
      · exact State.posInv_loseClock s
      · exact h
  | clockReturn => exact ⟨_, rfl, State.PosKept.posInv .elsewhere h⟩
  | sampleEvent p => exact ⟨_, rfl, State.posInv_sampled _ h⟩
  | frameEdge f p => exact ⟨_, rfl, State.posInv_sampled _ h⟩
  | frameArrival f p => exact ⟨_, rfl, State.posInv_sampled _ h⟩
  | badFrame f p => exact ⟨_, rfl, State.posInv_sampled _ h⟩
  | silentSample p => exact ⟨_, rfl, State.posInv_sampled _ h⟩
  | tapFrame f p => exact ⟨_, rfl, State.posInv_sampled _ h⟩
  | flywheel => exact ⟨_, rfl, State.posInv_part h (State.posInv_posAlone none h)⟩
  | tick edge => exact ⟨_, rfl, State.posInv_part h (State.posInv_posAlone edge h)⟩
  | abortFired edge => exact ⟨_, rfl, State.posInv_part h (State.posInv_posAlone edge h)⟩
  | glideEnd c edge => exact ⟨_, rfl, State.posInv_part h (State.posInv_posAlone edge h)⟩
  | rampEnd | settleEnd | settleRiseEnd | touchQualified | releaseQualified | holdingsTimer | holdingsExpiry | leaseExpiry
  | keepalive => exact ⟨_, rfl, State.posInv_part h (State.PosKept.posInv .elsewhere h)⟩
  | noticeDeadline x => exact ⟨_, rfl, State.posInv_part h ((State.posKept_expireFlight x s).posInv h)⟩
  | ringBreak | tagAdoption | relock | relockComplete | lockPhaseEnd | listenPhaseEnd | firstIn =>
    exact ⟨_, rfl, State.posInv_part h (ring _ _)⟩

end Sys2Proof.Machine

open Sys2Proof Sys2Proof.Machine

/-- Settles O16: every row keeps the invariant, and an empty queue changes nothing. -/
theorem posInvariantKept : Obligations.PosInvariantKept := by
  intro s t h e
  unfold step at e
  split at e
  · cases e
    exact h
  · next c rest _ =>
    obtain ⟨u, run, inv⟩ := exec_keeps_posInv c (State.PosKept.posInv (t := { s with pending := rest }) .elsewhere h)
    rw [run] at e
    cases e
    exact inv
end

section
/-!
What one tick does to one control (R138): its steps as functions of the control's record, and the record that comes out.
-/

set_option Elab.async false

namespace Sys2Proof.Machine

/-! ## Running an operation through the controls -/

/-- An operation that acts on one control by a function of its record acts through a list on each control of it once. -/
theorem Desk.control_each {f : Fin 176 → Desk → Desk} {g : Fin 176 → Control → Control}
    (h : ∀ c j d, (f c d).control j = if j = c then g c (d.control c) else d.control j)
    {l : List (Fin 176)} (hl : l.Nodup) (d : Desk) (j : Fin 176) :
    (d.each l f).control j = if j ∈ l then g j (d.control j) else d.control j := by
  unfold Desk.each
  induction l generalizing d with
  | nil => simp
  | cons c l ih =>
    obtain ⟨hc, hl⟩ := List.nodup_cons.mp hl
    rw [List.foldl_cons, ih hl (f c d), h]
    by_cases e : j = c
    · subst e; simp [hc]
    · simp [e]

theorem Desk.control_decideApplied (e : Env) (c j : Fin 176) (d : Desk) :
    (d.decideApplied e c).control j =
      if j = c then { d.control c with applied := (d.control c).decided } else d.control j :=
  (Desk.control_apply e c _ d).2 j

/-! ## The steps of a tick on one record -/

/-- The record with its open pass, if any, closed (R132). -/
def Control.closed (x : Control) : Control :=
  match x.openPass with
  | none => x
  | some _ =>
    let y := { x with openPass := none, glide := none, pass := x.restState }
    { y with applied := y.decided }

/-- R118: the record with the value in force as playback value, if there is one. -/
def Control.play (v : Option Value) (x : Control) : Control := { x with playback := v.getD x.playback }

/-- R138 step 4: a gliding control counts the tick. -/
def Control.countGlide (x : Control) : Control :=
  match x.pass, x.glide with
  | .gliding, some g => { x with glide := some { g with taken := g.taken + 1 } }
  | _, _ => x

/-- R138 step 6: the applied value of the tick. -/
def Control.applyTick (x : Control) : Control :=
  match x.pass, x.glide with
  | .gliding, some g => { x with applied := glideValue g.start x.playback g.taken g.length }
  | _, _ => { x with applied := x.decided }

/-- R138 step 8: the last tick of a glide closes its pass. -/
def Control.endGlide (x : Control) : Control :=
  match x.pass, x.glide with
  | .gliding, some g => if g.length ≤ g.taken then x.closed else x
  | _, _ => x

section
variable {x : Control} {g : Glide}

theorem Control.closed_of_none (h : x.openPass = none) : x.closed = x := by
  unfold Control.closed
  rw [h]

theorem Control.closed_of_some {p : OpenPass} (h : x.openPass = some p) :
    x.closed =
      { x with openPass := none, glide := none, pass := x.restState,
               applied := Control.decided { x with openPass := none, glide := none, pass := x.restState } } := by
  unfold Control.closed
  rw [h]

theorem Control.countGlide_of_gliding (hp : x.pass = .gliding) (hg : x.glide = some g) :
    x.countGlide = { x with glide := some { g with taken := g.taken + 1 } } := by
  unfold Control.countGlide
  rw [hp, hg]

theorem Control.countGlide_of_not (h : ∀ g, x.pass = .gliding → x.glide = some g → False) : x.countGlide = x := by
  unfold Control.countGlide
  split
  · next g hp hg => exact (h g hp hg).elim
  · rfl

theorem Control.applyTick_of_gliding (hp : x.pass = .gliding) (hg : x.glide = some g) :
    x.applyTick = { x with applied := glideValue g.start x.playback g.taken g.length } := by
  unfold Control.applyTick
  rw [hp, hg]

theorem Control.applyTick_of_not (h : ∀ g, x.pass = .gliding → x.glide = some g → False) :
    x.applyTick = { x with applied := x.decided } := by
  unfold Control.applyTick
  split
  · next g hp hg => exact (h g hp hg).elim
  · rfl

theorem Control.endGlide_of_gliding (hp : x.pass = .gliding) (hg : x.glide = some g) :
    x.endGlide = if g.length ≤ g.taken then x.closed else x := by
  unfold Control.endGlide
  rw [hp, hg]

theorem Control.endGlide_of_not (h : ∀ g, x.pass = .gliding → x.glide = some g → False) : x.endGlide = x := by
  unfold Control.endGlide
  split
  · next g hp hg => exact (h g hp hg).elim
  · rfl

end

/-! ## The steps of a tick on the desk -/

theorem Desk.control_eq_ite {j c : Fin 176} {d : Desk} {x : Control} (h : x = d.control c) :
    d.control j = if j = c then x else d.control j := by
  split
  · next hj => rw [h, hj]
  · rfl

theorem Desk.control_closePass (e : Env) (r : CloseReason) (c j : Fin 176) (d : Desk) :
    (d.closePass e r c).control j = if j = c then (d.control c).closed else d.control j := by
  unfold Desk.closePass
  dsimp only
  split
  · next h => exact Desk.control_eq_ite (Control.closed_of_none h)
  · next h =>
    rw [Control.closed_of_some h, Desk.control_decideApplied, (Desk.control_countClosed c _).1,
      (Desk.control_countClosed j _).1, Desk.control_setControl, Desk.control_setControl, if_pos rfl]
    split <;> rfl

theorem Desk.control_closeAll (e : Env) (r : CloseReason) (j : Fin 176) (d : Desk) :
    (d.closeAll e r).control j = (d.control j).closed := by
  have each := Desk.control_each (g := fun _ => Control.closed) (Desk.control_closePass e r) (List.nodup_finRange 176) d j
  rwa [if_pos (List.mem_finRange j)] at each

theorem Desk.control_takePlayback (e : Env) (t : Tick) (c j : Fin 176) (d : Desk) :
    (d.takePlayback e t c).control j =
      if j = c then (d.control c).play (e.play.inForce t c) else d.control j := by
  unfold Desk.takePlayback Control.play
  split
  · next v h => rw [Desk.control_setControl, h]; rfl
  · next h =>
    split
    · next hj => rw [hj, h]; rfl
    · rfl

theorem Desk.control_tickGlide (c j : Fin 176) (d : Desk) :
    (d.tickGlide c).control j = if j = c then (d.control c).countGlide else d.control j := by
  unfold Desk.tickGlide
  dsimp only
  split
  · next hp hg => rw [Control.countGlide_of_gliding hp hg, Desk.control_setControl]
  · next h => exact Desk.control_eq_ite (Control.countGlide_of_not h)

theorem Desk.control_tickApplied (e : Env) (c j : Fin 176) (d : Desk) :
    (d.tickApplied e c).control j = if j = c then (d.control c).applyTick else d.control j := by
  unfold Desk.tickApplied
  dsimp only
  split
  · next hp hg => rw [Control.applyTick_of_gliding hp hg, (Desk.control_apply e c _ d).2]
  · next h => rw [Control.applyTick_of_not h, Desk.control_decideApplied]

theorem Desk.control_tickGlideEnd (e : Env) (c j : Fin 176) (d : Desk) :
    (d.tickGlideEnd e c).control j = if j = c then (d.control c).endGlide else d.control j := by
  unfold Desk.tickGlideEnd
  split
  · next hp hg =>
    rw [Control.endGlide_of_gliding hp hg]
    split
    · exact Desk.control_closePass e _ c j d
    · exact Desk.control_eq_ite rfl
  · next h => exact Desk.control_eq_ite (Control.endGlide_of_not h)

/-- R138 step 5: a PRIMED control may have opened a pass. -/
def Control.PunchedIn (x y : Control) : Prop :=
  y = x ∨ x.pass = .primed ∧ ∃ p, y = { x with openPass := some p, pass := .writing }

theorem Desk.control_tickPunchIn (e : Env) (t : Tick) (c : Fin 176) (d : Desk) :
    (d.control c).PunchedIn ((d.tickPunchIn e t c).control c) ∧
      ∀ j, j ≠ c → (d.tickPunchIn e t c).control j = d.control j := by
  unfold Desk.tickPunchIn
  split
  · next h =>
    split
    · have opened : ∃ p, ∀ j, (d.openPass c t).control j =
          if j = c then { d.control c with openPass := some p, pass := .writing } else d.control j :=
        ⟨_, fun j => Desk.control_setControl c j _ d⟩
      obtain ⟨p, hp⟩ := opened
      exact ⟨.inr ⟨h.1, p, by rw [hp, if_pos rfl]⟩, fun j hj => by rw [hp, if_neg hj]⟩
    · exact ⟨.inl rfl, fun _ _ => rfl⟩
  · exact ⟨.inl rfl, fun _ _ => rfl⟩

/-- R138 step 5 through a list of controls. -/
theorem Desk.control_each_tickPunchIn (e : Env) (t : Tick) {l : List (Fin 176)} (hl : l.Nodup) (d : Desk) (j : Fin 176) :
    (d.control j).PunchedIn ((d.each l (Desk.tickPunchIn e t)).control j) ∧
      (j ∉ l → (d.each l (Desk.tickPunchIn e t)).control j = d.control j) := by
  unfold Desk.each
  induction l generalizing d with
  | nil => exact ⟨.inl rfl, fun _ => rfl⟩
  | cons c l ih =>
    obtain ⟨hc, hl⟩ := List.nodup_cons.mp hl
    obtain ⟨here, there⟩ := Desk.control_tickPunchIn e t c d
    obtain ⟨ih, out⟩ := ih hl (d.tickPunchIn e t c)
    rw [List.foldl_cons]
    by_cases hj : j = c
    · subst hj
      rw [out hc]
      exact ⟨here, fun h => absurd List.mem_cons_self h⟩
    · rw [there j hj] at ih out
      exact ⟨ih, fun h => out fun k => h (List.mem_cons_of_mem c k)⟩

/-! ## Moves leave the values alone (R125, R138 step 7) -/

/-- The two records agree in mode, values, pass state and glide. -/
structure Control.SameValues (x y : Control) : Prop where
  mode     : y.mode = x.mode
  surface  : y.surface = x.surface
  playback : y.playback = x.playback
  applied  : y.applied = x.applied
  pass     : y.pass = x.pass
  glide    : y.glide = x.glide

namespace Control.SameValues

theorem same (x : Control) : SameValues x x := ⟨rfl, rfl, rfl, rfl, rfl, rfl⟩

theorem andThen {x y z : Control} (h : SameValues x y) (k : SameValues y z) : SameValues x z :=
  ⟨k.mode.trans h.mode, k.surface.trans h.surface, k.playback.trans h.playback, k.applied.trans h.applied,
    k.pass.trans h.pass, k.glide.trans h.glide⟩

theorem setControl {c j : Fin 176} {x : Control} {d : Desk} (h : SameValues (d.control c) x) :
    SameValues (d.control j) ((d.setControl c x).control j) := by
  rw [Desk.control_setControl]
  split
  · next e => rw [e]; exact h
  · exact same _

end Control.SameValues

theorem Desk.values_markDamaged (k : Take) (f : Flag) (j : Fin 176) (d : Desk) :
    (d.control j).SameValues ((Desk.raise f { d with take := k, auto := d.auto.markDamaged }).control j) := by
  have e : (Desk.raise f { d with take := k, auto := d.auto.markDamaged }).control j =
      { d.control j with openPass := (d.control j).openPass.map fun p => { p with damaged := true } } := by
    simp [Desk.control, Desk.raise, Auto.markDamaged]
  rw [e]
  exact ⟨rfl, rfl, rfl, rfl, rfl, rfl⟩

theorem Desk.values_appendMove (c : Fin 176) (t : Tick) (j : Fin 176) (d : Desk) :
    (d.control j).SameValues ((d.appendMove c t).control j) := by
  unfold Desk.appendMove
  dsimp only
  have moved : (d.control j).SameValues ((d.setControl c { d.control c with
      lastMove := some { tick := t, value := (d.control c).applied, current := true } }).control j) :=
    .setControl ⟨rfl, rfl, rfl, rfl, rfl, rfl⟩
  split
  · exact moved
  · exact moved.andThen (Desk.values_markDamaged _ _ j _)
  · exact moved.andThen (Desk.values_markDamaged _ _ j _)

theorem Desk.values_tickMove (e : Env) (t : Tick) (opened : Bool) (c j : Fin 176) (d : Desk) :
    (d.control j).SameValues ((d.tickMove e t opened c).control j) := by
  unfold Desk.tickMove
  dsimp only
  split
  · split
    · exact (Desk.values_appendMove c t j d).andThen (.setControl ⟨rfl, rfl, rfl, rfl, rfl, rfl⟩)
    · exact .setControl ⟨rfl, rfl, rfl, rfl, rfl, rfl⟩
  · exact .same _

theorem Desk.values_each {α : Type} {f : α → Desk → Desk} {j : Fin 176}
    (h : ∀ a (d : Desk), (d.control j).SameValues ((f a d).control j)) (l : List α) (d : Desk) :
    (d.control j).SameValues ((d.each l f).control j) := by
  unfold Desk.each
  induction l generalizing d with
  | nil => exact .same _
  | cons a l ih => exact (h a d).andThen (ih (f a d))

theorem Desk.values_ageMoves (j : Fin 176) (d : Desk) : (d.control j).SameValues (d.ageMoves.control j) := by
  have e : d.ageMoves.control j =
      { d.control j with lastMove := (d.control j).lastMove.map fun m => { m with current := false } } := by
    simp [Desk.control, Desk.ageMoves, Auto.ageMoves]
  rw [e]
  exact ⟨rfl, rfl, rfl, rfl, rfl, rfl⟩

/-! ## The steps and the values -/

theorem Control.playback_closed (x : Control) : x.closed.playback = x.playback := by
  unfold Control.closed
  split <;> rfl

theorem Control.playback_countGlide (x : Control) : x.countGlide.playback = x.playback := by
  unfold Control.countGlide
  split <;> rfl

theorem Control.playback_applyTick (x : Control) : x.applyTick.playback = x.playback := by
  unfold Control.applyTick
  split <;> rfl

theorem Control.playback_endGlide (x : Control) : x.endGlide.playback = x.playback := by
  unfold Control.endGlide
  split
  · split
    · exact x.playback_closed
    · rfl
  · rfl

/-- R123: a gliding control opens no pass. -/
theorem Control.PunchedIn.eq_of_gliding {x y : Control} (h : x.PunchedIn y) (pass : x.pass = .gliding) : y = x :=
  h.resolve_right fun ⟨primed, _⟩ => by rw [pass] at primed; cases primed

theorem Control.PunchedIn.playback {x y : Control} (h : x.PunchedIn y) : y.playback = x.playback := by
  obtain rfl | ⟨_, p, rfl⟩ := h <;> rfl

/-- R120: the control is gliding, or its applied value is the one decided by its mode and pass state. -/
def Control.settled (x : Control) : Prop := x.pass ≠ .gliding → x.applied = x.decided

/-- R120: deciding the applied value a second time changes nothing. -/
theorem Control.settled_decided (x : Control) : Control.settled { x with applied := x.decided } := by
  obtain ⟨mode, _, _, _, _, _, _, pass, _, _, _⟩ := x
  intro _
  cases mode <;> cases pass <;> rfl

theorem Control.SameValues.settled {x y : Control} (h : x.SameValues y) (k : x.settled) : y.settled := by
  unfold Control.settled Control.decided at k ⊢
  rw [h.pass, h.applied, h.mode, h.surface, h.playback]
  exact k

theorem Control.settled_applyTick (x : Control) : x.applyTick.settled := by
  unfold Control.applyTick
  split
  · next h _ => exact fun k => absurd h k
  · exact x.settled_decided

theorem Control.settled_closed {x : Control} (h : x.settled) : x.closed.settled := by
  unfold Control.closed
  split
  · exact h
  · exact Control.settled_decided _

theorem Control.settled_endGlide {x : Control} (h : x.settled) : x.endGlide.settled := by
  unfold Control.endGlide
  split
  · split
    · exact Control.settled_closed h
    · exact h
  · exact h

/-! ## The whole tick (R138) -/

theorem Env.nodup_liveControls (e : Env) : e.liveControls.Nodup := (List.nodup_finRange 176).filter _

@[simp] theorem Env.mem_liveControls (e : Env) (c : Fin 176) : c ∈ e.liveControls ↔ e.live c = true := by
  simp [Env.liveControls, allControls]

/-- The desk behind the first two steps of a tick: an abort that fires and a window that ends have closed their passes. -/
def Desk.tickClosings (e : Env) (t : MadeTick) (d : Desk) : Desk := (d.ageMoves.tickAbort e t).tickWindow e t

/-- R138: a control that is not live keeps its values through steps 3 to 8. -/
theorem Desk.values_takeTick_of_not_live {e : Env} {c : Fin 176} (h : e.live c = false) (t : MadeTick) (d : Desk) :
    ((d.tickClosings e t).control c).SameValues ((d.takeTick e t).control c) := by
  have out : c ∉ e.liveControls := by simp [h]
  have nodup := e.nodup_liveControls
  unfold Desk.takeTick
  dsimp only
  rw [Desk.control_each (g := fun _ => Control.endGlide) (Desk.control_tickGlideEnd e) nodup, if_neg out]
  refine .andThen ?_ (Desk.values_each (fun k d => Desk.values_tickMove e t.index _ k c d) _ _)
  rw [Desk.control_each (g := fun _ => Control.applyTick) (Desk.control_tickApplied e) nodup, if_neg out,
    (Desk.control_each_tickPunchIn e t.index nodup _ c).2 out,
    Desk.control_each (g := fun _ => Control.countGlide) Desk.control_tickGlide nodup, if_neg out,
    Desk.control_each (g := fun k => Control.play (e.play.inForce t.index k)) (Desk.control_takePlayback e t.index) nodup,
    if_neg out]
  exact .same _

/-- R138: what steps 3 to 8 make of the record of a live control. -/
theorem Desk.control_takeTick_of_live {e : Env} {c : Fin 176} (h : e.live c = true) (t : MadeTick) (d : Desk) :
    ∃ x y, (((d.tickClosings e t).control c).play (e.play.inForce t.index c)).countGlide.PunchedIn x ∧
      x.applyTick.SameValues y ∧ (d.takeTick e t).control c = y.endGlide := by
  have inside : c ∈ e.liveControls := by simp [h]
  have nodup := e.nodup_liveControls
  have punched := (Desk.control_each_tickPunchIn e t.index nodup
    (((d.tickClosings e t).each e.liveControls (Desk.takePlayback e t.index)).each e.liveControls Desk.tickGlide) c).1
  rw [Desk.control_each (g := fun _ => Control.countGlide) Desk.control_tickGlide nodup, if_pos inside,
    Desk.control_each (g := fun k => Control.play (e.play.inForce t.index k)) (Desk.control_takePlayback e t.index) nodup,
    if_pos inside] at punched
  unfold Desk.takeTick
  dsimp only
  rw [Desk.control_each (g := fun _ => Control.endGlide) (Desk.control_tickGlideEnd e) nodup, if_pos inside]
  refine ⟨_, _, punched, .andThen ?_ (Desk.values_each (fun k d => Desk.values_tickMove e t.index _ k c d) _ _), rfl⟩
  rw [Desk.control_each (g := fun _ => Control.applyTick) (Desk.control_tickApplied e) nodup, if_pos inside]
  exact .same _

end Sys2Proof.Machine
end

section
/-!
A tick of POS at PLAY and at the controls (R4, R6, R118, R120, R121, R153), the rounding of a glide (R121) and the value in
force (R118, R152).
-/

set_option Elab.async false

namespace Sys2Proof.Machine

/-! ## The closings before a tick keep every playback value -/

theorem Desk.playback_closeAll (e : Env) (r : CloseReason) (c : Fin 176) (d : Desk) :
    ((d.closeAll e r).control c).playback = (d.control c).playback := by
  rw [Desk.control_closeAll, Control.playback_closed]

theorem Desk.playback_takeEvent (e : Env) (v : PosEvent) (c : Fin 176) (d : Desk) :
    ((d.takeEvent e v).control c).playback = (d.control c).playback := by
  cases v
  case roll | framing => rfl
  all_goals exact Desk.playback_closeAll e _ c d

theorem Desk.control_fireAbort (e : Env) (c : Fin 176) (d : Desk) :
    (d.fireAbort e).control c = (d.closeAll e .abort).control c := by
  unfold Desk.fireAbort
  dsimp only
  generalize d.closeAll e .abort = x
  rfl

theorem Desk.playback_tickClosings (e : Env) (t : MadeTick) (c : Fin 176) (d : Desk) :
    ((d.tickClosings e t).control c).playback = (d.control c).playback := by
  have abort : ∀ d : Desk, ((d.tickAbort e t).control c).playback = (d.control c).playback := by
    intro d
    unfold Desk.tickAbort
    split
    · rw [Desk.control_fireAbort, Desk.playback_closeAll]
    · rfl
  have window : ∀ d : Desk, ((d.tickWindow e t).control c).playback = (d.control c).playback := by
    intro d
    unfold Desk.tickWindow
    split
    · split
      · exact Desk.playback_closeAll e _ c d
      · rfl
    · rfl
  unfold Desk.tickClosings
  rw [window, abort, (Desk.values_ageMoves c d).playback]

/-- Where no abort is pending and the window does not end, nothing closes before a tick. -/
theorem Desk.tickClosings_eq_ageMoves {t : MadeTick} {d : Desk} (hp : d.auto.pendingAbort = false)
    (hw : ∀ i o, d.auto.window = some (i, o) → t.index < o) (e : Env) : d.tickClosings e t = d.ageMoves := by
  have pending : d.ageMoves.auto.pendingAbort = false := hp
  have abort : d.ageMoves.tickAbort e t = d.ageMoves := by simp [Desk.tickAbort, pending]
  unfold Desk.tickClosings
  rw [abort]
  unfold Desk.tickWindow
  split
  · next i o h => rw [if_neg (BitVec.not_le.mpr (hw i o h))]
  · rfl

/-! ## One control at a tick -/

/-- R118: the playback value after a tick. -/
theorem Desk.playback_takeTick (e : Env) (t : MadeTick) (c : Fin 176) (d : Desk) :
    ((d.takeTick e t).control c).playback =
      if e.live c then (e.play.inForce t.index c).getD (d.control c).playback else (d.control c).playback := by
  rcases live : e.live c with _ | _
  · rw [(Desk.values_takeTick_of_not_live live t d).playback, Desk.playback_tickClosings]
    rfl
  · obtain ⟨x, y, punched, same, out⟩ := Desk.control_takeTick_of_live live t d
    rw [out, Control.playback_endGlide, same.playback, Control.playback_applyTick, punched.playback,
      Control.playback_countGlide]
    show (e.play.inForce t.index c).getD ((d.tickClosings e t).control c).playback = _
    rw [Desk.playback_tickClosings]
    rfl

/-- R120: after a tick a live control that is not gliding applies the value of its mode and pass state. -/
theorem Desk.settled_takeTick {e : Env} {c : Fin 176} (live : e.live c = true) (t : MadeTick) (d : Desk) :
    ((d.takeTick e t).control c).settled := by
  obtain ⟨x, y, _, same, out⟩ := Desk.control_takeTick_of_live live t d
  rw [out]
  exact Control.settled_endGlide (same.settled x.settled_applyTick)

/-- R121: a tick of a glide that is not at its end. -/
theorem Desk.gliding_takeTick {e : Env} {c : Fin 176} {t : MadeTick} {d : Desk} {g : Glide} (live : e.live c = true)
    (hp : d.auto.pendingAbort = false) (hw : ∀ i o, d.auto.window = some (i, o) → t.index < o)
    (pass : (d.control c).pass = .gliding) (glide : (d.control c).glide = some g) (more : g.taken + 1 < g.length) :
    ((d.takeTick e t).control c).pass = .gliding ∧
      ((d.takeTick e t).control c).glide = some { g with taken := g.taken + 1 } ∧
      ((d.takeTick e t).control c).applied =
        glideValue g.start ((d.takeTick e t).control c).playback (g.taken + 1) g.length := by
  obtain ⟨x, y, punched, same, out⟩ := Desk.control_takeTick_of_live live t d
  rw [Desk.tickClosings_eq_ageMoves hp hw] at punched
  have aged := Desk.values_ageMoves c d
  have counted := Control.countGlide_of_gliding
    (x := (d.ageMoves.control c).play (e.play.inForce t.index c)) (aged.pass.trans pass) (aged.glide.trans glide)
  have opens_none := punched.eq_of_gliding (by rw [counted]; exact aged.pass.trans pass)
  have pass_x : x.pass = .gliding := by rw [opens_none, counted]; exact aged.pass.trans pass
  have glide_x : x.glide = some { g with taken := g.taken + 1 } := by rw [opens_none, counted]
  rw [Control.applyTick_of_gliding pass_x glide_x] at same
  have pass_y : y.pass = .gliding := same.pass.trans pass_x
  have glide_y : y.glide = some { g with taken := g.taken + 1 } := same.glide.trans glide_x
  have stays : y.endGlide = y := by
    rw [Control.endGlide_of_gliding pass_y glide_y, if_neg (Nat.not_le.mpr more)]
  rw [out, stays]
  exact ⟨pass_y, glide_y, by rw [same.applied, same.playback]⟩

/-- R120: the applied value of a settled control, by mode and pass state. -/
theorem Control.applied_of_settled {x : Control} (h : x.settled) (pass : x.pass ≠ .gliding) :
    (x.mode = .off ∨ x.mode = .write ∨ (x.mode = .touch ∨ x.mode = .latch) ∧ (x.pass = .primed ∨ x.pass = .writing) →
      x.applied = x.surface) ∧
    (x.mode = .read ∨ (x.mode = .touch ∨ x.mode = .latch) ∧ x.pass = .idle → x.applied = x.playback) := by
  rw [h pass]
  unfold Control.decided
  refine ⟨?_, ?_⟩
  · rintro (mode | mode | ⟨mode | mode, pass | pass⟩) <;> simp only [mode, pass]
  · rintro (mode | ⟨mode | mode, pass⟩) <;> simp only [mode, pass]

/-! ## POS's part of a sample event at a tick -/

/-- R4, R6: a locked position that moves on to the start of a quarter produces its tick, which is no crossing. -/
theorem State.posOut_quarter {s : State} {c : Conf} {m : Motion} {q : Fin 4} (hc : s.conf = some c)
    (hs : s.pos.state = m.transport)
    (ho : s.pos.offset + 1 = quarterStart (spf s.rate96 c.rate s.pos.frame) q.val) :
    s.posOut none =
      { pos := { s.pos with offset := s.pos.offset + 1, cold := false,
                            tick := some (BitVec.ofNat 26 (s.pos.frame.toNat * 4 + q.val)) },
        events := [],
        made := some { index := BitVec.ofNat 26 (s.pos.frame.toNat * 4 + q.val), crossing := false } } := by
  have wide := spf_gt s.rate96 c.rate s.pos.frame
  have within : q.val * spf s.rate96 c.rate s.pos.frame ≤ 3 * spf s.rate96 c.rate s.pos.frame :=
    Nat.mul_le_mul_right _ (by have := q.isLt; omega)
  have late : s.pos.due s.rate96 c.rate = false := by
    simp only [Pos.due, ho, quarterStart, decide_eq_false_iff_not]
    omega
  have quarter := quarterAt_quarterStart (n := spf s.rate96 c.rate s.pos.frame) (by omega) q
  rw [← ho] at quarter
  rw [State.posOut_of_conf hc, Pos.sample_move hs late,
    produceTick_of_quarter (p := { s.pos with offset := s.pos.offset + 1 }) (m := m)
      (by rw [hs]; exact Motion.motion?_transport m) quarter, tickOf_eq _ _ q.isLt]

theorem State.tick_of_made {s : State} {edge : Option FrameNo} {k : MadeTick} (h : s.clocked)
    (hm : (s.posOut edge).made = some k) : exec (.tick edge) s = .next (s.posAlone edge) :=
  congrArg Host.Outcome.next (State.part_of_clocked h (by rw [hm]; rfl) _)

theorem State.playback_takePosEvents (l : List PosEvent) (c : Fin 176) (s : State) :
    ((l.foldl (fun s v => s.takePosEvent v) s).desk.control c).playback = (s.desk.control c).playback := by
  induction l generalizing s with
  | nil => rfl
  | cons v l ih =>
    rw [List.foldl_cons, ih (s.takePosEvent v), State.desk_takePosEvent, Desk.playback_takeEvent]
    rfl

/-- What the controls take at a tick: a tick of AUTO on a desk `d` whose playback values are those before the sample event,
with PLAY as the sample event leaves it. Without transport events AUTO is as it was. -/
theorem State.posAlone_of_tick {s : State} {edge : Option FrameNo} {k : MadeTick} (hm : (s.posOut edge).made = some k) :
    ∃ (d : Desk) (e : Env), (∀ c, (s.posAlone edge).desk.control c = (d.takeTick e k).control c) ∧
      e.play = (s.posAlone edge).play ∧ (∀ c, e.live c = s.env.live c) ∧
      (∀ c, (d.control c).playback = (s.desk.control c).playback) ∧
      ((s.posOut edge).events = [] → d.auto = s.desk.auto) ∧
      (s.posAlone edge).play.entered = some (pageOf k.index) := by
  have phase := State.posPhase_of_tick hm
  have playback := fun c => State.playback_takePosEvents (s.posOut edge).events c { s with pos := (s.posOut edge).pos }
  obtain ⟨u, hu⟩ : ∃ u : State, (s.posOut edge).events.foldl (fun (s : State) v => s.takePosEvent v)
      { s with pos := (s.posOut edge).pos } = u := ⟨_, rfl⟩
  obtain ⟨d₀, y₀, around⟩ := State.takePosEvents_eq (s.posOut edge).events { s with pos := (s.posOut edge).pos }
  have quiet : (s.posOut edge).events = [] → u.desk.auto = s.desk.auto := fun he => by
    rw [← hu, he]
    rfl
  rw [hu] at phase playback around
  obtain ⟨d, tick, auto, _⟩ := State.takeTick_eq k u
  have control : ∀ c, d.control c = u.desk.control c := fun c => by unfold Desk.control; rw [auto]
  have play : (s.posAlone edge).play = u.play.tick u.pos k.index := by
    change (s.posPhase edge).play = _
    rw [phase, tick]
  refine ⟨d, { u.env with play := u.play.tick u.pos k.index }, fun c => ?_, play.symm, fun c => ?_,
    fun c => by rw [control]; exact playback c, fun he => auto.trans (quiet he), by rw [play]; rfl⟩
  · rw [State.posAlone_desk, Desk.control_fixLengths, phase, tick]
  · rw [around]
    rfl

/-! ## The rounding of a glide (R121) -/

theorem toNat_glideValue (w p : Value) {j g : Nat} (hg : 0 < g) (hj : j ≤ g) :
    (glideValue w p j g).toNat = (2 * (w.toNat * (g - j) + p.toNat * j) + g) / (2 * g) := by
  have hw : w.toNat * (g - j) ≤ 1023 * (g - j) := Nat.mul_le_mul_right _ (by have := w.isLt; omega)
  have hp : p.toNat * j ≤ 1023 * j := Nat.mul_le_mul_right _ (by have := p.isLt; omega)
  have small : (2 * (w.toNat * (g - j) + p.toNat * j) + g) / (2 * g) < 2 ^ 10 :=
    Nat.div_lt_of_lt_mul (by omega)
  unfold glideValue
  rw [BitVec.toNat_ofNat, Nat.mod_eq_of_lt small]

/-! ## The value in force (R118, R152) -/

/-- R152: the latest move of the control at or before the offset gives its value. -/
theorem PlayPage.valueAt_of_move {y : PlayPage} {o : BitVec 6} {c : Fin 176} {l r : List Move} {m : Move}
    (moves : y.moves = l ++ m :: r) (hc : m.control = c) (ho : m.offset ≤ o)
    (later : ∀ x ∈ r, ¬ (x.control = c ∧ x.offset ≤ o)) : y.valueAt o c = some m.value := by
  have none_later : r.filter (fun m => m.control == c && m.offset ≤ o) = [] := by
    rw [List.filter_eq_nil_iff]
    simpa using later
  unfold PlayPage.valueAt
  rw [moves, List.filter_append, List.filter_cons_of_pos (by simp [hc, ho]), none_later, List.getLast?_concat]

/-- R152: without such a move the page's entry gives it, if there is one. -/
theorem PlayPage.valueAt_of_no_move {y : PlayPage} {o : BitVec 6} {c : Fin 176}
    (none_before : ∀ x ∈ y.moves, ¬ (x.control = c ∧ x.offset ≤ o)) :
    y.valueAt o c = (y.entries.find? fun x => x.1 == c).map (·.2) := by
  have empty : y.moves.filter (fun m => m.control == c && m.offset ≤ o) = [] := by
    rw [List.filter_eq_nil_iff]
    simpa using none_before
  unfold PlayPage.valueAt
  rw [empty, List.getLast?_nil]

/-- What a slot that holds the page READY gives. -/
theorem Play.exists_slot_of_ready? {w : Play} {n : Page} {y : PlayPage} (h : w.ready? n = some y) :
    ∃ i : Fin 4, w.slots[i] = .ready y ∧ y.number = n := by
  obtain ⟨x, hx, hy⟩ := List.exists_of_findSome?_eq_some h
  obtain ⟨i, hi, rfl⟩ := List.getElem_of_mem hx
  have small : i < 4 := by simpa using hi
  rw [Vector.getElem_toList] at hy
  split at hy
  · next p slot =>
    split at hy
    · next number =>
      cases hy
      exact ⟨⟨i, small⟩, slot, number⟩
    · cases hy
  · cases hy

/-- R140: a page held READY is found, since no other slot holds its number. -/
theorem Play.ready?_of_slot {w : Play} (wf : w.wf) {i : Fin 4} {y : PlayPage} (h : w.slots[i] = .ready y) :
    w.ready? y.number = some y := by
  obtain ⟨once, _, _⟩ := wf
  rcases hr : w.ready? y.number with _ | z
  · unfold Play.ready? at hr
    rw [List.findSome?_eq_none_iff] at hr
    have here := hr (w.slots[i]) (by rw [Vector.mem_toList_iff]; exact Vector.getElem_mem i.isLt)
    rw [h] at here
    simp at here
  · obtain ⟨j, hj, number⟩ := Play.exists_slot_of_ready? hr
    have same : i = j := once i j y.number (by rw [h]; rfl) (by rw [hj, ← number]; rfl)
    subst same
    rw [h] at hj
    cases hj
    rfl

end Sys2Proof.Machine

open Sys2Proof Sys2Proof.Machine

/-- Settles O22: POS's move, the tick of AUTO on one control, the rounding of a glide, and the value in force. -/
theorem tickResult : Obligations.TickResult := by
  refine ⟨fun s c m q live hc hs _ ho => ?_, fun s edge k live hm => ?_, fun w p j g hg hj => ?_, fun y o c => ?_,
    fun w k c wf => ⟨fun i y hi hn => ?_, fun absent => ?_⟩⟩
  · have out := State.posOut_quarter hc hs ho
    have run := State.tick_of_made live (congrArg PosOut.made out)
    obtain ⟨_, _, _, _, _, _, _, entered⟩ := State.posAlone_of_tick (congrArg PosOut.made out)
    have index : (BitVec.ofNat 26 (s.pos.frame.toNat * 4 + q.val)).toNat = s.pos.frame.toNat * 4 + q.val := by
      have := s.pos.frame.isLt
      have := q.isLt
      rw [BitVec.toNat_ofNat]
      omega
    obtain ⟨d, y, e⟩ := State.posAlone_eq none s
    refine ⟨_, run, by rw [e, out], by rw [entered, pageOf_eq, index], State.outside_posAlone none s, ?_, ?_, ?_, ?_⟩
    all_goals rw [e]
  · obtain ⟨d, e, control, play, lives, playback, quiet, _⟩ := State.posAlone_of_tick hm
    refine ⟨_, State.tick_of_made live hm, ?_, State.outside_posAlone edge s, fun c => ?_, fun c x hl hx hp => ?_,
      fun c g he hpend hwin hl pass glide more => ?_⟩
    · obtain ⟨_, _, e'⟩ := State.posAlone_eq edge s
      rw [e']
    · rw [control, Desk.playback_takeTick, lives, play, playback]
    · have settled := Desk.settled_takeTick (c := c) (by rw [lives]; exact hl) k d
      rw [← control c, hx] at settled
      exact Control.applied_of_settled settled hp
    · have same := quiet he
      have here : d.control c = s.desk.control c := by unfold Desk.control; rw [same]
      rw [control c]
      exact Desk.gliding_takeTick (by rw [lives]; exact hl) (by rw [same]; exact hpend) (by rw [same]; exact hwin)
        (by rw [here]; exact pass) (by rw [here]; exact glide) more
  · rw [toNat_glideValue w p hg hj]
    exact ⟨Nat.mul_div_le _ _, Nat.lt_mul_div_succ _ (by omega)⟩
  · refine ⟨fun l m r moves hm ho later => PlayPage.valueAt_of_move moves hm ho later, fun still => ⟨?_, fun absent => ?_⟩⟩
    · intro l v r entries first
      have before : l.find? (fun x => x.1 == c) = none := by simpa using first
      rw [PlayPage.valueAt_of_no_move still, entries, List.find?_append, before]
      simp
    · have nowhere : y.entries.find? (fun x => x.1 == c) = none := by simpa using absent
      rw [PlayPage.valueAt_of_no_move still, nowhere]
      rfl
  · have page : y.number = pageOf k := BitVec.eq_of_toNat_eq (hn.trans (toNat_pageOf k).symm)
    unfold Play.inForce
    rw [← page, Play.ready?_of_slot wf hi, offsetOf_eq]
  · unfold Play.inForce
    rcases hr : w.ready? (pageOf k) with _ | y
    · rfl
    · obtain ⟨i, hi, number⟩ := Play.exists_slot_of_ready? hr
      exact absurd (by rw [number, toNat_pageOf]) (absent i y hi)
end

section
/-!
The present set bit by bit (R26), and everything that the cells of an arrival and the emitter check can do to RING, said once
(R27, R35, R39, R57, R60): `State.RosterMoved`.
-/

set_option Elab.async false

namespace Sys2Proof.Machine

/-! ## Sets of stations -/

@[simp] theorem StationSet.has_add (s : StationSet) (x y : Nat) :
    StationSet.has (StationSet.add s x) y = (StationSet.has s y || decide (x < 24) && decide (x = y)) := by
  simp [StationSet.has, StationSet.add, BitVec.getLsbD_twoPow]

theorem StationSet.has_zero (x : Nat) : StationSet.has 0 x = false := BitVec.getLsbD_zero

/-- Only stations 0 to 23 stand in a set. -/
theorem StationSet.lt_of_has {s : StationSet} {x : Nat} (h : StationSet.has s x = true) : x < 24 :=
  BitVec.lt_of_getLsbD h

@[simp] theorem StationSet.has_stationsWhere (p : Nat → Bool) (x : Nat) :
    StationSet.has (stationsWhere p) x = (decide (x < 24) && p x) := by
  have run : ∀ (l : List Nat) (s : StationSet), (∀ y ∈ l, y < 24) →
      StationSet.has (l.foldl (fun s y => if p y then StationSet.add s y else s) s) x =
        (StationSet.has s x || decide (x ∈ l) && p x) := by
    intro l
    induction l with
    | nil => simp
    | cons y l ih =>
      intro s below
      have here : y < 24 := below y List.mem_cons_self
      rw [List.foldl_cons, ih _ fun z hz => below z (List.mem_cons_of_mem y hz)]
      by_cases e : x = y
      · subst e
        rcases p x <;> simp [here]
      · rcases p y <;> simp [e, Ne.symm e]
  rw [stationsWhere, run allStations 0 (by simp [allStations]), StationSet.has_zero, Bool.false_or]
  simp [allStations]

theorem StationSet.count_le (s : StationSet) : StationSet.count s ≤ 24 :=
  (List.length_filter_le _ _).trans_eq (List.length_range)

/-- R27: a settle interval lasts at most 50 sp. -/
theorem settleLength_le (s : StationSet) : settleLength s ≤ 50 := by
  have := StationSet.count_le s
  unfold settleLength
  omega

/-! ## What cells and the emitter check do to RING -/

/-- The ring has its present set, settle interval and state from notices and the emitter check, and nothing else: a new present
set starts a settle interval, the station itself stays in it, and the state becomes CONFLICT with PLAN_MISMATCH or stays. -/
structure State.RosterMoved (s t : State) : Prop where
  ring    : t.ring = { s.ring with state := t.ring.state, present := t.ring.present, settle := t.ring.settle }
  state   : t.ring.state = s.ring.state ∨ t.ring.state = .conflict ∧ t.flag .planMismatch = true ∧
    (s.ring.state = .inserted ∨ s.ring.state = .relocking)
  settle  : t.ring.present = s.ring.present ∧ t.ring.settle = s.ring.settle ∨
    t.ring.settle = settleLength t.ring.present
  stays   : StationSet.has s.ring.present s.self = true → StationSet.has t.ring.present s.self = true
  outside : SameOutsideSample s t
  flags   : s.FlagFrame t

namespace State.RosterMoved

/-- The ring is as it was. -/
theorem still {s t : State} (outside : SameOutsideSample s t) (flags : s.FlagFrame t) (ring : t.ring = s.ring := by rfl) :
    RosterMoved s t :=
  ⟨by rw [ring], .inl (by rw [ring]), .inl (by rw [ring]; exact ⟨rfl, rfl⟩), by rw [ring]; exact id, outside, flags⟩

theorem same (s : State) : RosterMoved s s := .still (.same s) (.same s)

theorem self_eq {s t : State} (h : RosterMoved s t) : t.self = s.self := by
  obtain ⟨_, _, strap, _⟩ := h.outside
  unfold State.self
  rw [strap]

theorem andThen {a b c : State} (h : RosterMoved a b) (k : RosterMoved b c) : RosterMoved a c where
  ring := by
    have hb := h.ring
    have hc := k.ring
    rw [hb] at hc
    exact hc
  state := by
    rcases k.state with e | ⟨conflict, flag, from_⟩
    · rcases h.state with e' | ⟨conflict, flag, from_⟩
      · exact .inl (e.trans e')
      · exact .inr ⟨e.trans conflict, k.flags.stay _ flag, from_⟩
    · rcases h.state with e' | ⟨conflict', _⟩
      · exact .inr ⟨conflict, flag, e' ▸ from_⟩
      · rw [conflict'] at from_
        rcases from_ with h | h <;> cases h
  settle := by
    rcases k.settle with ⟨present, settle⟩ | new
    · rw [present, settle]; exact h.settle
    · exact .inr new
  stays x := by
    rw [← h.self_eq]
    exact k.stays (h.self_eq ▸ h.stays x)
  outside := h.outside.andThen k.outside
  flags := h.flags.andThen k.flags

end State.RosterMoved

namespace State

/-- R27: the present set in force again is no change. -/
@[simp] theorem applyRoster_present (s : State) : s.applyRoster s.ring.present = s := if_pos rfl

/-- R27: another present set starts a settle interval, raises ROSTER_CHANGE and hands the removed stations over. -/
theorem applyRoster_of_ne {now : StationSet} {s : State} (h : now ≠ s.ring.present) :
    s.applyRoster now = (State.raise .rosterChange
      { s with ring := { s.ring with present := now, settle := settleLength now } }).onDesk
        fun e d => d.each (stationsLost s.ring.present now) (Desk.handRemoved e) := if_neg h

theorem roster_applyRoster (now : StationSet) (s : State)
    (h : StationSet.has s.ring.present s.self = true → StationSet.has now s.self = true) :
    RosterMoved s (s.applyRoster now) := by
  by_cases e : now = s.ring.present
  · rw [e, applyRoster_present]
    exact .same s
  · have ring : (s.applyRoster now).ring = { s.ring with present := now, settle := settleLength now } := by
      rw [applyRoster_of_ne e]
      rfl
    exact ⟨by rw [ring], .inl (by rw [ring]), .inr (by rw [ring]), by rw [ring]; exact h, outside_applyRoster now s,
      flags_applyRoster now s⟩

theorem ring_place (s : State) : s.place.1.ring = s.ring := by
  unfold State.place
  split <;> rfl

theorem ring_strip (n : Notice) (s : State) : (s.strip n).ring = s.ring := by
  unfold State.strip
  split
  · split
    · split <;> rfl
    · rfl
  · rfl

theorem roster_place (s : State) : RosterMoved s s.place.1 := .still s.outside_place s.flags_place s.ring_place

/-- R39: a differing digest takes an inserted station into CONFLICT. -/
theorem roster_mismatch (s : State) : RosterMoved s s.mismatch := by
  have outside := s.outside_mismatch
  have flags := s.flags_mismatch
  have flag : s.mismatch.flag .planMismatch = true := (Desk.flag_raise _ _ _).trans (by simp)
  rcases h : s.ring.state with _ | _ | _ | _ | _
  case inserted | relocking =>
    have e : s.mismatch.ring = { s.ring with state := .conflict } := by unfold State.mismatch; rw [h]; rfl
    exact ⟨by rw [e], .inr ⟨by rw [e], flag, by simp [h]⟩, .inl ⟨by rw [e], by rw [e]⟩, by rw [e]; exact id, outside, flags⟩
  all_goals exact .still outside flags (by unfold State.mismatch; rw [h]; rfl)

theorem roster_actHoldings (n : Notice) (s : State) : RosterMoved s (s.actHoldings n) := by
  unfold State.actHoldings
  dsimp only
  refine (roster_applyRoster (StationSet.add s.ring.present n.origin.toNat) s fun h => by simp [h]).andThen ?_
  generalize s.applyRoster (StationSet.add s.ring.present n.origin.toNat) = s1
  have heard : RosterMoved s1 (State.onDesk (fun e d => d.stationSolo e n.origin.toNat (payloadHoldingsSolo n.payload))
      { s1 with desk := { s1.desk with note :=
        { s1.desk.note with ages := s1.desk.note.ages.setIfInBounds n.origin.toNat (some 0) } } }) :=
    .still ((outside_desk _ s1).andThen (outside_onDesk _ _))
      ((State.FlagFrame.desk s1 .of_ev).andThen (.onDesk _ _ (Desk.flags_stationSolo _ _ _ _)))
  refine heard.andThen ?_
  split
  · exact roster_mismatch _
  · exact .same _

theorem ring_actAnswered (n : Notice) (s : State) : (s.actAnswered n).1.ring = s.ring := by
  unfold State.actAnswered
  split
  · split <;> rfl
  · rfl

theorem ring_actEcho (n : Notice) (s : State) : (s.actEcho n).ring = s.ring := by
  unfold State.actEcho
  split
  · split <;> rfl
  · rfl

theorem ring_actSolo (n : Notice) (s : State) : (s.actSolo n).ring = s.ring := by
  unfold State.actSolo
  split <;> rfl

/-- R60: a ROSTER leaves the station that hears it in its own present set. -/
theorem roster_actRoster (n : Notice) (s : State) : RosterMoved s (s.actRoster n) := by
  unfold State.actRoster
  dsimp only
  split
  · exact roster_applyRoster _ s fun h => by simp [rosterAfter, h, StationSet.lt_of_has h]
  · exact .same s

theorem roster_act (n : Notice) (s : State) : RosterMoved s (s.act n).1 := by
  have answered := RosterMoved.still (outside_actAnswered n s) (flags_actAnswered n s) (ring_actAnswered n s)
  unfold State.act
  split
  · split
    · exact answered
    · exact answered
    · exact answered
    · exact .still (outside_actEcho n s) (flags_actEcho n s) (ring_actEcho n s)
    · exact .still (outside_actSolo n s) (flags_actSolo n s) (ring_actSolo n s)
    · exact roster_actHoldings n s
    · exact roster_actRoster n s
  · exact .same s

/-- R44: the work on one cell. -/
theorem roster_workCell (c : BitVec 64) (s : State) : RosterMoved s (s.workCell c).1 := by
  unfold State.workCell
  split
  · exact roster_place s
  · dsimp only
    have count : RosterMoved s { s with free := s.free + 1 } := .still ⟨rfl, rfl, rfl, rfl, rfl, rfl, rfl, rfl⟩ (.same s)
    split
    · exact count.andThen (roster_place _)
    · exact count
  · split
    · exact .still (outside_strip _ s) (flags_strip _ s) (ring_strip _ s)
    · exact roster_act _ s

theorem roster_workCells (cells : Vector (BitVec 64) 4) (s : State) : RosterMoved s (s.workCells cells).1 :=
  (((roster_workCell _ s).andThen (roster_workCell _ _)).andThen (roster_workCell _ _)).andThen (roster_workCell _ _)

/-- R35: the emitter check leaves the station in its own present set. -/
theorem has_emitterAfter_self {self : Nat} (e : Nat) {present : StationSet} (h : StationSet.has present self = true) :
    StationSet.has (emitterAfter self e present) self = true := by
  unfold emitterAfter
  dsimp only
  split
  · simp [h]
  · split
    · simp [h, StationSet.lt_of_has h]
    · exact h

theorem roster_emitterCheck (e : Nat) (s : State) : RosterMoved s (s.emitterCheck e) := by
  unfold State.emitterCheck
  split
  · exact .same s
  · exact (roster_applyRoster _ s (has_emitterAfter_self e)).andThen
      (.still (outside_desk _ _) (State.FlagFrame.desk _ .of_ev))

/-- R33, R35, R44: a good frame counts, and the rest of its arrival moves the roster. -/
theorem roster_goodArrival (b : Bool) (f : WireFrame) (s : State) :
    RosterMoved { s with ring := s.ring.countGood } (s.goodArrival b f).state := by
  unfold State.goodArrival
  dsimp only
  split
  · exact (roster_emitterCheck _ _).andThen (roster_workCells _ _)
  · exact (roster_workCells _ _).andThen (roster_emitterCheck _ _)

/-! ## Placement alone -/

theorem place_eq (s : State) : ∃ d, s.place.1 = { s with desk := d } ∧ Desk.FlagFrame s.desk d := by
  have flags := s.flags_place
  unfold State.FlagFrame at flags
  unfold State.place at flags ⊢
  split
  · exact ⟨_, rfl, .of_ev⟩
  · next h =>
    rw [h] at flags
    exact ⟨_, rfl, flags⟩

/-- R44: at a bad frame and at a silent sample the cells change the desk alone. -/
theorem placeCells_eq (s : State) : ∃ d, s.placeCells.1 = { s with desk := d } ∧ Desk.FlagFrame s.desk d := by
  have cell : ∀ u : State, u.workCell 0 = u.place := fun u => by unfold State.workCell; rw [readCell_zero]
  have cells : s.placeCells.1 = s.place.1.place.1.place.1.place.1 := by
    rw [← cell, ← cell, ← cell, ← cell]
    rfl
  obtain ⟨d1, e1, k1⟩ := s.place_eq
  obtain ⟨d2, e2, k2⟩ := s.place.1.place_eq
  obtain ⟨d3, e3, k3⟩ := s.place.1.place.1.place_eq
  obtain ⟨d4, e4, k4⟩ := s.place.1.place.1.place.1.place_eq
  refine ⟨d4, by rw [cells, e4, e3, e2, e1], ?_⟩
  rw [e1] at k2
  rw [e2] at k3
  rw [e3] at k4
  exact ((k1.andThen k2).andThen k3).andThen k4

end State

end Sys2Proof.Machine
end

section
/-!
Every step keeps the invariant of RING (R18, R26, R27, R34): off the ring the present set is empty, on it the station stands in
its own present set, and only the end of LOCKING, LEAVE and a reset lead from one side to the other.
-/

set_option Elab.async false

namespace Sys2Proof.Machine

/-! ## The two sides of the invariant -/

/-- What the invariant asks of a station whose relay is inserted (R26, R27). -/
structure Ring.On (me : Nat) (r : Ring) : Prop where
  state   : r.state.onRing = true
  present : StationSet.has r.present me = true
  settle  : r.settle ≤ 50

/-- What the invariant asks of a station off the ring (R26, R27, R34). -/
structure Ring.Off (r : Ring) : Prop where
  state     : r.state.onRing = false
  present   : r.present = 0
  settle    : r.settle ≤ 50
  breakHead : r.breakHead = false

theorem State.ringInv_iff (s : State) : s.ringInv ↔
    (24 ≤ s.self → s.conf = none) ∧ (s.conf = none → s.ring.state = .detached) ∧ (s.ring.On s.self ∨ s.ring.Off) := by
  unfold State.ringInv
  constructor
  · rintro ⟨strap, detached, inside, outside, settle, head⟩
    refine ⟨strap, detached, ?_⟩
    rcases h : s.ring.state.onRing with _ | _
    · exact .inr ⟨h, outside h, settle, by simpa [h] using head⟩
    · exact .inl ⟨h, inside h, settle⟩
  · rintro ⟨strap, detached, on | off⟩
    · exact ⟨strap, detached, fun _ => on.present, fun h => by simp [on.state] at h, on.settle, fun _ => on.state⟩
    · exact ⟨strap, detached, fun h => by simp [off.state] at h, fun _ => off.present, off.settle,
        fun h => by simp [off.breakHead] at h⟩

/-- R34: a frame ends the silence. -/
theorem State.ring_endSilence (s : State) : s.endSilence.ring = { s.ring with silent := 0, breakHead := false } := by
  unfold State.endSilence
  dsimp only
  split <;> rfl

/-- The station stays on its side of the relay with its present set; the settle interval runs on or starts afresh. -/
structure Ring.KeepsPlace (r r' : Ring) : Prop where
  state     : r'.state.onRing = r.state.onRing
  present   : r'.present = r.present
  settle    : r'.settle = r.settle ∨ r'.settle = settleLength r.present
  breakHead : r'.breakHead = true → r.breakHead = true ∨ r.state.onRing = true

namespace Ring.KeepsPlace

variable {a b c r : Ring}

/-- A change of the counts, the numbering and the JOIN. -/
theorem counts (state : b.state = a.state := by rfl) (present : b.present = a.present := by rfl)
    (settle : b.settle = a.settle := by rfl) (head : b.breakHead = a.breakHead := by rfl) : KeepsPlace a b :=
  ⟨by rw [state], present, .inl settle, fun h => .inl (head ▸ h)⟩

theorem andThen (h : KeepsPlace a b) (k : KeepsPlace b c) : KeepsPlace a c where
  state := k.state.trans h.state
  present := k.present.trans h.present
  settle := by
    rcases k.settle with e | e
    · rw [e]; exact h.settle
    · exact .inr (by rw [e, h.present])
  breakHead x := by
    rcases k.breakHead x with y | y
    · exact h.breakHead y
    · exact .inr (h.state ▸ y)

theorem settle_le (h : KeepsPlace a b) (k : a.settle ≤ 50) : b.settle ≤ 50 := by
  rcases h.settle with e | e
  · rw [e]; exact k
  · rw [e]; exact settleLength_le _

theorem on {self : Nat} (h : KeepsPlace a b) (k : a.On self) : b.On self :=
  ⟨h.state.trans k.state, by rw [h.present]; exact k.present, h.settle_le k.settle⟩

theorem off (h : KeepsPlace a b) (k : a.Off) : b.Off := by
  refine ⟨h.state.trans k.state, h.present.trans k.present, h.settle_le k.settle, ?_⟩
  by_contra head
  rcases h.breakHead (by simpa using head) with x | x
  · simp [k.breakHead] at x
  · simp [k.state] at x

/-- R23: the adoption of another numbering starts a settle interval in INSERTED, and moves nobody. -/
theorem adoption (self : Nat) (f : WireFrame) : KeepsPlace r (r.adoption self f) := by
  unfold Ring.adoption
  split
  · unfold Ring.adoptInserted
    split
    · exact ⟨rfl, rfl, .inr rfl, .inl⟩
    · exact .counts
  · unfold Ring.adoptRelocking
    split <;> exact .counts
  · exact .counts

theorem adoptLocking (f : WireFrame) : KeepsPlace r (r.adoptLocking f) := by
  unfold Ring.adoptLocking
  split <;> exact .counts

/-- R33: the 64th good frame brings a RELOCKING station back, on the ring before and after. -/
theorem countGood : KeepsPlace r r.countGood := by
  unfold Ring.countGood
  split
  · next h =>
    split
    · exact ⟨by rw [h]; rfl, rfl, .inr rfl, .inl⟩
    · exact .counts
  · exact .counts

theorem endSilence (s : State) : KeepsPlace s.ring s.endSilence.ring := by
  rw [State.ring_endSilence]
  exact ⟨rfl, rfl, .inl rfl, nofun⟩

/-- R33: the sixteenth bad frame takes an INSERTED station to RELOCKING, on the ring before and after. -/
theorem countBad (s : State) : KeepsPlace s.ring s.countBad.ring := by
  unfold State.countBad
  dsimp only
  split
  · next h => exact ⟨by rw [show s.ring.state = .inserted from h.1]; rfl, rfl, .inl rfl, .inl⟩
  · exact .counts

/-- R34: only an inserted station becomes break head. -/
theorem countSilent {s : State} (h : s.ring.state.onRing = true) : KeepsPlace s.ring s.countSilent.ring := by
  unfold State.countSilent
  dsimp only
  split
  · exact ⟨rfl, rfl, .inl rfl, fun _ => .inr h⟩
  · exact .counts

/-- R36, R37: a JOIN that fails leaves the station off the ring. -/
theorem tapGood (f : WireFrame) {s : State} (h : s.ring.state.onRing = false) : KeepsPlace s.ring (s.tapGood f).ring := by
  unfold State.tapGood
  dsimp only
  split
  · exact ⟨h.symm, rfl, .inl rfl, .inl⟩
  · split
    · unfold State.listen
      dsimp only
      split
      · exact ⟨h.symm, rfl, .inl rfl, .inl⟩
      · exact .counts
    · exact .counts

theorem tapOther (s : State) : KeepsPlace s.ring s.tapOther.ring := by
  unfold State.tapOther
  split <;> exact .counts

theorem tap (f : WireFrame) {s : State} (h : s.ring.state.onRing = false) : KeepsPlace s.ring (s.tap f).ring := by
  have heard : KeepsPlace s.ring ((s.ring.countRun f).adoptLocking f) := .andThen .counts (.adoptLocking f)
  unfold State.tap
  dsimp only
  split
  · exact heard.andThen (.andThen .counts (.tapGood f (heard.state.trans h)))
  · exact heard.andThen (.andThen .counts (.tapOther _))

end Ring.KeepsPlace

/-! ## RING's part of a sample event -/

/-- The cells and the emitter check leave an inserted station inserted and in its present set. -/
theorem State.RosterMoved.on {s t : State} (h : RosterMoved s t) (k : s.ring.On s.self) : t.ring.On s.self := by
  refine ⟨?_, h.stays k.present, ?_⟩
  · rcases h.state with e | ⟨e, _⟩
    · rw [e]; exact k.state
    · rw [e]; rfl
  · rcases h.settle with ⟨_, e⟩ | e
    · rw [e]; exact k.settle
    · rw [e]; exact settleLength_le _

namespace State

theorem self_of_outside {s t : State} (h : SameOutsideSample s t) : t.self = s.self := by
  obtain ⟨_, _, strap, _⟩ := h
  unfold State.self
  rw [strap]

/-- R20 to R33: an arrival. -/
theorem on_arrive (b : Bool) (f : WireFrame) {s : State} (h : s.ring.On s.self) : (s.arrive b f).state.ring.On s.self := by
  have self := self_of_outside s.outside_endSilence
  unfold State.arrive
  dsimp only
  generalize he : s.endSilence = u at self ⊢
  have ended : u.ring.On s.self := he ▸ (Ring.KeepsPlace.endSilence s).on h
  have heard : ((u.ring.countRun f).adoption u.self f).On s.self :=
    (Ring.KeepsPlace.andThen .counts (.adoption u.self f)).on ended
  split
  · have moved := roster_goodArrival b f { u with ring := (u.ring.countRun f).adoption u.self f }
    have good := Ring.KeepsPlace.countGood.on heard
    rw [← self] at good ⊢
    exact moved.on good
  · obtain ⟨d, e, _⟩ := placeCells_eq (countBad { u with ring := (u.ring.countRun f).adoption u.self f })
    unfold State.badArrival
    dsimp only
    rw [e]
    exact (Ring.KeepsPlace.countBad { u with ring := (u.ring.countRun f).adoption u.self f }).on heard

/-- R34: a silent sample. -/
theorem on_silence {s : State} (h : s.ring.On s.self) : s.silence.state.ring.On s.self := by
  obtain ⟨d, e, _⟩ := placeCells_eq s.countSilent
  unfold State.silence
  dsimp only
  rw [e]
  exact (Ring.KeepsPlace.countSilent h.state).on h

/-- R37, R38: the relay inserts with a present set. -/
theorem ring_insert (p : StationSet) (r : JoinResult) (s : State) : (s.insert p r).ring =
    { s.ring with state := .inserted, present := p,
                  settle := if p = s.ring.present then s.ring.settle else settleLength p } := by
  obtain ⟨u, hu⟩ : ∃ u : State, u = { s with ring := { s.ring with state := .inserted } } := ⟨_, rfl⟩
  have e : (s.insert p r).ring = (u.applyRoster p).ring := by rw [hu]; rfl
  rw [e]
  by_cases same : p = s.ring.present
  · have idle : u.applyRoster p = u := by
      rw [same, show s.ring.present = u.ring.present by rw [hu]]
      exact u.applyRoster_present
    rw [if_pos same, idle, hu, same]
  · rw [if_neg same, applyRoster_of_ne (by rw [hu]; exact same), hu]
    rfl

theorem on_insert {self : Nat} {p : StationSet} (r : JoinResult) {s : State} (hp : StationSet.has p self = true)
    (h : s.ring.settle ≤ 50) : (s.insert p r).ring.On self := by
  rw [ring_insert]
  refine ⟨rfl, hp, ?_⟩
  dsimp only
  split
  · exact h
  · exact settleLength_le _

/-- R37: the set a JOIN forms holds the station itself. -/
theorem has_presentAfter_self {self : Nat} (h : self < 24) (j : Join) : StationSet.has (j.presentAfter self) self = true := by
  unfold Join.presentAfter
  dsimp only
  split <;> simp [h]

theorem place_listenStep (was : Bool) {s : State} (hs : s.self < 24) (h : s.ring.Off) :
    (s.listenStep was).ring.On s.self ∨ (s.listenStep was).ring.Off := by
  unfold State.listenStep
  split
  · dsimp only
    split
    · exact .inl (on_insert _ (has_presentAfter_self hs _) h.settle)
    · exact .inr (Ring.KeepsPlace.off .counts h)
  · exact .inr h

theorem place_firstInStep {self : Nat} {s : State} (e : s.self = self) (hs : self < 24) (h : s.ring.On self ∨ s.ring.Off) :
    s.firstInStep.ring.On self ∨ s.firstInStep.ring.Off := by
  unfold State.firstInStep
  split
  · have settle : s.ring.settle ≤ 50 := by
      rcases h with h | h
      · exact h.settle
      · exact h.settle
    exact .inl (on_insert _ (by simp [e, hs]) settle)
  · exact h

/-- R36 to R38: a sample event of LOCKING leaves the station off the ring, or inserts it. -/
theorem place_lockingStep (rx : Option WireFrame) {s : State} (hs : s.self < 24) (h : s.ring.Off) :
    (s.lockingStep rx).ring.On s.self ∨ (s.lockingStep rx).ring.Off := by
  obtain ⟨u, hu⟩ : ∃ u : State,
    u = { s with ring := { s.ring with join := { s.ring.join with time := s.ring.join.time + 1 } } } := ⟨_, rfl⟩
  have place : s.ring.KeepsPlace u.ring := by rw [hu]; exact .counts
  obtain ⟨v, hv, off, outside⟩ : ∃ v, s.lockingStep rx = (v.listenStep s.ring.join.listening).firstInStep ∧ v.ring.Off ∧
      SameOutsideSample u v := by
    rcases rx with _ | f
    · exact ⟨tapOther { u with ring := { u.ring with run := 0 } }, by rw [hu]; rfl,
        (place.andThen (.andThen .counts (.tapOther _))).off h, (outside_ring _ u).andThen (outside_tapOther _)⟩
    · exact ⟨u.tap f, by rw [hu]; rfl, (place.andThen (.tap f (place.state.trans h.state))).off h, outside_tap f u⟩
  have self : v.self = s.self := (self_of_outside outside).trans (by rw [hu]; rfl)
  have listen : SameOutsideSample v (v.listenStep s.ring.join.listening) := by
    unfold State.listenStep
    split
    · dsimp only
      split
      · exact (outside_ring _ v).andThen (outside_insert _ _ _)
      · exact outside_ring _ v
    · exact .same v
  rw [hv]
  exact place_firstInStep ((self_of_outside listen).trans self) hs (self ▸ place_listenStep _ (self ▸ hs) off)

/-- R20: a station that is DETACHED counts on, and its run is 0. -/
theorem ringPhase_of_detached (b : Bool) (rx : Option WireFrame) {s : State} (h : s.ring.state = .detached) :
    s.ringPhase b rx = { state := { s with ring := { s.ring.advanceTag with run := 0 } }, cells := Vector.replicate 4 0,
                         arriving := none } := by
  unfold State.ringPhase
  rw [h]

theorem ringPhase_of_locking (b : Bool) (rx : Option WireFrame) {s : State} (h : s.ring.state = .locking) :
    s.ringPhase b rx = { state := State.lockingStep rx { s with ring := s.ring.advanceTag },
                         cells := Vector.replicate 4 0, arriving := none } := by
  unfold State.ringPhase
  rw [h]

/-- R20, R21: a frame reaches an inserted station. -/
theorem ringPhase_of_arrival (b : Bool) (f : WireFrame) {s : State} (h : s.ring.state.onRing = true) :
    s.ringPhase b (some f) = State.arrive b f { s with ring := s.ring.advanceTag } := by
  unfold State.ringPhase
  rcases e : s.ring.state with _ | _ | _ | _ | _
  case detached | locking => simp [e, RingState.onRing] at h
  all_goals rfl

/-- R34: no frame reaches an inserted station. -/
theorem ringPhase_of_silence (b : Bool) {s : State} (h : s.ring.state.onRing = true) :
    s.ringPhase b none = State.silence { s with ring := s.ring.advanceTag } := by
  unfold State.ringPhase
  rcases e : s.ring.state with _ | _ | _ | _ | _
  case detached | locking => simp [e, RingState.onRing] at h
  all_goals rfl

/-- RING's part of a sample event keeps the invariant. -/
theorem ringInv_ringPhase (b : Bool) (rx : Option WireFrame) {s : State} (h : s.ringInv) :
    (s.ringPhase b rx).state.ringInv := by
  obtain ⟨strap, detached, place⟩ := s.ringInv_iff.mp h
  have same := outside_ringPhase b rx s
  have self := self_of_outside same
  obtain ⟨_, _, _, _, conf, _⟩ := same
  rw [State.ringInv_iff, self, conf]
  refine ⟨strap, fun none => ?_, ?_⟩
  · rw [ringPhase_of_detached b rx (detached none)]
    exact detached none
  · rcases place with on | off
    · left
      have on' : s.ring.advanceTag.On s.self := Ring.KeepsPlace.on .counts on
      rcases rx with _ | f
      · rw [ringPhase_of_silence b on.state]
        exact on_silence (s := { s with ring := s.ring.advanceTag }) on'
      · rw [ringPhase_of_arrival b f on.state]
        exact on_arrive b f (s := { s with ring := s.ring.advanceTag }) on'
    · have off' : s.ring.advanceTag.Off := Ring.KeepsPlace.off .counts off
      rcases hs : s.ring.state with _ | _ | _ | _ | _
      case inserted | relocking | conflict =>
        have := off.state
        rw [hs] at this
        cases this
      case detached =>
        rw [ringPhase_of_detached b rx hs]
        exact .inr (Ring.KeepsPlace.off .counts off')
      case locking =>
        rw [ringPhase_of_locking b rx hs]
        refine place_lockingStep rx (s := { s with ring := s.ring.advanceTag }) ?_ off'
        by_contra high
        have := detached (strap (not_lt.mp high))
        rw [hs] at this
        cases this

end State

end Sys2Proof.Machine
end

section
/-!
A sample event taken apart around RING: the counts move the settle interval alone (R27), POS and TOUCH leave the ring as it is
before and after RING's phase in whichever order (log 2), and audio and emission come last (R20).
-/

set_option Elab.async false

namespace Sys2Proof.Machine

/-- The ring and the sample event count are as they were, nothing outside the sample event moves, and flags set stay set. -/
structure State.BesideRing (s t : State) : Prop where
  ring    : t.ring = s.ring
  instant : t.instant = s.instant
  outside : SameOutsideSample s t
  stay    : ∀ g, s.flag g = true → t.flag g = true

namespace State.BesideRing

theorem andThen {a b c : State} (h : BesideRing a b) (k : BesideRing b c) : BesideRing a c :=
  ⟨k.ring.trans h.ring, k.instant.trans h.instant, h.outside.andThen k.outside, fun g x => k.stay g (h.stay g x)⟩

theorem same (s : State) : BesideRing s s := ⟨rfl, rfl, .same s, fun _ => id⟩

/-- Every transport event, and the tick behind them, is handed on with its flag raised and no flag cleared. -/
theorem posPhase (edge : Option FrameNo) (s : State) : BesideRing s (s.posPhase edge) := by
  have event : ∀ (v : PosEvent) (u : State) (g : Flag), u.flag g = true → (u.takePosEvent v).flag g = true := by
    intro v u g h
    have raised : (u.desk.raise v.flag).flag g = true := by
      have h : u.desk.flag g = true := h
      simp [h]
    have taken := (Desk.frame_takeEvent u.env v (u.desk.raise v.flag)).flags.stay g raised
    rw [← State.desk_takePosEvent] at taken
    exact taken
  have events : ∀ (l : List PosEvent) (u : State) (g : Flag), u.flag g = true →
      (l.foldl (fun s v => s.takePosEvent v) u).flag g = true := by
    intro l
    induction l with
    | nil => exact fun _ _ => id
    | cons v l ih => exact fun u g h => ih _ g (event v u g h)
  obtain ⟨d, y, e⟩ := State.posPhase_eq edge s
  refine ⟨by rw [e], by rw [e], s.outside_posPhase edge, fun g h => ?_⟩
  · have handed := events (s.posOut edge).events { s with pos := (s.posOut edge).pos } g h
    rcases hm : (s.posOut edge).made with _ | k
    · rw [State.posPhase_of_no_tick hm]
      exact handed
    · rw [State.posPhase_of_tick hm]
      exact (State.flags_takeTick k _).stay g handed

theorem touchPhase (levels : BitVec 32) (s : State) : BesideRing s (s.onDesk fun e d => d.touchPhase e levels) :=
  ⟨State.onDesk_ring _ s, State.onDesk_instant _ s, State.outside_onDesk _ s, (s.flags_touchPhase levels).stay⟩

end State.BesideRing

/-- The audio and the emitted frame leave the ring and the flags alone. -/
theorem State.BesideRing.output (x : Vector Sample 32) (r : Ring) (c : Vector (BitVec 64) 4) (l : Option (Vector Lane 128))
    (s : State) : BesideRing s ((s.audio x l).emit r c l) := by
  obtain ⟨d, stem, f, e, _⟩ := State.output_eq x r c l s
  exact ⟨by rw [e], by rw [e], (s.outside_audio x l).andThen (State.outside_emit r c l _),
    ((s.flags_audio x l).andThen (State.flags_emit r c l _)).stay⟩

/-- R54, R55, R58, R104, R108: the counts of NOTE and HOME change the desk alone. -/
theorem State.countStep_desk (s : State) : ∃ d, s.countStep = { s with desk := d } := by
  have on : ∀ (f : Env → Desk → Desk) (u : State), (∃ d, u = { s with desk := d }) →
      ∃ d, u.onDesk f = { s with desk := d } := by
    rintro f u ⟨d, rfl⟩
    exact ⟨_, rfl⟩
  obtain ⟨d, e, _⟩ := State.expireFlights_eq s
  unfold State.countStep
  dsimp only
  refine on _ _ (on _ _ ?_)
  split
  · exact on _ _ (on _ _ ⟨d, e⟩)
  · exact on _ _ ⟨d, e⟩

/-- R27, R53: the counts of a sample event bring the settle counter down by one and the sample event count up. -/
theorem State.timers_counts (s : State) :
    s.timers.ring = { s.ring with settle := s.ring.settle - 1 } ∧ s.timers.instant = s.instant + 1 := by
  obtain ⟨d, e⟩ := State.countStep_desk ((s.advanceInstant.riseStep (0 < s.ring.settle)).settleStep)
  unfold State.timers
  rw [e]
  exact ⟨rfl, rfl⟩

/-- A sample event is RING's phase on a state `u` of the ring that the counts left, and audio and emission on a state `v` of
the ring that RING's phase left (log 2). -/
theorem State.sample_around_ring (p : Period) (s : State) :
    ∃ u v out, s.timers.BesideRing u ∧ out = u.ringPhase p.checkFirst p.rx ∧ out.state.BesideRing v ∧
      s.sample p = (v.audio p.samples out.arriving).emit s.ring out.cells out.arriving := by
  have pos : ∀ t : Taken, t.state.BesideRing (t.pos p).state := fun t => .posPhase _ t.state
  have touch : ∀ t : Taken, t.state.BesideRing (t.touch p).state := fun t => .touchPhase p.levels t.state
  obtain ⟨t, ht⟩ : ∃ t : Taken, t = { state := s.timers, cells := Vector.replicate 4 0, arriving := none } := ⟨_, rfl⟩
  have start : t.state = s.timers := by rw [ht]
  suffices around : ∃ u v out, t.state.BesideRing u ∧ out = u.ringPhase p.checkFirst p.rx ∧ out.state.BesideRing v ∧
      t.phases p = { state := v, cells := out.cells, arriving := out.arriving } by
    obtain ⟨u, v, out, before, phase, behind, e⟩ := around
    refine ⟨u, v, out, start ▸ before, phase, behind, ?_⟩
    have whole : s.sample p = ((t.phases p).state.audio p.samples (t.phases p).arriving).emit s.ring (t.phases p).cells
        (t.phases p).arriving := by rw [ht]; rfl
    rw [whole, e]
  unfold Taken.phases
  split
  · exact ⟨(t.pos p).state, _, _, pos t, rfl, touch ((t.pos p).ring p), rfl⟩
  · exact ⟨((t.pos p).touch p).state, _, _, (pos t).andThen (touch (t.pos p)), rfl, .same _, rfl⟩
  · exact ⟨t.state, _, _, .same _, rfl, (pos (t.ring p)).andThen (touch ((t.ring p).pos p)), rfl⟩
  · exact ⟨t.state, _, _, .same _, rfl, (touch (t.ring p)).andThen (pos ((t.ring p).touch p)), rfl⟩
  · exact ⟨((t.touch p).pos p).state, _, _, (touch t).andThen (pos (t.touch p)), rfl, .same _, rfl⟩
  · exact ⟨(t.touch p).state, _, _, touch t, rfl, pos ((t.touch p).ring p), rfl⟩

end Sys2Proof.Machine
end

section
/-!
Every row keeps the invariant of RING: sample events through RING's phase, JOIN, LEAVE, CONFIGURE and the resets by what they
write, every other row because it leaves the ring, the straps and the configuration alone.
-/

set_option Elab.async false

namespace Sys2Proof.Machine

/-- The ring, the station number and the configuration are as they were. -/
structure State.RingKept (s t : State) : Prop where
  ring  : t.ring = s.ring
  strap : t.strap = s.strap
  conf  : t.conf = s.conf

namespace State.RingKept

/-- A change of the other blocks. -/
theorem elsewhere {s t : State} (ring : t.ring = s.ring := by rfl) (strap : t.strap = s.strap := by rfl)
    (conf : t.conf = s.conf := by rfl) : RingKept s t := ⟨ring, strap, conf⟩

theorem andThen {a b c : State} (h : RingKept a b) (k : RingKept b c) : RingKept a c :=
  ⟨k.ring.trans h.ring, k.strap.trans h.strap, k.conf.trans h.conf⟩

theorem ringInv {s t : State} (h : RingKept s t) (k : s.ringInv) : t.ringInv := by
  have self : t.self = s.self := congrArg BitVec.toNat h.strap
  unfold State.ringInv at k ⊢
  rw [h.ring, self, h.conf]
  exact k

theorem of_beside {s t : State} (h : s.BesideRing t) : RingKept s t := by
  obtain ⟨_, _, strap, _, conf, _⟩ := h.outside
  exact ⟨h.ring, strap, conf⟩

end State.RingKept

namespace State

/-! ## Sample events -/

/-- R27: a settle interval that runs down keeps the invariant. -/
theorem ringInv_settle {s t : State} (ring : t.ring = { s.ring with settle := s.ring.settle - 1 })
    (strap : t.strap = s.strap) (conf : t.conf = s.conf) (h : s.ringInv) : t.ringInv := by
  have self : t.self = s.self := congrArg BitVec.toNat strap
  unfold State.ringInv at h ⊢
  rw [ring, self, conf]
  obtain ⟨high, detached, inside, outside, settle, head⟩ := h
  exact ⟨high, detached, inside, outside, (Nat.sub_le _ _).trans settle, head⟩

theorem ringInv_sampled (p : Period) {s : State} (h : s.ringInv) : (s.sampled p).ringInv := by
  unfold State.sampled
  split
  · obtain ⟨u, v, out, before, phase, behind, e⟩ := s.sample_around_ring p
    obtain ⟨_, _, strap, _, conf, _⟩ := s.outside_timers
    have counted : s.timers.ringInv := ringInv_settle s.timers_counts.1 strap conf h
    have taken : out.state.ringInv := phase ▸ ringInv_ringPhase _ _ ((RingKept.of_beside before).ringInv counted)
    rw [e]
    exact (RingKept.of_beside (behind.andThen (.output _ _ _ _ v))).ringInv taken
  · exact h

theorem ringInv_part {comes : Bool} {act : State → State} {s : State} (h : s.ringInv) (k : (act s).ringInv) :
    (s.part comes act).ringInv := by
  unfold State.part
  split
  · exact k
  · exact h

theorem ringKept_posAlone (edge : Option FrameNo) (s : State) : s.RingKept (s.posAlone edge) := by
  obtain ⟨d, y, e⟩ := State.posAlone_eq edge s
  rw [e]
  exact .elsewhere

theorem ringInv_ringAlone (b : Bool) (rx : Option WireFrame) {s : State} (h : s.ringInv) : (s.ringAlone b rx).ringInv :=
  ringInv_ringPhase b rx (RingKept.ringInv (t := s.advanceInstant) .elsewhere h)

theorem ringKept_expireFlight (x : Slot) (s : State) : s.RingKept (s.advanceInstant.expireFlight x) := by
  obtain ⟨d, e, _⟩ := State.expireFlight_eq x s.advanceInstant
  rw [e]
  exact .elsewhere

/-! ## LINK and RESET -/

theorem ringInv_cold (strap : BitVec 5) (rate96 : Bool) : (State.cold strap rate96).ringInv :=
  ⟨fun _ => rfl, fun _ => rfl, nofun, fun _ => rfl, Nat.zero_le _, nofun⟩

theorem ringKept_transfer (n : Nat) (s : State) : s.RingKept (s.transfer n) := by
  unfold State.transfer
  split <;> exact .elsewhere

theorem ringKept_overrun (n : Nat) (s : State) : s.RingKept (s.overrun n) :=
  .andThen .elsewhere (ringKept_transfer n _)

theorem ringKept_emptyTransfer (n : Nat) (s : State) : s.RingKept (s.emptyTransfer n) := by
  unfold State.emptyTransfer
  split
  · exact .elsewhere
  · exact ringKept_transfer n s

theorem ringKept_formReply (s : State) : s.RingKept s.formReply := by
  unfold State.formReply
  split
  · exact .elsewhere
  · split <;> exact .elsewhere

/-- R170, R171, R180: a transfer that carries a message does what its command does, or leaves the ring alone. -/
theorem ringInv_message {n : Nat} {body : State → Answered} {s : State} (h : s.ringInv) (k : (body s).state.ringInv) :
    (s.message n body).ringInv := by
  unfold State.message
  split
  · exact RingKept.ringInv .elsewhere h
  · split
    · exact RingKept.ringInv .elsewhere k
    · exact (ringKept_overrun n s).ringInv h

theorem ringInv_command {n tail : Nat} {body : State → Answered} {s : State} (h : s.ringInv)
    (k : (body s).state.ringInv) : (s.command n tail body).ringInv := ringInv_message h k

/-- A command not taken while UNCONFIGURED. -/
theorem ringInv_configured {n tail : Nat} {k : Byte} {body : Conf → State → Answered} {s : State} (h : s.ringInv)
    (kept : ∀ c, s.conf = some c → (body c s).state.ringInv) : (s.command n tail (State.configured k body)).ringInv := by
  refine ringInv_command h ?_
  unfold State.configured
  split
  · next hc => exact kept _ hc
  · exact h

theorem ringInv_reject (ldi : List Bool) {s : State} (h : s.ringInv) : (s.reject ldi).ringInv := by
  unfold State.reject
  split
  · exact RingKept.ringInv .elsewhere h
  · split
    · exact ringInv_message h (RingKept.ringInv .elsewhere h)
    · exact h

theorem ringKept_discard (ldi : List Bool) (s : State) : s.RingKept (s.discard ldi) := by
  unfold State.discard
  split
  · exact .elsewhere
  · split
    · exact ringKept_overrun _ s
    · exact .elsewhere

/-! ## RING's own commands -/

/-- R18, R24: a station with an invalid strap is refused. -/
theorem ringInv_configure (payload : List Byte) {s : State} (h : s.ringInv) : (s.configure payload).state.ringInv := by
  unfold State.configure
  split
  · exact h
  · split
    · exact h
    · next high =>
      split
      · exact h
      · obtain ⟨_, _, place⟩ := h
        exact ⟨fun x => absurd x high, nofun, place⟩

/-- R36: JOIN takes a configured station from DETACHED to LOCKING, off the ring before and after. -/
theorem ringInv_join {c : Conf} {s : State} (hc : s.conf = some c) (h : s.ringInv) : s.join.state.ringInv := by
  unfold State.join
  split
  · next hs =>
    obtain ⟨strap, _, _, outside, settle, head⟩ := h
    refine ⟨strap, fun unconf => ?_, nofun, fun _ => outside (by rw [hs]; rfl), settle, fun x => ?_⟩
    · have absent : s.conf = none := unconf
      rw [hc] at absent
      cases absent
    · have := head x
      rw [hs] at this
      cases this
  · exact h
  · exact h
  · exact h
  · exact h

/-- R40: LEAVE empties the present set. -/
theorem ringInv_leave {s : State} (h : s.ringInv) : s.leave.ringInv := by
  obtain ⟨strap, _⟩ := h
  exact ⟨strap, fun _ => rfl, nofun, fun _ => rfl, Nat.zero_le _, nofun⟩

/-- R41: RESTART ends LOCKING and leaves the relay as it is. -/
theorem ringInv_restart {s : State} (h : s.ringInv) : s.restart.ringInv := by
  obtain ⟨strap, detached, place⟩ := s.ringInv_iff.mp h
  have keeps : s.ring.KeepsPlace s.ring.restart := by
    unfold Ring.restart
    by_cases e : s.ring.state = .locking
    · exact ⟨by simp [e, RingState.onRing], rfl, .inl rfl, .inl⟩
    · rw [if_neg e]
      exact .counts
  refine (State.ringInv_iff _).mpr ⟨strap, fun none => ?_, place.imp keeps.on keeps.off⟩
  have := detached none
  show s.ring.restart.state = _
  simp [Ring.restart, this]

/-! ## The commands of the other blocks -/

theorem ringKept_route (strip form bus offset bus1 offset1 bus2 offset2 : Byte) (s : State) :
    s.RingKept (s.route strip form bus offset bus1 offset1 bus2 offset2).state := by
  unfold State.route
  split <;> exact .elsewhere

theorem ringKept_solo (strip flags : Byte) (s : State) : s.RingKept (s.solo strip flags).state := by
  unfold State.solo
  split <;> exact .elsewhere

theorem ringKept_touchset (line flags interval : Byte) (s : State) :
    s.RingKept (s.touchset line flags interval).state := by
  unfold State.touchset
  split <;> exact .elsewhere

theorem ringKept_mapFader (fader form target : Byte) (s : State) :
    s.RingKept (s.mapFader fader form target).state := by
  unfold State.mapFader
  split
  · split <;> exact .elsewhere
  · exact .elsewhere

theorem ringKept_surface (form target : Byte) (value : BitVec 16) (indication : Byte) (s : State) :
    s.RingKept (s.surface form target value indication).state := by
  unfold State.surface
  split
  · split <;> exact .elsewhere
  · exact .elsewhere

theorem ringKept_controlCommand (id mode safe glide : Byte) (s : State) :
    s.RingKept (s.controlCommand id mode safe glide).state := by
  unfold State.controlCommand
  split <;> exact .elsewhere

theorem ringKept_window (form : Byte) (inTick outTick : BitVec 32) (s : State) :
    s.RingKept (s.window form inTick outTick).state := by
  unfold State.window
  split <;> exact .elsewhere

theorem ringKept_abortAtPageEnd (s : State) : s.RingKept s.abortAtPageEnd.state := by
  unfold State.abortAtPageEnd
  split <;> exact .elsewhere

theorem ringKept_setSpan (form : Byte) (first last : BitVec 24) (s : State) :
    s.RingKept (s.setSpan form first last).state := by
  unfold State.setSpan
  split <;> exact .elsewhere

theorem ringKept_countStray (s : State) : s.RingKept s.countStray := by
  unfold State.countStray
  split
  · exact .elsewhere
  · dsimp only
    split <;> exact .elsewhere

theorem ringKept_takePage (p : PlayPage) (s : State) : s.RingKept (s.takePage p) := by
  unfold State.takePage
  dsimp only
  split
  · split <;> exact .elsewhere
  · exact .elsewhere

theorem ringKept_deliverEffect (r : Delivery) (s : State) : s.RingKept (s.deliverEffect r) := by
  cases r
  case taken p => exact ringKept_takePage p s
  case stray => exact ringKept_countStray s
  all_goals exact .andThen (b := s.raise .pageRejected) .elsewhere (ringKept_countStray _)

end State

/-! ## Every row -/

/-- Every row answers a next state that meets the invariant. -/
theorem exec_keeps_ringInv (i : Instr) {s : State} (h : s.ringInv) : ∃ t, exec i s = .next t ∧ t.ringInv := by
  have kept : ∀ {t : State}, s.RingKept t → t.ringInv := fun k => k.ringInv h
  have alone := fun b rx => State.ringInv_ringAlone b rx h
  have pos := fun edge => kept (s.ringKept_posAlone edge)
  cases i with
  | configure payload tail =>
    refine ⟨_, rfl, State.ringInv_command h ?_⟩
    split
    · exact State.ringInv_configure payload h
    · exact kept .elsewhere
  | join => exact ⟨_, rfl, State.ringInv_configured h fun _ hc => State.ringInv_join hc h⟩
  | leave => exact ⟨_, rfl, State.ringInv_configured h fun _ _ => State.ringInv_leave h⟩
  | route => exact ⟨_, rfl, State.ringInv_configured h fun _ _ => kept (s.ringKept_route _ _ _ _ _ _ _ _)⟩
  | solo => exact ⟨_, rfl, State.ringInv_configured h fun _ _ => kept (s.ringKept_solo _ _)⟩
  | touchset => exact ⟨_, rfl, State.ringInv_configured h fun _ _ => kept (s.ringKept_touchset _ _ _)⟩
  | map => exact ⟨_, rfl, State.ringInv_configured h fun _ _ => kept (s.ringKept_mapFader _ _ _)⟩
  | surface => exact ⟨_, rfl, State.ringInv_configured h fun _ _ => kept (s.ringKept_surface _ _ _ _)⟩
  | drives => exact ⟨_, rfl, State.ringInv_command h (kept .elsewhere)⟩
  | control => exact ⟨_, rfl, State.ringInv_configured h fun _ _ => kept (s.ringKept_controlCommand _ _ _ _)⟩
  | window => exact ⟨_, rfl, State.ringInv_configured h fun _ _ => kept (s.ringKept_window _ _ _)⟩
  | abortNow => exact ⟨_, rfl, State.ringInv_configured h fun _ _ => kept .elsewhere⟩
  | abortAtPageEnd => exact ⟨_, rfl, State.ringInv_configured h fun _ _ => kept s.ringKept_abortAtPageEnd⟩
  | span => exact ⟨_, rfl, State.ringInv_configured h fun _ _ => kept (s.ringKept_setSpan _ _ _)⟩
  | deliver payload tail =>
    refine ⟨_, rfl, State.ringInv_command h ?_⟩
    split
    · unfold State.configured
      split
      · exact kept (s.ringKept_deliverEffect _)
      · exact h
    · exact kept .elsewhere
  | take | passes | status | mask => exact ⟨_, rfl, State.ringInv_command h (kept .elsewhere)⟩
  | restart => exact ⟨_, rfl, State.ringInv_command h (State.ringInv_restart h)⟩
  | format ldi => exact ⟨_, rfl, State.ringInv_reject ldi h⟩
  | poll n | replyRead n => exact ⟨_, rfl, kept (s.ringKept_emptyTransfer n)⟩
  | replyFormed => exact ⟨_, rfl, kept s.ringKept_formReply⟩
  | linkOverrun ldi => exact ⟨_, rfl, kept (s.ringKept_discard ldi)⟩
  | hardwareReset => exact ⟨_, rfl, State.RingKept.ringInv .elsewhere (State.ringInv_cold s.strap s.rate96)⟩
  | resetRise strap rate96 =>
    refine ⟨_, rfl, ?_⟩
    split
    · exact State.RingKept.ringInv .elsewhere (State.ringInv_cold strap rate96)
    · exact h
  | clockLost =>
    refine ⟨_, rfl, ?_⟩
    split
    · exact kept .elsewhere
    · split
      · exact kept .elsewhere
      · exact h
  | clockReturn => exact ⟨_, rfl, kept .elsewhere⟩
  | sampleEvent | frameEdge | frameArrival | badFrame | silentSample | tapFrame =>
    exact ⟨_, rfl, State.ringInv_sampled _ h⟩
  | flywheel | tick | abortFired | glideEnd => exact ⟨_, rfl, State.ringInv_part h (pos _)⟩
  | rampEnd | touchQualified | releaseQualified | holdingsTimer | holdingsExpiry | leaseExpiry | keepalive =>
    exact ⟨_, rfl, State.ringInv_part h (kept .elsewhere)⟩
  | settleEnd => exact ⟨_, rfl, State.ringInv_part h (State.ringInv_settle (s := s) rfl rfl rfl h)⟩
  | settleRiseEnd => exact ⟨_, rfl, State.ringInv_part h (kept .elsewhere)⟩
  | noticeDeadline x => exact ⟨_, rfl, State.ringInv_part h (kept (s.ringKept_expireFlight x))⟩
  | ringBreak | tagAdoption | relock | relockComplete | lockPhaseEnd | listenPhaseEnd | firstIn =>
    exact ⟨_, rfl, State.ringInv_part h (alone _ _)⟩

end Sys2Proof.Machine

open Sys2Proof Sys2Proof.Machine

/-- Settles O17: every row keeps the invariant, and an empty queue changes nothing. -/
theorem ringInvariantKept : Obligations.RingInvariantKept := by
  intro s t h e
  unfold step at e
  split at e
  · cases e
    exact h
  · next c rest _ =>
    obtain ⟨u, run, inv⟩ := exec_keeps_ringInv c (State.RingKept.ringInv (t := { s with pending := rest }) .elsewhere h)
    rw [run] at e
    cases e
    exact inv
end

section
/-!
What a sample event emits and what it gives the converters (R20, R28, R29, R31, R94, R95): the lanes of the emitted frame and
the slots of the stem stream, with and without a good frame.
-/

set_option Elab.async false

namespace Sys2Proof.Machine

/-! ## A lap sum of zero (R94) -/

theorem Gain.tryFloor_zero (n : Nat) (g : Gain) : Gain.tryFloor n 0 g = some 0 := by
  have half : ∀ k one : Nat, k * one / (2 * k * one) = 0 := by
    intro k one
    rcases Nat.eq_zero_or_pos (k * one) with h | h
    · rw [h, Nat.zero_div]
    · exact Nat.div_eq_of_lt (by rw [Nat.mul_assoc]; omega)
  unfold Gain.tryFloor
  simp [half]

@[simp] theorem Gain.roundNat_zero (g : Gain) : Gain.roundNat 0 g = 0 := by
  unfold Gain.roundNat
  split
  · rfl
  · rcases Nat.eq_zero_or_pos g.den with h | h
    · rw [h]; simp
    · exact Nat.div_eq_of_lt (by omega)
  · rw [Gain.tryFloor_zero]

@[simp] theorem Gain.round_zero (g : Gain) : Gain.round 0 g = 0 := by simp [Gain.round]

@[simp] theorem saturate_zero (n : Nat) : saturate n 0 = 0 := by
  have : (1 : Int) ≤ 2 ^ (n - 1) := one_le_pow₀ (by omega)
  unfold saturate
  omega

/-- A lane's sum that a lane can carry is not saturated. -/
theorem saturate_toInt (x : Lane) : saturate 32 x.toInt = x.toInt := by
  have := x.toInt_lt
  have := x.le_toInt
  unfold saturate
  omega

/-! ## The home outputs and the stem stream -/

/-- R94: every home takes zero where no good frame has arrived. -/
theorem Desk.laneOutput_none (e : Env) (g : Gain) (n : Nat) (d : Desk) : d.laneOutput e g none n = 0 := by
  unfold Desk.laneOutput Desk.homeOutput lapOf
  split
  · split <;> simp
  · rfl

/-- R95: every slot of the stem stream is zero where no good frame has arrived. -/
theorem Desk.stemStream_none (e : Env) (g : Gain) (d : Desk) (n : Fin 128) : (d.stemStream e g none)[n] = 0 := by
  unfold Desk.stemStream
  simp only [Fin.getElem_fin, Vector.getElem_ofFn, Desk.laneOutput_none]
  split
  · split <;> rfl
  · rfl

/-- The bus of a lane is the bus of the plan that covers it. -/
theorem Env.bus?_of_lane {e : Env} {n : Nat} {b : Fin 24} {x : Bus} (h : e.busOfLane? n = some (b, x)) :
    e.bus? b = some x := by
  unfold Env.busOfLane? at h
  obtain ⟨k, _, found⟩ := List.exists_of_findSome?_eq_some h
  rcases hk : e.bus? k with _ | y
  · rw [hk] at found
    cases found
  · rw [hk] at found
    dsimp only at found
    split at found
    · cases found
      exact hk
    · cases found

theorem Env.homesBus_of_lane {e : Env} {n : Nat} {b : Fin 24} {x : Bus} (h : e.busOfLane? n = some (b, x)) :
    e.homesBus b = (x.home == e.self) := by
  unfold Env.homesBus
  rw [Env.bus?_of_lane h]

/-- R94, R95: the slot of a lane of a STEM homed here. -/
theorem Desk.stemStream_homed {e : Env} {n : Fin 128} {b : Fin 24} {x : Bus} (h : e.busOfLane? n.val = some (b, x))
    (kind : x.kind = .stem) (home : x.home = e.self) (g : Gain) (l : Vector Lane 128) (d : Desk) :
    (d.stemStream e g (some l))[n] = BitVec.ofInt 24 (d.homeOutput g b l[n].toInt) := by
  have homes : e.homesBus b = true := by rw [Env.homesBus_of_lane h, home]; exact beq_self_eq_true _
  simp [Desk.stemStream, Desk.laneOutput, lapOf, h, kind, homes]

/-- R95: every other slot. -/
theorem Desk.stemStream_other {e : Env} {n : Fin 128}
    (h : ∀ b x, e.busOfLane? n.val = some (b, x) → ¬ (x.kind = .stem ∧ x.home = e.self)) (g : Gain)
    (l : Option (Vector Lane 128)) (d : Desk) : (d.stemStream e g l)[n] = 0 := by
  rcases hl : e.busOfLane? n.val with _ | ⟨b, x⟩
  · simp [Desk.stemStream, hl]
  · by_cases kind : x.kind = .stem
    · have homes : e.homesBus b = false := by
        rw [Env.homesBus_of_lane hl]
        exact beq_eq_false_iff_ne.mpr fun home => h b x hl ⟨kind, home⟩
      simp [Desk.stemStream, Desk.laneOutput, hl, kind, homes]
    · simp [Desk.stemStream, hl, kind]

/-! ## The lanes of the emitted frame (R28, R29, R31) -/

/-- The lane plan is read from the configuration alone. -/
theorem Env.bus?_congr {e e' : Env} (conf : e'.conf = e.conf) : e'.bus? = e.bus? := by
  funext b
  unfold Env.bus? Env.plan
  rw [conf]

theorem Env.busOfLane?_congr {e e' : Env} (conf : e'.conf = e.conf) : e'.busOfLane? = e.busOfLane? := by
  funext n
  unfold Env.busOfLane?
  rw [Env.bus?_congr conf]

/-- R29: the contributions depend on the station and the lane plan alone. -/
theorem Desk.contribution_congr {e e' : Env} (self : e'.self = e.self) (conf : e'.conf = e.conf) (present : StationSet)
    (n : Nat) (d : Desk) : d.contribution e' present n = d.contribution e present n := by
  have into : sendInto e' = sendInto e := by
    funext present n src send hist
    unfold sendInto lookback
    rw [Env.bus?_congr conf, self]
  unfold Desk.contribution
  rw [into]

theorem Desk.lanesOut_idle {e : Env} {n : Fin 128} (h : e.busOfLane? n.val = none) (present : StationSet) (c : Bool)
    (l : Option (Vector Lane 128)) (d : Desk) : (d.lanesOut e present c l)[n] = 0 := by
  simp [Desk.lanesOut, Desk.laneOut, h]

theorem Desk.lanesOut_orphan {e : Env} {n : Fin 128} {b : Fin 24} {x : Bus} {present : StationSet}
    (h : e.busOfLane? n.val = some (b, x)) (absent : StationSet.has present x.home = false) (c : Bool)
    (l : Option (Vector Lane 128)) (d : Desk) : (d.lanesOut e present c l)[n] = 0 := by
  simp [Desk.lanesOut, Desk.laneOut, h, absent]

/-- R28: a lane homed here leaves with the station's own contribution. -/
theorem Desk.lanesOut_homed {e : Env} {n : Fin 128} {b : Fin 24} {x : Bus} {present : StationSet}
    (h : e.busOfLane? n.val = some (b, x)) (there : StationSet.has present x.home = true) (home : x.home = e.self) (c : Bool)
    (l : Option (Vector Lane 128)) (d : Desk) :
    (d.lanesOut e present c l)[n] = BitVec.ofInt 32 (if c then d.contribution e present n.val else 0) := by
  rw [home] at there
  simp [Desk.lanesOut, Desk.laneOut, h, there, home]

/-- R28, R31: any other lane leaves with the saturated sum. -/
theorem Desk.lanesOut_passing {e : Env} {n : Fin 128} {b : Fin 24} {x : Bus} {present : StationSet}
    (h : e.busOfLane? n.val = some (b, x)) (there : StationSet.has present x.home = true) (away : x.home ≠ e.self) (c : Bool)
    (l : Vector Lane 128) (d : Desk) :
    (d.lanesOut e present c (some l))[n] =
      BitVec.ofInt 32 (saturate 32 (l[n].toInt + if c then d.contribution e present n.val else 0)) := by
  simp [Desk.lanesOut, Desk.laneOut, lapOf, h, there, away]

/-! ## A whole sample event by its phases -/

/-- The send outputs leave the homes and the settle factor alone, and so every home's output. -/
theorem Desk.stemStream_formOutputs (e e' : Env) (g g' : Gain) (l l' : Option (Vector Lane 128)) (x : Vector Sample 32)
    (d : Desk) : (d.formOutputs e' g' l' x).stemStream e g l = d.stemStream e g l ∧
      (d.formOutputs e' g' l' x).home = d.home := by
  unfold Desk.formOutputs
  dsimp only
  generalize Vector.ofFn _ = strips
  exact ⟨rfl, rfl⟩

/-- R94, R95: the stem stream is formed with the factors that the audio leaves. -/
theorem State.stem_audio (x : Vector Sample 32) (l : Option (Vector Lane 128)) (s : State) :
    (s.audio x l).stem =
      (s.audio x l).desk.stemStream (s.audio x l).env
        (settleGain (s.audio x l).rate96 (s.audio x l).desk.home.rise) l := by
  obtain ⟨stream, home⟩ := Desk.stemStream_formOutputs s.env s.env (settleGain s.rate96 s.desk.home.rise)
    (settleGain s.rate96 s.desk.home.rise) l l x (s.desk.advanceAll (rampLength s.env))
  have rise : (s.desk.advanceAll (rampLength s.env)).home.rise = s.desk.home.rise := rfl
  unfold State.audio
  dsimp only
  generalize s.desk.advanceAll (rampLength s.env) = d at stream home rise ⊢
  generalize d.formOutputs _ _ _ _ = d' at stream home ⊢
  rw [home, rise]
  exact stream.symm

/-- The sample event from `s` to `t`: RING takes it on the state `u` and makes `out` of it, and audio and emission are formed
on what the phases left. -/
structure State.SampleParts (p : Period) (s t u : State) (out : RingOut) : Prop where
  before  : s.timers.BesideRing u
  phase   : u.ringPhase p.checkFirst p.rx = out
  behind  : out.state.BesideRing t
  stem    : t.stem = t.desk.stemStream t.env (settleGain t.rate96 t.desk.home.rise) out.arriving
  emitted : t.emitted = if s.ring.state.onRing then
    some (buildFrame t.self t.ring.tag t.ring.origin out.cells
      (t.desk.lanesOut t.env s.ring.present (s.ring.state == .inserted) out.arriving)) else none

theorem State.exists_sampleParts (p : Period) (s : State) : ∃ u out, s.SampleParts p (s.sample p) u out := by
  obtain ⟨u, v, out, before, phase, behind, e⟩ := s.sample_around_ring p
  refine ⟨u, out, before, phase.symm, e ▸ behind.andThen (.output _ _ _ _ v), ?_, ?_⟩
  all_goals
    have stem := v.stem_audio p.samples out.arriving
    rw [e]
    generalize v.audio p.samples out.arriving = w at stem ⊢
    unfold State.emit
  · split <;> exact stem
  · split <;> rfl

namespace State.SampleParts

variable {p : Period} {s t u : State} {out : RingOut}

/-- RING takes the sample event on the ring as it was, the settle interval one shorter. -/
theorem ring_before (h : SampleParts p s t u out) : u.ring = { s.ring with settle := s.ring.settle - 1 } :=
  h.before.ring.trans s.timers_counts.1

theorem instant_before (h : SampleParts p s t u out) : u.instant = s.instant + 1 :=
  h.before.instant.trans s.timers_counts.2

theorem self_before (h : SampleParts p s t u out) : u.self = s.self :=
  self_of_outside (s.outside_timers.andThen h.before.outside)

theorem outside (h : SampleParts p s t u out) : SameOutsideSample s t := by
  have phase := outside_ringPhase p.checkFirst p.rx u
  rw [h.phase] at phase
  exact ((s.outside_timers.andThen h.before.outside).andThen phase).andThen h.behind.outside

/-- R95: without a good frame every slot of the stem stream is zero. -/
theorem stem_zero (h : SampleParts p s t u out) (none : out.arriving = none) (n : Fin 128) : t.stem[n] = 0 := by
  rw [h.stem, none]
  exact Desk.stemStream_none _ _ _ n

end State.SampleParts

end Sys2Proof.Machine
end

section
/-!
An arrival at an inserted station, judged (R21 to R23, R32, R34): what adoption leaves of the numbering, and what a good frame,
a bad frame and a silent sample make of the ring.
-/

set_option Elab.async false

namespace Sys2Proof.Machine

/-! ## Whether a frame is good (R21, R22) -/

/-- A frame is judged by the numbering alone. -/
theorem Ring.good_congr {r r' : Ring} (tag : r'.tag = r.tag) (origin : r'.origin = r.origin) (f : WireFrame) :
    r'.good f = r.good f := by
  unfold Ring.good
  rw [tag, origin]

/-- R22, R23: what is adopted depends on the ring state, the numbering and the consistency run. -/
theorem Ring.good_adoption_congr {r r' : Ring} (state : r'.state = r.state) (tag : r'.tag = r.tag)
    (origin : r'.origin = r.origin) (run : r'.run = r.run) (self : Nat) (f : WireFrame) :
    (r'.adoption self f).good f = (r.adoption self f).good f := by
  have good := Ring.good_congr tag origin f
  unfold Ring.adoption
  rw [state]
  split
  · unfold Ring.adoptInserted
    rw [run, origin]
    split
    · rfl
    · exact good
  · unfold Ring.adoptRelocking
    rw [run, good, origin]
    split
    · rfl
    · exact good
  · exact good

/-- R21: a run of frames has seen a right check and a right header. -/
theorem Ring.right_of_run {r : Ring} {f : WireFrame} (h : (r.countRun f).run ≠ 0) :
    checkRight f = true ∧ headerRight f = true := by
  unfold Ring.countRun at h
  dsimp only at h
  rcases hc : checkRight f <;> rcases hh : headerRight f <;> simp [hc, hh] at h ⊢

/-- R22: the frame whose numbering is adopted is good by it. -/
theorem Ring.good_adopt {f : WireFrame} (check : checkRight f = true) (header : headerRight f = true) (r : Ring) :
    (r.adopt f).good f = true := by
  simp [Ring.good, Ring.adopt, check, header]

/-- R22, R23: an arrival that stays bad has brought no numbering. -/
theorem Ring.adoption_of_bad {self : Nat} {f : WireFrame} {r : Ring}
    (bad : ((r.countRun f).adoption self f).good f = false) : (r.countRun f).adoption self f = r.countRun f := by
  have adopted : ∀ q : Ring, q.tag = f.tag + 1 → q.origin = f.origin.toNat → (r.countRun f).run ≠ 0 → q.good f = true := by
    intro q tag origin run
    obtain ⟨check, header⟩ := Ring.right_of_run run
    exact (Ring.good_congr tag origin f).trans (Ring.good_adopt check header r)
  unfold Ring.adoption at bad ⊢
  split at bad
  · unfold Ring.adoptInserted at bad ⊢
    split at bad
    · next h => rw [adopted _ rfl rfl (by omega)] at bad; cases bad
    · next h => exact if_neg h
  · unfold Ring.adoptRelocking at bad ⊢
    split at bad
    · next h => rw [adopted _ rfl rfl (by omega)] at bad; cases bad
    · next h => exact if_neg h
  · rfl

namespace State

/-- A frame is as good before a settle count as after it. -/
theorem good_heard_congr {s u : State} (self : u.self = s.self) (k : Nat) (ring : u.ring = { s.ring with settle := k })
    (f : WireFrame) : (u.heard f).good f = (s.heard f).good f := by
  unfold State.heard
  rw [self, ring]
  exact Ring.good_adoption_congr (by rfl) (by rfl) (by rfl) (by rfl) s.self f

/-- R21: the end of a silence does not change what is adopted. -/
theorem good_endSilence (f : WireFrame) (s : State) :
    ((s.endSilence.ring.countRun f).adoption s.endSilence.self f).good f =
      ((s.ring.countRun f).adoption s.self f).good f := by
  rw [self_of_outside s.outside_endSilence, ring_endSilence]
  exact Ring.good_adoption_congr (by rfl) (by rfl) (by rfl) (by rfl) s.self f

/-- R21, R28: a good frame. -/
theorem arrive_of_good (b : Bool) {f : WireFrame} {s : State} (h : ((s.ring.countRun f).adoption s.self f).good f = true) :
    s.arrive b f = State.goodArrival b f
      { s.endSilence with ring := (s.endSilence.ring.countRun f).adoption s.endSilence.self f } :=
  if_pos ((good_endSilence f s).trans h)

/-- R21, R32: a bad frame. -/
theorem arrive_of_bad (b : Bool) {f : WireFrame} {s : State} (h : ((s.ring.countRun f).adoption s.self f).good f = false) :
    s.arrive b f = State.badArrival { s.endSilence with ring := s.endSilence.ring.countRun f } := by
  have bad := (good_endSilence f s).trans h
  have same := Ring.adoption_of_bad bad
  have e : s.arrive b f = State.badArrival
      { s.endSilence with ring := (s.endSilence.ring.countRun f).adoption s.endSilence.self f } :=
    if_neg (by rw [bad]; exact Bool.false_ne_true)
  rw [e, same]

theorem arriving_goodArrival (b : Bool) (f : WireFrame) (s : State) : (s.goodArrival b f).arriving = some f.lanes := by
  unfold State.goodArrival
  dsimp only
  split <;> rfl

/-- R28: the lanes of a good frame reach the homes. -/
theorem arriving_of_good (b : Bool) {f : WireFrame} {s : State} (on : s.ring.state.onRing = true)
    (h : (s.heard f).good f = true) : (s.ringPhase b (some f)).arriving = some f.lanes := by
  rw [ringPhase_of_arrival b f on, arrive_of_good b (s := { s with ring := s.ring.advanceTag }) h]
  exact arriving_goodArrival b f _

/-- R32, R33: what a bad frame makes of the ring, and of the flags. -/
theorem countBad_spec (s : State) :
    s.countBad.ring = { s.ring with
      badCount := countUp s.ring.badCount, badRun := s.ring.badRun + 1, goodRun := 0,
      state := if s.ring.state = .inserted ∧ 15 ≤ s.ring.badRun then .relocking else s.ring.state } ∧
    s.countBad.flag .badFrame = true ∧
    (s.ring.state = .inserted → 15 ≤ s.ring.badRun → s.countBad.flag .relock = true) := by
  have raised : ∀ u : State, (Machine.State.raise .badFrame u).flag .badFrame = true := fun u =>
    (Desk.flag_raise _ _ u.desk).trans (by simp)
  unfold State.countBad
  dsimp only
  by_cases h : s.ring.state = .inserted ∧ 15 ≤ s.ring.badRun
  · have h' : s.ring.state = .inserted ∧ 16 ≤ s.ring.badRun + 1 := ⟨h.1, by omega⟩
    rw [if_pos h', if_pos h]
    refine ⟨rfl, ?_, fun _ _ => (Desk.flag_raise _ _ _).trans (by simp)⟩
    exact (State.FlagFrame.raise .relock _).stay _ (raised _)
  · have h' : ¬ (s.ring.state = .inserted ∧ 16 ≤ s.ring.badRun + 1) := fun k => h ⟨k.1, by omega⟩
    rw [if_neg h', if_neg h]
    exact ⟨rfl, raised _, fun a b => absurd ⟨a, b⟩ h⟩

/-- R34: what a silent sample makes of the ring; the eighth raises RING_BREAK. -/
theorem countSilent_spec (s : State) :
    s.countSilent.ring = { s.ring with
      run := 0, goodRun := 0, silent := s.ring.silent + 1,
      breakHead := if s.ring.silent + 1 = 8 then true else s.ring.breakHead } ∧
    (s.ring.silent = 7 → s.countSilent.flag .ringBreak = true) := by
  unfold State.countSilent
  dsimp only
  by_cases h : s.ring.silent + 1 = 8
  · rw [if_pos h, if_pos h]
    exact ⟨rfl, fun _ => (Desk.flag_raise _ _ _).trans (by simp)⟩
  · rw [if_neg h, if_neg h]
    exact ⟨rfl, fun k => absurd (by rw [k]) h⟩

/-- R32: RING's part of a sample event at a bad frame; no cell is read, and no lane reaches a home. -/
theorem ringPhase_of_bad (b : Bool) {f : WireFrame} {s : State} (on : s.ring.state.onRing = true)
    (h : (s.heard f).good f = false) :
    (s.ringPhase b (some f)).arriving = none ∧
    (s.ringPhase b (some f)).state.ring = { s.ring.advanceTag.countRun f with
      silent := 0, breakHead := false, badCount := countUp s.ring.badCount, badRun := s.ring.badRun + 1, goodRun := 0,
      state := if s.ring.state = .inserted ∧ 15 ≤ s.ring.badRun then .relocking else s.ring.state } ∧
    (s.ringPhase b (some f)).state.flag .badFrame = true ∧
    (s.ring.state = .inserted → 15 ≤ s.ring.badRun → (s.ringPhase b (some f)).state.flag .relock = true) := by
  rw [ringPhase_of_arrival b f on, arrive_of_bad b (s := { s with ring := s.ring.advanceTag }) h]
  obtain ⟨u, hu⟩ : ∃ u : State, u = { s with ring := s.ring.advanceTag } := ⟨_, rfl⟩
  rw [← hu]
  obtain ⟨v, hv⟩ : ∃ v : State, v = { u.endSilence with ring := u.endSilence.ring.countRun f } := ⟨_, rfl⟩
  rw [← hv]
  have ring : v.ring = { s.ring.advanceTag.countRun f with silent := 0, breakHead := false } := by
    rw [hv, ring_endSilence, hu]
    rfl
  obtain ⟨counted, bad, relock⟩ := v.countBad_spec
  obtain ⟨d, e, flags⟩ := placeCells_eq v.countBad
  have state : v.badArrival.state = { v.countBad with desk := d } := e
  rw [state]
  refine ⟨rfl, ?_, flags.stay _ bad, fun a c => flags.stay _ (relock (by rw [ring]; exact a) (by rw [ring]; exact c))⟩
  show v.countBad.ring = _
  rw [counted, ring]
  rfl

/-- R34: RING's part of a silent sample; no lane reaches a home, and only the ring and the desk move. -/
theorem ringPhase_of_silent (b : Bool) {s : State} (on : s.ring.state.onRing = true) :
    (s.ringPhase b none).arriving = none ∧
    (∃ d, (s.ringPhase b none).state = { s with desk := d, ring := { s.ring with
      tag := s.ring.tag + 1, run := 0, goodRun := 0, silent := s.ring.silent + 1,
      breakHead := if s.ring.silent + 1 = 8 then true else s.ring.breakHead } }) ∧
    (s.ring.silent = 7 → (s.ringPhase b none).state.flag .ringBreak = true) := by
  rw [ringPhase_of_silence b on]
  obtain ⟨u, hu⟩ : ∃ u : State, u = { s with ring := s.ring.advanceTag } := ⟨_, rfl⟩
  rw [← hu]
  obtain ⟨ring, flag⟩ := u.countSilent_spec
  obtain ⟨d, e, flags⟩ := placeCells_eq u.countSilent
  have desk : ∃ d', u.countSilent = { u with desk := d', ring := u.countSilent.ring } := by
    unfold State.countSilent
    dsimp only
    split <;> exact ⟨_, rfl⟩
  obtain ⟨d', e'⟩ := desk
  have state : u.silence.state = { u.countSilent with desk := d } := e
  rw [state]
  refine ⟨rfl, ⟨d, ?_⟩, fun h => flags.stay _ (flag (by rw [hu]; exact h))⟩
  rw [e', ring, hu]
  rfl

end State

/-! ## Whole sample events -/

theorem State.exec_sampled {s : State} (live : s.clocked) (p : Period) :
    exec (.sampleEvent p) s = .next (s.sample p) ∧
    (∀ f, exec (.frameArrival f p) s = .next (s.sample { p with rx := some f })) ∧
    (∀ f, exec (.badFrame f p) s = .next (s.sample { p with rx := some f })) ∧
    (∀ f, exec (.tapFrame f p) s = .next (s.sample { p with rx := some f })) ∧
    exec (.silentSample p) s = .next (s.sample { p with rx := none }) :=
  ⟨congrArg _ (State.sampled_of_clocked live _), fun _ => congrArg _ (State.sampled_of_clocked live _),
    fun _ => congrArg _ (State.sampled_of_clocked live _), fun _ => congrArg _ (State.sampled_of_clocked live _),
    congrArg _ (State.sampled_of_clocked live _)⟩

/-- A good frame reaches the part: its lanes are those from which homes, slots and lanes are formed. -/
theorem State.SampleParts.arriving {p : Period} {s t u : State} {out : RingOut} {f : WireFrame}
    (h : SampleParts p s t u out) (rx : p.rx = some f) (on : s.ring.state.onRing = true) (good : (s.heard f).good f = true) :
    out.arriving = some f.lanes := by
  rw [← h.phase, rx]
  exact State.arriving_of_good _ (by rw [h.ring_before]; exact on)
    ((State.good_heard_congr h.self_before _ h.ring_before f).trans good)

end Sys2Proof.Machine

open Sys2Proof Sys2Proof.Machine

/-- Settles O24: RING's phase of a DETACHED station, and the frame built where the relay is inserted. -/
theorem sampleEventOnAndOffTheRing : Obligations.SampleEventOnAndOffTheRing := by
  refine ⟨fun s p live detached => ?_, fun s p live on => ?_⟩
  · obtain ⟨run, _⟩ := State.exec_sampled live p
    obtain ⟨u, out, parts⟩ := State.exists_sampleParts p s
    have phase := parts.phase
    rw [State.ringPhase_of_detached _ _ (by rw [parts.ring_before]; exact detached)] at phase
    refine ⟨_, run, ?_, ?_, ?_, parts.stem_zero (by rw [← phase]), fun unconf => ?_, parts.outside⟩
    · rw [parts.behind.instant, ← phase]
      exact parts.instant_before
    · rw [parts.behind.ring, ← phase, parts.ring_before]
      rfl
    · rw [parts.emitted, detached]
      rfl
    · rw [State.pos_sample]
      unfold State.posOut
      rw [unconf]
  · obtain ⟨run, _⟩ := State.exec_sampled live p
    obtain ⟨u, out, parts⟩ := State.exists_sampleParts p s
    have emitted := parts.emitted
    rw [if_pos on] at emitted
    refine ⟨_, _, run, emitted, checkRight_buildFrame _ _ _ _ _, ?_, rfl, rfl, parts.outside⟩
    rw [buildFrame_emitter, State.self_of_outside parts.outside]

/-- Settles O27: RING's phase at a bad frame and at a silent sample, which hand no lane to a home. -/
theorem badFramesAndSilence : Obligations.BadFramesAndSilence := by
  refine ⟨fun s f p live on bad => ?_, fun s p live on => ?_, fun s live on silent => ?_⟩
  · obtain ⟨_, _, run, _⟩ := State.exec_sampled live p
    obtain ⟨u, out, parts⟩ := State.exists_sampleParts { p with rx := some f } s
    have emitted := parts.emitted
    rw [if_pos on] at emitted
    obtain ⟨arriving, ring, flag, _⟩ := State.ringPhase_of_bad p.checkFirst (s := u)
      (by rw [parts.ring_before]; exact on) ((State.good_heard_congr parts.self_before _ parts.ring_before f).trans bad)
    have phase : u.ringPhase p.checkFirst (some f) = out := parts.phase
    rw [phase] at arriving ring flag
    have ring := parts.behind.ring.trans ring
    rw [parts.ring_before] at ring
    exact ⟨_, _, run f, emitted, by rw [ring], by rw [ring], by rw [ring], by rw [ring], by rw [ring]; rfl,
      by rw [ring]; rfl, by rw [ring]; rfl, parts.behind.stay _ flag, parts.stem_zero arriving, parts.outside⟩
  · obtain ⟨_, _, _, _, run⟩ := State.exec_sampled live p
    obtain ⟨u, out, parts⟩ := State.exists_sampleParts { p with rx := none } s
    have emitted := parts.emitted
    rw [if_pos on] at emitted
    obtain ⟨arriving, ⟨d, state⟩, _⟩ := State.ringPhase_of_silent p.checkFirst (s := u)
      (by rw [parts.ring_before]; exact on)
    have phase : u.ringPhase p.checkFirst none = out := parts.phase
    rw [phase] at arriving state
    refine ⟨_, _, run, emitted, parts.stem_zero arriving, ?_, parts.outside⟩
    rw [parts.behind.ring, state, parts.ring_before]
  · have run : exec .ringBreak s = .next (s.ringAlone true none) := by
      refine congrArg _ (State.part_of_clocked live ?_ _)
      simp [on, silent]
    obtain ⟨_, ⟨d, state⟩, flag⟩ := State.ringPhase_of_silent true (s := s.advanceInstant) on
    have alone : s.ringAlone true none = (s.advanceInstant.ringPhase true none).state := rfl
    refine ⟨_, run, alone ▸ flag silent, ?_, ?_, ?_, ?_, ?_, ?_⟩
    · have eighth : s.advanceInstant.ring.silent + 1 = 8 := by rw [show s.advanceInstant.ring.silent = 7 from silent]
      rw [alone, state, eighth]
      rfl
    all_goals rw [alone, state]
    · rfl
    · rfl
    · rfl
    · rfl
    · exact SameOutsideSample.update s _ _ _ _ _ _ _ _
end

section
/-!
A good frame's lanes and slots (R28, R29, R31, R94, R95), and the own contribution as one sum over the strips.
-/

set_option Elab.async false

namespace Sys2Proof.Machine

/-! ## The own contribution (R29) -/

theorem sendInto_none (e : Env) (present : StationSet) (n : Nat) (src : Source) (hist : List Lane) :
    sendInto e present n src none hist = 0 := rfl

theorem sendInto_of_no_bus {e : Env} {t : Dest} (h : e.bus? t.bus = none) (present : StationSet) (n : Nat) (src : Source)
    (hist : List Lane) : sendInto e present n src (some t) hist = 0 := by
  unfold sendInto
  dsimp only
  rw [h]

/-- R29: a send puts its history's entry at d + c into its lane, c being P for an INPUT strip into a STEM. -/
theorem sendInto_of_bus {e : Env} {t : Dest} {x : Bus} (h : e.bus? t.bus = some x) (present : StationSet) (n : Nat)
    (src : Source) (hist : List Lane) : sendInto e present n src (some t) hist =
      if x.first + t.offset = n then
        (hist.getD (distance present x.home e.self +
          if src = .input ∧ x.kind = .stem then StationSet.count present else 0) 0).toInt
      else 0 := by
  have back : lookback e present x src = distance present x.home e.self +
      if src = .input ∧ x.kind = .stem then StationSet.count present else 0 := by
    unfold lookback
    rcases src with _ | _ | _ <;> rcases x.kind <;> simp
  unfold sendInto
  dsimp only
  rw [h, ← back]

theorem Desk.toList_strips (d : Desk) : d.strip.strips.toList = (List.finRange 32).map d.stripOf := by
  refine List.ext_getElem (by simp) fun i _ _ => ?_
  simp [Desk.stripOf]

/-- R29: the contributions of all sends are added exactly and saturated once. -/
theorem Desk.contribution_eq_sum (e : Env) (present : StationSet) (n : Nat) (d : Desk) :
    d.contribution e present n = saturate 32 ((List.finRange 32).map fun j =>
      sendInto e present n (d.stripOf j).source (d.stripOf j).send1 (d.stripOf j).hist1 +
        sendInto e present n (d.stripOf j).source (d.stripOf j).send2 (d.stripOf j).hist2).sum := by
  have run : ∀ (f g : Strip → Int) (l : List Strip) (a : Int),
      l.foldl (fun a x => a + f x + g x) a = a + (l.map fun x => f x + g x).sum := by
    intro f g l
    induction l with
    | nil => simp
    | cons x l ih =>
      intro a
      rw [List.foldl_cons, ih, List.map_cons, List.sum_cons]
      omega
  unfold Desk.contribution
  rw [run, zero_add, Desk.toList_strips, List.map_map]
  rfl

end Sys2Proof.Machine

open Sys2Proof Sys2Proof.Machine

/-- Settles O26: the frame and the stem stream of the sample event lane by lane, and the own contribution as a sum. -/
theorem goodArrivalLanesAndStems : Obligations.GoodArrivalLanesAndStems := by
  refine ⟨fun s f p live on good => ?_, fun e present n d => ?_, fun s f p live on good => ?_⟩
  · obtain ⟨_, run, _⟩ := State.exec_sampled live p
    have run := run f
    obtain ⟨u, out, parts⟩ := State.exists_sampleParts { p with rx := some f } s
    have emitted := parts.emitted
    rw [if_pos on, parts.arriving rfl on good] at emitted
    obtain ⟨_, _, _, _, conf, _⟩ := parts.outside
    have self := State.self_of_outside parts.outside
    generalize s.sample { p with rx := some f } = t at run parts emitted conf self
    have lane : t.env.busOfLane? = s.env.busOfLane? := Env.busOfLane?_congr conf
    have own : ∀ n, t.desk.contribution t.env s.ring.present n = t.desk.contribution s.env s.ring.present n :=
      fun n => Desk.contribution_congr self conf _ n _
    refine ⟨t, _, run, emitted, fun n => ?_⟩
    rw [buildFrame_lanes]
    refine ⟨fun idle => Desk.lanesOut_idle (by rw [lane]; exact idle) _ _ _ _, fun b x bus => ?_⟩
    have bus : t.env.busOfLane? n.val = some (b, x) := by rw [lane]; exact bus
    refine ⟨fun absent => Desk.lanesOut_orphan bus absent _ _ _, fun there => ⟨fun inserted home => ?_,
      fun inserted away => ?_, fun other home => ?_, fun other away => ?_⟩⟩
    · rw [Desk.lanesOut_homed bus there (home.trans self.symm), inserted, own]
      rfl
    · rw [Desk.lanesOut_passing bus there (fun h => away (h.trans self)), inserted, own]
      rfl
    · rw [Desk.lanesOut_homed bus there (home.trans self.symm), beq_eq_false_iff_ne.mpr other]
      rfl
    · rw [Desk.lanesOut_passing bus there (fun h => away (h.trans self)), beq_eq_false_iff_ne.mpr other]
      simp [saturate_toInt]
  · rw [Desk.contribution_eq_sum]
    refine congrArg (fun x => max (-2147483648) (min 2147483647 x)) (congrArg List.sum (List.map_congr_left fun j _ => ?_))
    rw [List.map_cons, List.map_cons, List.map_nil, List.sum_cons, List.sum_cons, List.sum_nil, add_zero]
    congr 1
    · rcases (d.stripOf j).send1 with _ | y
      · rfl
      · rcases h : e.bus? y.bus with _ | x
        · simp [sendInto_of_no_bus h, h]
        · simp [sendInto_of_bus h, h, distance, allStations]
    · rcases (d.stripOf j).send2 with _ | y
      · rfl
      · rcases h : e.bus? y.bus with _ | x
        · simp [sendInto_of_no_bus h, h]
        · simp [sendInto_of_bus h, h, distance, allStations]
  · obtain ⟨_, run, _⟩ := State.exec_sampled live p
    have run := run f
    obtain ⟨u, out, parts⟩ := State.exists_sampleParts { p with rx := some f } s
    have stem := parts.stem
    rw [parts.arriving rfl on good] at stem
    obtain ⟨_, _, _, rate96, conf, _⟩ := parts.outside
    have self := State.self_of_outside parts.outside
    generalize s.sample { p with rx := some f } = t at run parts stem rate96 conf self
    have lane : t.env.busOfLane? = s.env.busOfLane? := Env.busOfLane?_congr conf
    refine ⟨t, run, fun n => ⟨fun b x bus kind home => ?_, fun other => ?_⟩⟩
    · rw [stem, Desk.stemStream_homed (by rw [lane]; exact bus) kind (home.trans self.symm), rate96]
      rfl
    · rw [stem]
      exact Desk.stemStream_other (fun b x bus ⟨kind, home⟩ =>
        other b x (by rw [← lane]; exact bus) ⟨kind, home.trans self⟩) _ _ _
end

section
/-!
RING's part of a sample event by itself: adoption and relocking of an inserted station (R23, R33), and the phases of a JOIN
(R36 to R38).
-/

set_option Elab.async false

namespace Sys2Proof.Machine

namespace State

/-- R20: RING's part by itself leaves POS, PLAY and everything outside the sample event (log 1). -/
theorem ringAlone_frame (b : Bool) (rx : Option WireFrame) (s : State) :
    (s.ringAlone b rx).pos = s.pos ∧ (s.ringAlone b rx).play = s.play ∧ SameOutsideSample s (s.ringAlone b rx) := by
  have step := Desk.reached_queueGrows.ringPhase b rx s.advanceInstant
  exact ⟨step.pos, step.play, outside_ringPhase b rx s.advanceInstant⟩

/-! ## A good frame at an inserted station (R23, R33) -/

/-- The ring of an inserted station once a good frame is counted, before the emitter check and the cells (R22, R33). -/
def heardGood (f : WireFrame) (s : State) : Ring :=
  ((({ s.ring.advanceTag with silent := 0, breakHead := false }).countRun f).adoption s.self f).countGood

/-- R33, R35, R44: a good frame counts, and the emitter check and the cells move the roster. -/
theorem ringPhase_of_good (b : Bool) {f : WireFrame} {s : State} (on : s.ring.state.onRing = true)
    (h : (s.heard f).good f = true) :
    ∃ v : State, v.ring = s.heardGood f ∧ v.RosterMoved (s.ringPhase b (some f)).state := by
  obtain ⟨u, hu⟩ : ∃ u : State, u = { s with ring := s.ring.advanceTag } := ⟨_, rfl⟩
  have phase : s.ringPhase b (some f) = State.goodArrival b f
      { u.endSilence with ring := (u.endSilence.ring.countRun f).adoption u.endSilence.self f } := by
    rw [ringPhase_of_arrival b f on, ← hu]
    exact arrive_of_good b (by rw [hu]; exact h)
  refine ⟨_, ?_, phase ▸ roster_goodArrival b f _⟩
  show ((u.endSilence.ring.countRun f).adoption u.endSilence.self f).countGood = _
  rw [self_of_outside u.outside_endSilence, ring_endSilence, hu]
  rfl

/-- R27: a settle interval just started is that of the present set, and a later change of the set starts one afresh. -/
theorem RosterMoved.settle_eq {v t : State} (h : v.RosterMoved t) (k : v.ring.settle = settleLength v.ring.present) :
    t.ring.settle = settleLength t.ring.present := by
  rcases h.settle with ⟨present, settle⟩ | new
  · rw [settle, present, k]
  · exact new

end State

/-- R23: what an INSERTED station takes at the eighth frame of a run with a lower origin. -/
theorem Ring.adoption_inserted {r : Ring} {f : WireFrame} (state : r.state = .inserted) (run : r.run = 8)
    (lower : f.origin.toNat < r.origin) (self : Nat) :
    r.adoption self f = { r.adopt f with badRun := 0, settle := settleLength r.present } := by
  unfold Ring.adoption
  rw [state]
  exact if_pos ⟨run, lower⟩

/-- R22: what a RELOCKING station takes is a numbering alone. -/
theorem Ring.adoption_relocking {r : Ring} (state : r.state = .relocking) (self : Nat) (f : WireFrame) :
    ∃ tag origin, r.adoption self f = { r with tag := tag, origin := origin } := by
  have e : r.adoption self f = r.adoptRelocking self f := by
    unfold Ring.adoption
    rw [state]
  rw [e]
  unfold Ring.adoptRelocking
  split
  · exact ⟨_, _, rfl⟩
  · exact ⟨r.tag, r.origin, rfl⟩

/-- R33: in INSERTED a good frame ends the bad-frame run. -/
theorem Ring.countGood_inserted {r : Ring} (state : r.state = .inserted) : r.countGood = { r with badRun := 0 } := by
  unfold Ring.countGood
  rw [state]

/-- R33: the 64th good frame in a row. -/
theorem Ring.countGood_relocking {r : Ring} (state : r.state = .relocking) (last : r.goodRun = 63) :
    r.countGood = { r with state := .inserted, badRun := 0, goodRun := 64, settle := settleLength r.present } := by
  unfold Ring.countGood
  rw [state]
  dsimp only
  rw [last]
  rfl

end Sys2Proof.Machine

open Sys2Proof Sys2Proof.Machine

/-- Settles O28: the ring as the frame is counted, which the emitter check and the cells leave but for the roster. -/
theorem adoptionAndRelocking : Obligations.AdoptionAndRelocking := by
  refine ⟨fun s f b live inserted run lower => ?_, fun s f live inserted last bad => ?_,
    fun s f b live relocking last good => ?_⟩
  · have exec_eq : exec (.tagAdoption f b) s = .next (s.ringAlone b (some f)) :=
      congrArg _ (State.part_of_clocked live (by simp [inserted, run, lower]) _)
    have heard : s.heard f = { (s.ring.advanceTag.countRun f).adopt f with
        badRun := 0, settle := settleLength s.ring.present } :=
      Ring.adoption_inserted (r := s.ring.advanceTag.countRun f) inserted run lower s.self
    obtain ⟨check, header⟩ := Ring.right_of_run (r := s.ring.advanceTag) (f := f) (by omega)
    have good : (s.heard f).good f = true := by
      rw [heard]
      exact Ring.good_adopt check header (s.ring.advanceTag.countRun f)
    have on : s.ring.state.onRing = true := by rw [inserted]; rfl
    obtain ⟨v, ring, moved⟩ := State.ringPhase_of_good b (s := s.advanceInstant) on good
    have counted : s.advanceInstant.heardGood f = { s.ring with
        tag := f.tag + 1, origin := f.origin.toNat, badRun := 0, settle := settleLength s.ring.present, silent := 0,
        breakHead := false, run := (s.ring.advanceTag.countRun f).run, prev := some (f.tag, f.origin) } := by
      have e : s.advanceInstant.heardGood f =
        ((({ s.ring.advanceTag with silent := 0, breakHead := false }).countRun f).adoption s.self f).countGood := rfl
      rw [e, Ring.adoption_inserted (by exact inserted) (by exact run) (by exact lower)]
      exact Ring.countGood_inserted (by exact inserted)
    have settle := moved.settle_eq (by rw [ring, counted])
    have kept := moved.ring
    rw [ring, counted] at kept
    obtain ⟨pos, play, outside⟩ := State.ringAlone_frame b (some f) s
    exact ⟨_, exec_eq, by unfold State.ringAlone; rw [kept], by unfold State.ringAlone; rw [kept],
      by unfold State.ringAlone; rw [kept], settle, pos, play, outside⟩
  · have exec_eq : exec (.relock f) s = .next (s.ringAlone true (some f)) :=
      congrArg _ (State.part_of_clocked live (by simp [inserted, last, bad]) _)
    have on : s.ring.state.onRing = true := by rw [inserted]; rfl
    obtain ⟨_, ring, flag, relock⟩ := State.ringPhase_of_bad true (s := s.advanceInstant) on bad
    have relocks : s.ring.state = .inserted ∧ 15 ≤ s.ring.badRun := ⟨inserted, by omega⟩
    obtain ⟨pos, _, outside⟩ := State.ringAlone_frame true (some f) s
    refine ⟨_, exec_eq, ?_, ?_, relock inserted (by show 15 ≤ s.ring.badRun; omega), flag, ?_, pos, outside⟩
    all_goals unfold State.ringAlone; rw [ring]
    · exact if_pos relocks
    · exact congrArg (· + 1) last
    · rfl
  · have exec_eq : exec (.relockComplete f b) s = .next (s.ringAlone b (some f)) :=
      congrArg _ (State.part_of_clocked live (by simp [relocking, last, good]) _)
    have on : s.ring.state.onRing = true := by rw [relocking]; rfl
    obtain ⟨v, ring, moved⟩ := State.ringPhase_of_good b (s := s.advanceInstant) on good
    obtain ⟨tag, origin, adopted⟩ := Ring.adoption_relocking
      (r := ({ s.ring.advanceTag with silent := 0, breakHead := false }).countRun f) relocking s.self f
    have counted : s.advanceInstant.heardGood f =
        { ({ s.ring.advanceTag with silent := 0, breakHead := false }).countRun f with
          tag := tag, origin := origin, state := .inserted, badRun := 0, goodRun := 64,
          settle := settleLength s.ring.present } := by
      have e : s.advanceInstant.heardGood f =
        ((({ s.ring.advanceTag with silent := 0, breakHead := false }).countRun f).adoption s.self f).countGood := rfl
      rw [e, adopted]
      exact Ring.countGood_relocking (by exact relocking) (by exact last)
    have settle := moved.settle_eq (by rw [ring, counted]; rfl)
    have kept := moved.ring
    have state := moved.state
    rw [ring, counted] at kept state
    obtain ⟨pos, _, outside⟩ := State.ringAlone_frame b (some f) s
    refine ⟨_, exec_eq, ?_, by unfold State.ringAlone; rw [kept], settle, pos, outside⟩
    rcases state with e | ⟨conflict, flag, _⟩
    · exact .inl e
    · exact .inr ⟨conflict, flag⟩
end

section
/-!
The tap of a LOCKING station (R21, R36): each frame starts the counts of the JOIN, and the 64th good frame ends the lock phase.
-/

set_option Elab.async false

namespace Sys2Proof.Machine

/-! ## What every sample event of LOCKING keeps -/

/-- The JOIN's count of sample events, and whether a frame has reached the tap, are as they were. -/
structure Ring.SameClock (r r' : Ring) : Prop where
  heardAny : r'.join.heardAny = r.join.heardAny
  time     : r'.join.time = r.join.time

theorem Ring.SameClock.andThen {a b c : Ring} (h : SameClock a b) (k : SameClock b c) : SameClock a c :=
  ⟨k.heardAny.trans h.heardAny, k.time.trans h.time⟩

@[simp] theorem Ring.join_adoptLocking (f : WireFrame) (r : Ring) : (r.adoptLocking f).join = r.join := by
  unfold Ring.adoptLocking
  split <;> rfl

theorem Ring.state_adoptLocking (f : WireFrame) (r : Ring) : (r.adoptLocking f).state = r.state := by
  unfold Ring.adoptLocking
  split <;> rfl

/-- R22: the adoption of LOCKING does not look at the JOIN. -/
theorem Ring.adoptLocking_join (f : WireFrame) (j : Join) (r : Ring) :
    Ring.adoptLocking f { r with join := j } = { r.adoptLocking f with join := j } := by
  by_cases h : 8 ≤ r.run ∧ r.good f = false
  · rw [show r.adoptLocking f = r.adopt f from if_pos h]
    exact if_pos h
  · rw [show r.adoptLocking f = r from if_neg h]
    exact if_neg h

namespace State

/-- R37, R38: insertion leaves the JOIN and the numbering. -/
theorem join_insert (p : StationSet) (r : JoinResult) (s : State) : (s.insert p r).ring.join = s.ring.join := by
  rw [ring_insert]

theorem clock_tapGood (f : WireFrame) (s : State) : s.ring.SameClock (s.tapGood f).ring := by
  unfold State.tapGood
  dsimp only
  split
  · exact ⟨rfl, rfl⟩
  · split
    · unfold State.listen
      dsimp only
      split <;> exact ⟨rfl, rfl⟩
    · unfold Join.countLock
      split <;> exact ⟨rfl, rfl⟩

theorem clock_tapOther (s : State) : s.ring.SameClock s.tapOther.ring := by
  unfold State.tapOther
  split <;> exact ⟨rfl, rfl⟩

theorem clock_listenStep (was : Bool) (s : State) : s.ring.SameClock (s.listenStep was).ring := by
  unfold State.listenStep
  split
  · dsimp only
    split
    · exact ⟨by rw [join_insert], by rw [join_insert]⟩
    · exact ⟨rfl, rfl⟩
  · exact ⟨rfl, rfl⟩

theorem clock_firstInStep (s : State) : s.ring.SameClock s.firstInStep.ring := by
  unfold State.firstInStep
  split
  · exact ⟨by rw [join_insert], by rw [join_insert]⟩
  · exact ⟨rfl, rfl⟩

/-- R38: whatever frame reaches the tap, one has. -/
theorem clock_tap (f : WireFrame) (s : State) :
    (s.tap f).ring.join.heardAny = true ∧ (s.tap f).ring.join.time = s.ring.join.time := by
  obtain ⟨u, hu⟩ : ∃ u : State, u = { s with ring := { (s.ring.countRun f).adoptLocking f with
      join := { ((s.ring.countRun f).adoptLocking f).join with heardAny := true } } } := ⟨_, rfl⟩
  have kept : u.ring.SameClock (s.tap f).ring := by
    have e : s.tap f = if u.ring.good f then u.tapGood f else u.tapOther := by
      rw [hu]
      rfl
    rw [e]
    split
    · exact clock_tapGood f u
    · exact clock_tapOther u
  have time : u.ring.join.time = s.ring.join.time := by
    rw [hu]
    show ((s.ring.countRun f).adoptLocking f).join.time = _
    rw [Ring.join_adoptLocking]
    rfl
  exact ⟨kept.heardAny.trans (by rw [hu]), kept.time.trans time⟩

/-- R36, R38: a frame in LOCKING is heard, and the JOIN is one sample event older. -/
theorem clock_lockingStep (f : WireFrame) (s : State) : (s.lockingStep (some f)).ring.join.heardAny = true ∧
    (s.lockingStep (some f)).ring.join.time = s.ring.join.time + 1 := by
  unfold State.lockingStep
  dsimp only
  generalize hu : ({ s with ring := { s.ring with join := { s.ring.join with time := s.ring.join.time + 1 } } } : State) = u
  obtain ⟨heard, time⟩ := clock_tap f u
  have kept := (clock_listenStep s.ring.join.listening (u.tap f)).andThen (clock_firstInStep _)
  exact ⟨kept.heardAny.trans heard, (kept.time.trans time).trans (by rw [← hu])⟩

/-! ## A good frame of the lock phase (R36) -/

/-- R38: a station that a frame has reached does not become the first in. -/
theorem firstInStep_of_heard {s : State} (h : s.ring.join.heardAny = true) : s.firstInStep = s :=
  if_neg fun ⟨_, unheard, _⟩ => by rw [h] at unheard; cases unheard

/-- R36: a frame with the own number fails the JOIN. -/
theorem tapGood_of_self {f : WireFrame} {s : State} (h : heardSelf s.self f = true) : s.tapGood f =
    State.failJoin .duplicate
      { s with ring := { s.ring with join := { s.ring.join with upstream := some f.emitter.toNat } } } := if_pos h

/-- R36: the 64th good frame in a row starts the listen phase. -/
theorem tapGood_of_last {f : WireFrame} {s : State} (other : heardSelf s.self f = false)
    (listening : s.ring.join.listening = false) (last : s.ring.join.good = 63) :
    s.tapGood f = { s with ring := { s.ring with join := { s.ring.join with
      upstream := some f.emitter.toNat, good := 64, listening := true, listenTime := 0 } } } := by
  unfold State.tapGood Join.countLock
  simp [other, listening, last]

/-- R36: RING's part at a good frame of the lock phase is what that frame on the tap does to the numbered ring. -/
theorem ringAlone_of_lock (b : Bool) {f : WireFrame} {s : State} (locking : s.ring.state = .locking)
    (listening : s.ring.join.listening = false) (good : ((s.ring.advanceTag.countRun f).adoptLocking f).good f = true) :
    s.ringAlone b (some f) = State.tapGood f { s.advanceInstant with
      ring := { (s.ring.advanceTag.countRun f).adoptLocking f with
        join := { s.ring.join with time := s.ring.join.time + 1, heardAny := true } } } := by
  obtain ⟨u, hu⟩ : ∃ u : State, u = { s.advanceInstant with
    ring := { s.ring.advanceTag with join := { s.ring.join with time := s.ring.join.time + 1 } } } := ⟨_, rfl⟩
  have numbered : (u.ring.countRun f).adoptLocking f = { (s.ring.advanceTag.countRun f).adoptLocking f with
      join := { s.ring.join with time := s.ring.join.time + 1 } } := by
    rw [hu]
    exact Ring.adoptLocking_join f _ (s.ring.advanceTag.countRun f)
  have tapped : u.tap f = State.tapGood f { s.advanceInstant with
      ring := { (s.ring.advanceTag.countRun f).adoptLocking f with
        join := { s.ring.join with time := s.ring.join.time + 1, heardAny := true } } } := by
    unfold State.tap
    dsimp only
    rw [numbered, hu]
    exact if_pos good
  have alone : s.ringAlone b (some f) = ((u.tap f).listenStep false).firstInStep := by
    unfold State.ringAlone
    rw [ringPhase_of_locking b (some f) (s := s.advanceInstant) locking, hu, ← listening]
    rfl
  have idle : (u.tap f).listenStep false = u.tap f := if_neg Bool.false_ne_true
  rw [alone, idle, firstInStep_of_heard (clock_tap f u).1, tapped]

end State

/-- R21: the numbering by which a frame is good is one behind it. -/
theorem Ring.numbering_of_good {f : WireFrame} {r : Ring} (h : r.good f = true) :
    r.tag = f.tag + 1 ∧ r.origin = f.origin.toNat := by
  unfold Ring.good at h
  simp only [Bool.and_eq_true, beq_iff_eq] at h
  obtain ⟨⟨_, tag⟩, origin⟩ := h
  exact ⟨tag.symm, origin.symm⟩

end Sys2Proof.Machine

open Sys2Proof Sys2Proof.Machine

/-- Settles O33: the clock of the JOIN under every part of LOCKING, and the 64th good frame as the tap takes it. -/
theorem lockPhase : Obligations.LockPhase := by
  refine ⟨fun s f p live locking => ?_, fun s f live locking listening last good => ?_⟩
  · obtain ⟨_, _, _, run, _⟩ := State.exec_sampled live p
    obtain ⟨u, out, parts⟩ := State.exists_sampleParts { p with rx := some f } s
    have phase := parts.phase
    rw [State.ringPhase_of_locking _ _ (by rw [parts.ring_before]; exact locking)] at phase
    obtain ⟨heard, time⟩ := State.clock_lockingStep f { u with ring := u.ring.advanceTag }
    refine ⟨_, run f, ?_, ?_, ?_, parts.stem_zero (by rw [← phase]), parts.outside⟩
    · rw [parts.behind.ring, ← phase]
      exact heard
    · rw [parts.behind.ring, ← phase]
      refine time.trans ?_
      show u.ring.join.time + 1 = _
      rw [parts.ring_before]
    · rw [parts.emitted, locking]
      rfl
  · have exec_eq : exec (.lockPhaseEnd f) s = .next (s.ringAlone true (some f)) :=
      congrArg _ (State.part_of_clocked live (by simp [locking, listening, last, good]) _)
    obtain ⟨tag, origin⟩ := Ring.numbering_of_good good
    obtain ⟨_, _, outside⟩ := State.ringAlone_frame true (some f) s
    have alone := State.ringAlone_of_lock true locking listening good
    have state : ((s.ring.advanceTag.countRun f).adoptLocking f).state = .locking :=
      (Ring.state_adoptLocking f (s.ring.advanceTag.countRun f)).trans locking
    refine ⟨fun other => ⟨_, exec_eq, ?_⟩, fun self => ⟨_, exec_eq, ?_⟩⟩
    · rw [State.tapGood_of_last (by exact other) (by exact listening) (by exact last)] at alone
      rw [alone] at outside ⊢
      exact ⟨state, rfl, rfl, rfl, origin, tag, outside⟩
    · rw [State.tapGood_of_self (by exact self)] at alone
      rw [alone] at outside ⊢
      exact ⟨rfl, rfl, rfl, outside⟩
end

section
/-!
The relay inserts (R37, R38): after the listen phase of a JOIN, or as the first station of the ring.
-/

set_option Elab.async false

namespace Sys2Proof.Machine

/-- R27: a station alone settles for 4 sp. -/
theorem settleLength_single {x : Nat} (h : x < 24) : settleLength (StationSet.add 0 x) = 4 := by
  have each : ∀ x : Fin 24, settleLength (StationSet.add 0 x.val) = 4 := by decide
  exact each ⟨x, h⟩

/-- R37: the present set of a JOIN whose tap has heard a frame. -/
theorem Join.has_presentAfter {j : Join} {u : Nat} (h : j.upstream = some u) {self x : Nat} (hx : x < 24) :
    StationSet.has (j.presentAfter self) x = true ↔ StationSet.has j.heard x = true ∨ x = u ∨ x = self := by
  unfold Join.presentAfter
  rw [h]
  simp only [StationSet.has_add, Bool.or_eq_true, Bool.and_eq_true, decide_eq_true_eq]
  constructor
  · rintro ((heard | ⟨_, rfl⟩) | ⟨_, rfl⟩)
    · exact .inl heard
    · exact .inr (.inr rfl)
    · exact .inr (.inl rfl)
  · rintro (heard | rfl | rfl)
    · exact .inl (.inl heard)
    · exact .inr ⟨hx, rfl⟩
    · exact .inl (.inr ⟨hx, rfl⟩)

/-- R55, R98: the holdings timer is 0 and the HOLDINGS waits, whatever ECHOs are queued behind it. -/
theorem Desk.queueHoldings_note (e : Env) (d : Desk) : (d.queueHoldings e).note.timer = 0 ∧
    (d.queueHoldings e).note.waiting? .holdings = some { slot := .holdings, kind := .holdings, payload := 0 } := by
  have echoes := Desk.AutoFrame.each e.homedBuses Desk.queueEcho Desk.frame_queueEcho
    { d with note := { d.note.queue .holdings .holdings 0 with timer := 0 } }
  refine ⟨echoes.timer, (echoes.waiting .holdings nofun).trans ?_⟩
  exact Note.waiting?_queue_self .holdings .holdings 0 d.note

namespace State

/-- R27: another present set raises ROSTER_CHANGE. -/
theorem flag_applyRoster {now : StationSet} {s : State} (h : now ≠ s.ring.present) :
    (s.applyRoster now).flag .rosterChange = true := by
  rw [applyRoster_of_ne h]
  refine (Desk.FlagFrame.each _ _ (fun x d => Desk.flags_handRemoved _ x d) _).stay _ ?_
  exact (Desk.flag_raise _ _ _).trans (by simp)

/-- What a station is that has just inserted with the present set `p`, and how its JOIN ended (R27, R37, R38, R55). -/
structure Inserted (p : StationSet) (r : JoinResult) (s t : State) : Prop where
  ring    : t.ring = { s.ring with state := .inserted, present := p, settle := settleLength p }
  flag    : t.flag .rosterChange = true
  join    : t.desk.ev.join = some r
  timer   : t.desk.note.timer = 0
  waiting : (t.desk.note.waiting? .holdings).isSome = true

theorem inserted_insert {p : StationSet} (r : JoinResult) {s : State} (h : p ≠ s.ring.present) :
    Inserted p r s (s.insert p r) := by
  obtain ⟨u, hu⟩ : ∃ u : State, u = State.applyRoster p { s with ring := { s.ring with state := .inserted } } := ⟨_, rfl⟩
  obtain ⟨timer, waiting⟩ := Desk.queueHoldings_note u.env u.desk
  have raised : u.flag .rosterChange = true := by
    rw [hu]
    exact flag_applyRoster h
  have e : s.insert p r = { u.onDesk Desk.queueHoldings with desk := (u.desk.queueHoldings u.env).completeJoin r } := by
    rw [hu]
    rfl
  refine ⟨by rw [ring_insert, if_neg h], ?_, by rw [e]; rfl, by rw [e]; exact timer, ?_⟩
  · rw [e]
    exact (Desk.flags_queueHoldings u.env u.desk).stay _ raised
  · rw [e]
    exact congrArg Option.isSome waiting

/-- A set with the station itself is not the empty one. -/
theorem ne_zero_of_has {p : StationSet} {x : Nat} (h : StationSet.has p x = true) : p ≠ 0 := by
  rintro rfl
  rw [StationSet.has_zero] at h
  cases h

/-- R36 to R38: a silent sample event of LOCKING. -/
theorem ringAlone_of_silent_lock (b : Bool) {s : State} (locking : s.ring.state = .locking) : s.ringAlone b none =
    ((State.tapOther { s.advanceInstant with ring := { s.ring.advanceTag with
      run := 0, join := { s.ring.join with time := s.ring.join.time + 1 } } }).listenStep
        s.ring.join.listening).firstInStep := by
  unfold State.ringAlone
  rw [ringPhase_of_locking b none (s := s.advanceInstant) locking]
  rfl

/-- R37: the 1024th sample event of the listen phase. -/
theorem listenStep_of_last {s : State} (locking : s.ring.state = .locking) (last : s.ring.join.listenTime = 1023) :
    s.listenStep true = State.insert (s.ring.join.presentAfter s.self) .joined
      { s with ring := { s.ring with join := { s.ring.join with listenTime := 1024 } } } := by
  have begun : (true && s.ring.state == .locking) = true := by rw [locking]; rfl
  unfold State.listenStep
  rw [if_pos begun, last]
  rfl

/-- R38: the 4096th sample event with no frame on the tap. -/
theorem firstInStep_of_last {s : State} (locking : s.ring.state = .locking) (unheard : s.ring.join.heardAny = false)
    (last : 4096 ≤ s.ring.join.time) : s.firstInStep =
      State.insert (StationSet.add 0 s.self) .firstIn { s with ring := { s.ring with origin := s.self } } :=
  if_pos ⟨locking, unheard, last⟩

/-- R38: only a LOCKING station becomes the first in. -/
theorem firstInStep_of_inserted {s : State} (h : s.ring.state = .inserted) : s.firstInStep = s :=
  if_neg fun ⟨locking, _⟩ => by rw [h] at locking; cases locking

end State

end Sys2Proof.Machine

open Sys2Proof Sys2Proof.Machine

/-- Settles O34: both ways by which the relay inserts, through what an insertion leaves. -/
theorem insertionByJoin : Obligations.InsertionByJoin := by
  refine ⟨fun s u live below locking empty listening last upstream => ?_,
    fun s live below locking empty unheard listening last => ?_⟩
  · have exec_eq : exec (.listenPhaseEnd none) s = .next (s.ringAlone true none) :=
      congrArg _ (State.part_of_clocked live (by simp [locking, listening, last]) _)
    obtain ⟨_, _, outside⟩ := State.ringAlone_frame true none s
    obtain ⟨v, hv⟩ : ∃ v : State, v = { s.advanceInstant with ring := { s.ring.advanceTag with
      run := 0, join := { s.ring.join with time := s.ring.join.time + 1 } } } := ⟨_, rfl⟩
    have heard : v.tapOther = v := if_pos (by rw [hv]; exact listening)
    have heard_from : v.ring.join.upstream = some u := by rw [hv]; exact upstream
    have inserted := State.inserted_insert (p := v.ring.join.presentAfter s.self) .joined
      (s := { v with ring := { v.ring with join := { v.ring.join with listenTime := 1024 } } })
      (by
        show _ ≠ v.ring.present
        rw [show v.ring.present = 0 by rw [hv]; exact empty]
        exact State.ne_zero_of_has (State.has_presentAfter_self below _))
    have alone : s.ringAlone true none = State.insert (v.ring.join.presentAfter s.self) .joined
        { v with ring := { v.ring with join := { v.ring.join with listenTime := 1024 } } } := by
      rw [State.ringAlone_of_silent_lock true locking, ← hv, heard, listening,
        State.listenStep_of_last (by rw [hv]; exact locking) (by rw [hv]; exact last),
        show v.self = s.self by rw [hv]; rfl]
      exact State.firstInStep_of_inserted (by rw [inserted.ring])
    rw [← alone] at inserted
    refine ⟨_, exec_eq, by rw [inserted.ring], fun x hx => ?_, by rw [inserted.ring]; rfl, ?_, ?_, inserted.flag,
      inserted.join, inserted.timer, inserted.waiting, outside⟩
    · rw [inserted.ring, Join.has_presentAfter heard_from hx, show v.ring.join.heard = s.ring.join.heard by rw [hv]]
    all_goals rw [inserted.ring, hv]; rfl
  · have exec_eq : exec .firstIn s = .next (s.ringAlone true none) :=
      congrArg _ (State.part_of_clocked live (by simp [locking, unheard, last]) _)
    obtain ⟨_, _, outside⟩ := State.ringAlone_frame true none s
    obtain ⟨v, hv⟩ : ∃ v : State, v = { s.advanceInstant with ring := { s.ring.advanceTag with
      run := 0, join := { s.ring.join with time := s.ring.join.time + 1, good := 0 } } } := ⟨_, rfl⟩
    have silent : State.tapOther { s.advanceInstant with ring := { s.ring.advanceTag with
        run := 0, join := { s.ring.join with time := s.ring.join.time + 1 } } } = v := by
      rw [hv]
      exact if_neg (by show ¬ s.ring.join.listening = true; rw [listening]; exact Bool.false_ne_true)
    have idle : v.listenStep false = v := if_neg Bool.false_ne_true
    have inserted := State.inserted_insert (p := StationSet.add 0 s.self) .firstIn
      (s := { v with ring := { v.ring with origin := s.self } })
      (by
        show _ ≠ v.ring.present
        rw [show v.ring.present = 0 by rw [hv]; exact empty]
        exact State.ne_zero_of_has (x := s.self) (by simp [below]))
    have alone : s.ringAlone true none = State.insert (StationSet.add 0 s.self) .firstIn
        { v with ring := { v.ring with origin := s.self } } := by
      rw [State.ringAlone_of_silent_lock true locking, silent, listening, idle, State.firstInStep_of_last
        (by rw [hv]; exact locking) (by rw [hv]; exact unheard) (by rw [hv]; show 4096 ≤ s.ring.join.time + 1; omega),
        show v.self = s.self by rw [hv]; rfl]
    rw [← alone] at inserted
    refine ⟨_, exec_eq, by rw [inserted.ring], by rw [inserted.ring], ?_, fun x hx => ?_, ?_, inserted.flag,
      inserted.join, inserted.timer, inserted.waiting, outside⟩
    · rw [inserted.ring, hv]
      rfl
    · rw [inserted.ring, StationSet.has_add, StationSet.has_zero, decide_eq_true below, Bool.true_and, Bool.false_or,
        decide_eq_true_iff]
      exact eq_comm
    · rw [inserted.ring]
      exact settleLength_single below
end

section
/-!
A lane plan as CONFIGURE reads it (R24, R25, 11.4), bus record by bus record.
-/

set_option Elab.async false

namespace Sys2Proof.Machine

theorem rateOfCode?_isSome_iff (c : Byte) : (rateOfCode? c).isSome = true ↔ c.toNat < 4 := by
  unfold rateOfCode?
  split <;> simp_all
  omega

/-- 11.4: the tests of a bus record by itself. -/
theorem readBus_isSome_iff (first width home z : Byte) : (readBus first width home z).isSome = true ↔
    1 ≤ width.toNat ∧ width.toNat ≤ 16 ∧ first.toNat + width.toNat - 1 ≤ 127 ∧ home.toNat ≤ 23 ∧ z.toNat % 16 ≤ 3 := by
  have zone : (z.extractLsb' 0 4).toNat = z.toNat % 16 := by simp
  unfold readBus
  dsimp only
  split
  · next low =>
    split
    · next ranges =>
      obtain ⟨wide, narrow, lanes, station⟩ := ranges
      exact iff_of_true rfl ⟨wide, narrow, lanes, station, by omega⟩
    · next ranges =>
      exact iff_of_false nofun fun ⟨wide, narrow, lanes, station, _⟩ => ranges ⟨wide, narrow, lanes, station⟩
  · next high => exact iff_of_false nofun fun ⟨_, _, _, _, low⟩ => high (by omega)

/-- 11.4: the lanes of a bus are those its record names. -/
theorem readBus_lanes {first width home z : Byte} {x : Bus} (h : readBus first width home z = some x) :
    x.first = first.toNat ∧ x.width = width.toNat := by
  unfold readBus at h
  dsimp only at h
  split at h
  · split at h
    · cases h
      exact ⟨rfl, rfl⟩
    · cases h
  · cases h

/-- The bus record number `b` of a list of records. -/
def busAt (records : List Byte) (b : Nat) : Option Bus :=
  readBus (records.getD (4 * b) 0) (records.getD (4 * b + 1) 0) (records.getD (4 * b + 2) 0) (records.getD (4 * b + 3) 0)

/-- The records of n + 1 buses are one record and those of n buses. -/
theorem exists_record {n : Nat} {records : List Byte} (h : records.length = 4 * (n + 1)) :
    ∃ a b c d rest, records = a :: b :: c :: d :: rest ∧ rest.length = 4 * n := by
  match records, h with
  | a :: b :: c :: d :: rest, h =>
    simp only [List.length_cons] at h
    exact ⟨a, b, c, d, rest, rfl, by omega⟩

theorem readBuses_cons (a b c d : Byte) (rest : List Byte) : readBuses (a :: b :: c :: d :: rest) =
    (readBus a b c d).bind fun x => (readBuses rest).map (x :: ·) := by
  rw [readBuses]
  rcases readBus a b c d with _ | x
  · rfl
  · rcases readBuses rest <;> rfl

/-- Every record is read by itself. -/
theorem readBuses_isSome_iff {n : Nat} {records : List Byte} (h : records.length = 4 * n) :
    (readBuses records).isSome = true ↔ ∀ b < n, (busAt records b).isSome = true := by
  induction n generalizing records with
  | zero =>
    rw [List.length_eq_zero_iff.mp h]
    exact iff_of_true rfl nofun
  | succ n ih =>
    obtain ⟨a, b, c, d, rest, rfl, length⟩ := exists_record h
    have head : busAt (a :: b :: c :: d :: rest) 0 = readBus a b c d := rfl
    have tail : ∀ k, busAt (a :: b :: c :: d :: rest) (k + 1) = busAt rest k := fun _ => rfl
    have both : (readBuses (a :: b :: c :: d :: rest)).isSome = ((readBus a b c d).isSome && (readBuses rest).isSome) := by
      rw [readBuses_cons]
      rcases readBus a b c d with _ | x
      · rfl
      · exact Option.isSome_map
    rw [both, Bool.and_eq_true, ih length, Nat.forall_lt_succ_left, head]
    simp only [tail]

/-- The buses of a plan are its records, in their order. -/
theorem getElem_readBuses {n : Nat} {records : List Byte} {buses : List Bus} (h : records.length = 4 * n)
    (read : readBuses records = some buses) :
    buses.length = n ∧ ∀ (b : Nat) (below : b < buses.length), busAt records b = some buses[b] := by
  induction n generalizing records buses with
  | zero =>
    rw [List.length_eq_zero_iff.mp h] at read
    cases read
    exact ⟨rfl, nofun⟩
  | succ n ih =>
    obtain ⟨a, b, c, d, rest, rfl, length⟩ := exists_record h
    rw [readBuses_cons, Option.bind_eq_some_iff] at read
    obtain ⟨x, head, read⟩ := read
    obtain ⟨xs, tail, rfl⟩ := Option.map_eq_some_iff.mp read
    obtain ⟨count, each⟩ := ih length tail
    refine ⟨congrArg (· + 1) count, fun k below => ?_⟩
    match k, below with
    | 0, _ => exact head
    | k + 1, below => exact each k (Nat.lt_of_succ_lt_succ below)

/-- R24: two buses are apart exactly when no lane is in both. -/
theorem Bus.apart_iff {x y : Bus} (hx : 1 ≤ x.width) (hy : 1 ≤ y.width) : x.apart y = true ↔
    ∀ l, ¬ (x.first ≤ l ∧ l < x.first + x.width ∧ y.first ≤ l ∧ l < y.first + y.width) := by
  unfold Bus.apart
  rw [Bool.or_eq_true, decide_eq_true_iff, decide_eq_true_iff]
  constructor
  · omega
  · intro no
    have low := no x.first
    have high := no y.first
    omega

/-- R24: the test of the lanes, on the records of the buses. -/
theorem pairwise_apart_iff {n : Nat} {records : List Byte} {buses : List Bus} (h : records.length = 4 * n)
    (read : readBuses records = some buses) : buses.Pairwise (fun x y => x.apart y = true) ↔
      ∀ b c l, b < c → c < n →
        ¬ ((records.getD (4 * b) 0).toNat ≤ l ∧
            l < (records.getD (4 * b) 0).toNat + (records.getD (4 * b + 1) 0).toNat ∧
          (records.getD (4 * c) 0).toNat ≤ l ∧
            l < (records.getD (4 * c) 0).toNat + (records.getD (4 * c + 1) 0).toNat) := by
  obtain ⟨count, each⟩ := getElem_readBuses h read
  have lanes : ∀ b (below : b < buses.length), buses[b].first = (records.getD (4 * b) 0).toNat ∧
      buses[b].width = (records.getD (4 * b + 1) 0).toNat ∧ 1 ≤ buses[b].width := by
    intro b below
    obtain ⟨first, width⟩ := readBus_lanes (each b below)
    obtain ⟨wide, _⟩ := (readBus_isSome_iff _ _ _ _).mp (Option.isSome_of_eq_some (each b below))
    exact ⟨first, width, width ▸ wide⟩
  rw [List.pairwise_iff_getElem]
  constructor
  · intro apart b c l lt below
    obtain ⟨fb, wb, pb⟩ := lanes b (by omega)
    obtain ⟨fc, wc, pc⟩ := lanes c (by omega)
    have no := (Bus.apart_iff pb pc).mp (apart b c (by omega) (by omega) lt) l
    rw [fb, wb, fc, wc] at no
    exact no
  · intro no b c hb hc lt
    obtain ⟨fb, wb, pb⟩ := lanes b hb
    obtain ⟨fc, wc, pc⟩ := lanes c hc
    refine (Bus.apart_iff pb pc).mpr fun l => ?_
    rw [fb, wb, fc, wc]
    exact no b c l lt (by omega)

/-- R24 step 3: a plan is read when its rate, its records and its lanes pass. -/
theorem readPlan_isSome_iff {rate n : Byte} {rest : List Byte} (count : n.toNat ≤ 24) (length : rest.length = 4 * n.toNat) :
    (readPlan (rate :: n :: rest)).isSome = true ↔ (rateOfCode? rate).isSome = true ∧
      ∃ buses, readBuses rest = some buses ∧ buses.Pairwise fun x y => x.apart y = true := by
  unfold readPlan
  dsimp only
  rw [if_pos ⟨count, length⟩]
  rcases rateOfCode? rate with _ | r
  · exact iff_of_false nofun fun h => nomatch h.1
  · rcases readBuses rest with _ | buses
    · exact iff_of_false nofun fun ⟨_, _, h, _⟩ => nomatch h
    · dsimp only
      split
      · next apart => exact iff_of_true rfl ⟨rfl, buses, rfl, apart⟩
      · next near =>
        refine iff_of_false nofun fun ⟨_, xs, h, apart⟩ => near ?_
        cases h
        exact apart

/-- R24: a plan of the wrong length, or of too many buses, is not read. -/
theorem readPlan_isSome_length {p : List Byte} (h : (readPlan p).isSome = true) :
    ∃ rate n rest, p = rate :: n :: rest ∧ n.toNat ≤ 24 ∧ rest.length = 4 * n.toNat := by
  match p, h with
  | rate :: n :: rest, h =>
    refine ⟨rate, n, rest, rfl, ?_⟩
    by_contra no
    unfold readPlan at h
    dsimp only at h
    rw [if_neg no] at h
    cases h

end Sys2Proof.Machine

open Sys2Proof Sys2Proof.Machine

/-- Settles O29: the two sides name the same bytes once the length is right, record by record and pair by pair. -/
theorem planTests : Obligations.PlanTests := by
  have tests : ∀ {rate n : Byte} {rest : List Byte}, n.toNat ≤ 24 → rest.length = 4 * n.toNat →
      ((readPlan (rate :: n :: rest)).isSome = true ↔ rate.toNat < 4 ∧
        (∀ b < n.toNat, (busAt rest b).isSome = true) ∧
        ∃ buses, readBuses rest = some buses ∧ buses.Pairwise fun x y => x.apart y = true) := by
    intro rate n rest count length
    rw [readPlan_isSome_iff count length, rateOfCode?_isSome_iff, ← readBuses_isSome_iff length]
    refine and_congr_right fun _ => ⟨fun h => ⟨?_, h⟩, fun h => h.2⟩
    obtain ⟨buses, read, _⟩ := h
    rw [read]
    rfl
  intro p
  constructor
  · intro some
    obtain ⟨rate, n, rest, rfl, count, length⟩ := readPlan_isSome_length some
    obtain ⟨code, each, buses, read, apart⟩ := (tests count length).mp some
    refine ⟨rate, n, rest, rfl, code, count, length, fun b below => ?_, (pairwise_apart_iff length read).mp apart⟩
    exact (readBus_isSome_iff _ _ _ _).mp (each b below)
  · rintro ⟨rate, n, rest, rfl, code, count, length, each, apart⟩
    have each : ∀ b < n.toNat, (busAt rest b).isSome = true := fun b below => (readBus_isSome_iff _ _ _ _).mpr (each b below)
    obtain ⟨buses, read⟩ := Option.isSome_iff_exists.mp ((readBuses_isSome_iff length).mpr each)
    exact (tests count length).mpr ⟨code, each, buses, read, (pairwise_apart_iff length read).mpr apart⟩
end

section
/-!
CONFIGURE, JOIN and the end of a settle interval (R24, R25, R36, R97).
-/

set_option Elab.async false

namespace Sys2Proof.Machine

/-- R172: CONFIGURE of a possible length is taken by RING. -/
theorem State.exec_configure {p : List Byte} {tail : Nat} {s : State} (ready : s.ready) (low : 2 ≤ p.length)
    (high : p.length ≤ 98) :
    exec (.configure p tail) s = .next (State.taken p.length tail (s.configure p).reply (s.configure p).state) := by
  have right : configureLength p = true := by simp [configureLength, low, high]
  refine congrArg Host.Outcome.next ((State.command_of_ready ready _ _ _).trans ?_)
  rw [right]
  rfl

theorem State.exec_join {c : Conf} {tail : Nat} {s : State} (ready : s.ready) (h : s.conf = some c) :
    exec (.join tail) s = .next (State.taken 0 tail s.join.reply s.join.state) := by
  refine congrArg Host.Outcome.next ((State.command_of_ready ready _ _ _).trans ?_)
  rw [State.configured_of_some h]

/-- R24: the tests of CONFIGURE in their order. -/
theorem State.configure_of_some {c : Conf} {s : State} (h : s.conf = some c) (p : List Byte) :
    s.configure p = s.refuse 1 .state := by
  unfold State.configure
  rw [h]

theorem State.configure_of_strap {s : State} (h : s.conf = none) (strap : 24 ≤ s.self) (p : List Byte) :
    s.configure p = s.refuse 1 .strap := by
  unfold State.configure
  rw [h]
  exact if_pos strap

theorem State.configure_of_bad_plan {p : List Byte} {s : State} (h : s.conf = none) (strap : s.self < 24)
    (plan : readPlan p = none) : s.configure p = s.refuse 1 .plan := by
  unfold State.configure
  rw [h, plan]
  exact if_neg (Nat.not_le.mpr strap)

theorem State.configure_of_plan {p : List Byte} {rate : FrameRate} {plan : List Bus} {s : State} (h : s.conf = none)
    (strap : s.self < 24) (read : readPlan p = some (rate, plan)) : s.configure p =
      State.done 1 (bytesOf 2 (planDigest p).toNat)
        { s with conf := some { rate := rate, plan := plan, digest := planDigest p } } := by
  unfold State.configure
  rw [h, read]
  exact if_neg (Nat.not_le.mpr strap)

/-- R36: JOIN by the state of RING. -/
theorem State.join_of_detached {s : State} (h : s.ring.state = .detached) :
    s.join = { state := s.startJoin, reply := .accepted 2 } := by
  unfold State.join
  rw [h]

theorem State.join_of_locking {s : State} (h : s.ring.state = .locking) : s.join = s.refuse 2 .busy := by
  unfold State.join
  rw [h]

theorem State.join_of_onRing {s : State} (h : s.ring.state.onRing = true) : s.join = s.refuse 2 .state := by
  unfold State.join
  rcases e : s.ring.state with _ | _ | _ | _ | _
  case detached | locking =>
    rw [e] at h
    cases h
  all_goals rfl

/-- R97: the last sample event of the rise. -/
theorem riseStep_last (rate96 : Bool) : riseStep rate96 false (some (if rate96 then 999 else 499)) = none := by
  cases rate96 <;> rfl

end Sys2Proof.Machine

open Sys2Proof Sys2Proof.Machine

/-- Settles O30: each test of CONFIGURE in turn. -/
theorem configureResult : Obligations.ConfigureResult := by
  intro p tail s ready low high
  have exec_eq := State.exec_configure (tail := tail) ready low high
  refine ⟨fun conf => ?_, fun conf strap => ?_, fun conf strap plan => ?_, fun rate plan conf strap read => ?_⟩
  · obtain ⟨c, conf⟩ := Option.isSome_iff_exists.mp conf
    rw [exec_eq, State.configure_of_some conf]
    rfl
  · rw [exec_eq, State.configure_of_strap conf strap]
    rfl
  · rw [exec_eq, State.configure_of_bad_plan conf strap plan]
    rfl
  · rw [exec_eq, State.configure_of_plan conf strap read]
    rfl

/-- Settles O31: JOIN by the state of RING. -/
theorem joinResult : Obligations.JoinResult := by
  intro tail s ready conf
  obtain ⟨c, conf⟩ := Option.isSome_iff_exists.mp conf
  have exec_eq := State.exec_join (tail := tail) ready conf
  refine ⟨fun locking => ?_, fun on => ?_, fun detached => ?_⟩
  · rw [exec_eq, State.join_of_locking locking]
    rfl
  · rw [exec_eq, State.join_of_onRing on]
    rfl
  · rw [exec_eq, State.join_of_detached detached]
    rfl

/-- Settles O35: the settle counter's last sample event, and the rise's. -/
theorem settleResult : Obligations.SettleResult := by
  refine ⟨fun s live last => ?_, fun s live done last => ?_, rfl, rfl⟩
  · refine congrArg Host.Outcome.next ((State.part_of_clocked live (by simp [last]) _).trans ?_)
    unfold State.riseStep State.settleStep
    rw [last]
    rfl
  · have ends : riseStep s.rate96 false s.desk.home.rise = none := by
      rw [last]
      exact riseStep_last s.rate96
    have due : s.riseDue = true := by
      unfold State.riseDue
      rw [ends, done, last]
      rfl
    refine congrArg Host.Outcome.next ((State.part_of_clocked live due _).trans ?_)
    unfold State.riseStep
    rw [ends]
end

section
/-!
LEAVE (R40, R113, R135): the open passes close, every drive of a homed bus and every claim of a requester ends, and no setting
moves.
-/

set_option Elab.async false

namespace Sys2Proof.Machine

/-! ## Settings that stay -/

theorem SameSettings.same (d : Desk) : SameSettings d d := (Desk.AutoFrame.same d).sameSettings

theorem SameSettings.andThen {a b c : Desk} (h : SameSettings a b) (k : SameSettings b c) : SameSettings a c := by
  obtain ⟨strips, lines, map, controls, window⟩ := h
  obtain ⟨strips', lines', map', controls', window'⟩ := k
  refine ⟨fun n => ?_, fun f => ?_, map'.trans map, fun x => ?_, window'.trans window⟩
  · obtain ⟨a1, a2, a3, a4, a5⟩ := strips n
    obtain ⟨b1, b2, b3, b4, b5⟩ := strips' n
    exact ⟨b1.trans a1, b2.trans a2, b3.trans a3, b4.trans a4, b5.trans a5⟩
  · obtain ⟨a1, a2, a3⟩ := lines f
    obtain ⟨b1, b2, b3⟩ := lines' f
    exact ⟨b1.trans a1, b2.trans a2, b3.trans a3⟩
  · obtain ⟨a1, a2, a3⟩ := controls x
    obtain ⟨b1, b2, b3⟩ := controls' x
    exact ⟨b1.trans a1, b2.trans a2, b3.trans a3⟩

namespace Desk

/-! ## A release where no pass is open -/

/-- No pass is open, and the records filed are those of `q`. -/
structure NoPass (q : List PassRecord) (d : Desk) : Prop where
  closed : ∀ c, (d.control c).openPass = none
  queue  : d.take.queue = q

namespace NoPass

variable {q : List PassRecord} {d : Desk}

theorem setControl (h : NoPass q d) {c : Fin 176} {x : Control} (closed : x.openPass = none) : NoPass q (d.setControl c x) := by
  refine ⟨fun j => ?_, h.queue⟩
  rw [control_setControl]
  split
  · exact closed
  · exact h.closed j

theorem decideApplied (h : NoPass q d) (e : Env) (c : Fin 176) : NoPass q (d.decideApplied e c) :=
  ⟨fun j => (openPass_decideApplied e c j d).trans (h.closed j), by rw [take_decideApplied, h.queue]⟩

theorem closePass (h : NoPass q d) (e : Env) (r : CloseReason) (c : Fin 176) : NoPass q (d.closePass e r c) := by
  have same : d.closePass e r c = d := by
    unfold Desk.closePass
    dsimp only
    rw [h.closed c]
  rw [same]
  exact h

theorem beginGlide (h : NoPass q d) (e : Env) (c : Fin 176) : NoPass q (d.beginGlide e c) := by
  unfold Desk.beginGlide
  dsimp only
  split
  · exact h.closePass e _ c
  · exact h.setControl (by simp [h.closed c])

theorem releaseControl (h : NoPass q d) (e : Env) (c : Fin 176) : NoPass q (d.releaseControl e false c) := by
  have released : NoPass q (d.setControl c { d.control c with touched := false }) := h.setControl (h.closed c)
  unfold Desk.releaseControl
  dsimp only
  rw [if_neg Bool.false_ne_true]
  split
  · exact released.beginGlide e c
  · exact released.setControl (released.closed c)
  · exact NoPass.decideApplied (released.setControl (by exact released.closed c)) e c
  · exact NoPass.decideApplied (released.setControl (by exact released.closed c)) e c
  · exact released

theorem leaveHome (h : NoPass q d) (e : Env) (b : Fin 24) : NoPass q (d.leaveHome e b) := by
  unfold Desk.leaveHome
  split
  · exact h
  · have h : NoPass q (d.setDriver b none) := ⟨h.closed, h.queue⟩
    exact (h.releaseControl e _).releaseControl e _

end NoPass

/-! ## What LEAVE keeps -/

/-- What the ends of drives and claims leave: settings, line states, holdings ages, the JOIN's result, and what requesters
keep (R113). -/
structure LeaveFrame (d d' : Desk) : Prop where
  settings : SameSettings d d'
  lines    : d'.touch.lines = d.touch.lines
  ages     : d'.note.ages = d.note.ages
  join     : d'.ev.join = d.ev.join
  reqs     : ∀ b, (d'.reqOf b).level = (d.reqOf b).level ∧ (d'.reqOf b).echo = (d.reqOf b).echo

theorem AutoFrame.leaves {d d' : Desk} (h : AutoFrame d d') : LeaveFrame d d' :=
  ⟨h.sameSettings, h.lines, h.ages, h.join, fun b => by unfold Desk.reqOf; rw [h.reqs]; exact ⟨rfl, rfl⟩⟩

namespace LeaveFrame

theorem same (d : Desk) : LeaveFrame d d := (AutoFrame.same d).leaves

theorem andThen {a b c : Desk} (h : LeaveFrame a b) (k : LeaveFrame b c) : LeaveFrame a c where
  settings := SameSettings.andThen h.settings k.settings
  lines := k.lines.trans h.lines
  ages := k.ages.trans h.ages
  join := k.join.trans h.join
  reqs b := by
    obtain ⟨level, echo⟩ := h.reqs b
    obtain ⟨level', echo'⟩ := k.reqs b
    exact ⟨level'.trans level, echo'.trans echo⟩

/-- The drivers of homed buses. -/
theorem setDriver (b : Fin 24) (x : Option Nat) (d : Desk) : LeaveFrame d (d.setDriver b x) :=
  ⟨SameSettings.same d, rfl, rfl, rfl, fun _ => ⟨rfl, rfl⟩⟩

theorem leaveHome (e : Env) (b : Fin 24) (d : Desk) : LeaveFrame d (d.leaveHome e b) := by
  unfold Desk.leaveHome
  split
  · exact .same d
  · exact (LeaveFrame.setDriver b none d).andThen (frame_releaseBoth e false b _).leaves

theorem leaveReq (b : Fin 24) (d : Desk) : LeaveFrame d (d.leaveReq b) := by
  refine ⟨SameSettings.same d, rfl, rfl, rfl, fun j => ?_⟩
  unfold Desk.leaveReq
  rw [reqOf_setReq]
  split
  · next h => subst h; exact ⟨rfl, rfl⟩
  · exact ⟨rfl, rfl⟩

end LeaveFrame

/-! ## What LEAVE ends (R113) -/

theorem driver_leaveHome (e : Env) (a b : Fin 24) (d : Desk) :
    ((d.leaveHome e a).homeOf b).driver = if b = a then none else (d.homeOf b).driver := by
  unfold Desk.leaveHome
  split
  · next h =>
    split
    · next same => rw [same, h]
    · rfl
  · obtain ⟨driver, _⟩ := (frame_releaseBoth e false a (d.setDriver a none)).homes b
    rw [driver, Desk.setDriver, homeOf_setHome]
    split <;> rfl

theorem reqOf_leaveReq (a b : Fin 24) (d : Desk) : (d.leaveReq a).reqOf b =
    if b = a then { d.reqOf a with claim := .none, deferred := false, reclaim := false, keepalive := 0 } else d.reqOf b :=
  reqOf_setReq a b _ d

/-- The claim of a requester, and its keepalive count, are gone. -/
def ClaimGone (b : Fin 24) (d : Desk) : Prop := (d.reqOf b).claim = .none ∧ (d.reqOf b).keepalive = 0

/-- What every action of a run keeps, the run keeps. -/
theorem each_keeps {α : Type} {P : Desk → Prop} {f : α → Desk → Desk} (keeps : ∀ a d, P d → P (f a d)) (l : List α) :
    ∀ {d : Desk}, P d → P (d.each l f) := by
  induction l with
  | nil => exact id
  | cons a l ih => exact fun h => ih (keeps a _ h)

/-- What the action for one member makes of a desk that every action keeps fit for it, and that no action undoes, holds after
the run. -/
theorem each_reaches {α : Type} {P Q : Desk → Prop} {f : α → Desk → Desk} (fit : ∀ a d, P d → P (f a d))
    (keeps : ∀ a d, Q d → Q (f a d)) {b : α} (makes : ∀ d, P d → Q (f b d)) {l : List α} (mem : b ∈ l) {d : Desk}
    (h : P d) : Q (d.each l f) := by
  induction l generalizing d with
  | nil => cases mem
  | cons a l ih =>
    rcases List.mem_cons.mp mem with rfl | mem
    · exact each_keeps keeps l (makes d h)
    · exact ih mem (fit a d h)

theorem driver_leaves (e : Env) {b : Fin 24} {l : List (Fin 24)} (h : b ∈ l) (d : Desk) :
    ((d.each l (Desk.leaveHome e)).homeOf b).driver = none :=
  each_reaches (P := fun _ => True) (Q := fun d => (d.homeOf b).driver = none) (fun _ _ => id)
    (fun a d none => by rw [driver_leaveHome, none, ite_self])
    (fun d _ => by rw [driver_leaveHome, if_pos rfl]) h trivial

theorem claim_leaves {b : Fin 24} {l : List (Fin 24)} (h : b ∈ l) (d : Desk) : ClaimGone b (d.each l Desk.leaveReq) :=
  each_reaches (P := fun _ => True) (Q := ClaimGone b) (fun _ _ => id)
    (fun a d gone => by
      unfold ClaimGone
      rw [reqOf_leaveReq]
      split
      · exact ⟨rfl, rfl⟩
      · exact gone)
    (fun d _ => by
      unfold ClaimGone
      rw [reqOf_leaveReq, if_pos rfl]
      exact ⟨rfl, rfl⟩) h trivial

end Desk

theorem Env.mem_homedBuses {e : Env} {b : Fin 24} (h : e.homesBus b = true) : b ∈ e.homedBuses :=
  List.mem_filter.mpr ⟨List.mem_finRange b, h⟩

theorem Env.mem_requestedBuses {e : Env} {b : Fin 24} (h : e.requestsBus b = true) : b ∈ e.requestedBuses :=
  List.mem_filter.mpr ⟨List.mem_finRange b, h⟩

/-- R113: the desk at LEAVE, from passes closed to claims dropped. -/
theorem Desk.leave_parts (e : Env) (locking : Bool) (d : Desk) :
    ∃ a b c : Desk, a = (if locking then d.completeJoin .abandoned else d) ∧ b = a.closeAll e .left ∧
      c = b.each e.homedBuses (Desk.leaveHome e) ∧
      d.leave e locking = { c.each e.requestedBuses Desk.leaveReq with
        note := (c.each e.requestedBuses Desk.leaveReq).note.leave } := ⟨_, _, _, rfl, rfl, rfl, rfl⟩

/-- What LEAVE leaves of the desk. -/
structure Desk.Left (e : Env) (locking : Bool) (d d' : Desk) : Prop where
  note     : d'.note.pending = [] ∧ d'.note.flight = [] ∧ d'.note.timer = 0 ∧ d'.note.ages = d.note.ages
  drivers  : ∀ b, e.homesBus b = true → (d'.homeOf b).driver = none
  claims   : ∀ b, e.requestsBus b = true → d'.ClaimGone b
  passes   : d'.NoPass (d.take.queue ++ d.openRecords .left)
  join     : d'.ev.join = if locking then some .abandoned else d.ev.join
  reqs     : ∀ b, (d'.reqOf b).level = (d.reqOf b).level ∧ (d'.reqOf b).echo = (d.reqOf b).echo
  lines    : d'.touch.lines = d.touch.lines
  settings : SameSettings d d'

theorem Desk.left_leave (e : Env) (locking : Bool) (d : Desk) : d.Left e locking (d.leave e locking) := by
  obtain ⟨a, b, c, ha, hb, hc, whole⟩ := d.leave_parts e locking
  have told : SameSettings d a ∧ a.touch = d.touch ∧ a.note = d.note ∧ a.home = d.home ∧ a.take = d.take ∧
      a.openRecords .left = d.openRecords .left ∧ a.ev.join = if locking then some .abandoned else d.ev.join := by
    rw [ha]
    cases locking
    · exact ⟨SameSettings.same d, rfl, rfl, rfl, rfl, rfl, rfl⟩
    · exact ⟨SameSettings.same d, rfl, rfl, rfl, rfl, rfl, rfl⟩
  obtain ⟨settings, touch, note, home, take, records, join⟩ := told
  have closed : b.NoPass (d.take.queue ++ d.openRecords .left) := by
    obtain ⟨closed, queue⟩ := Desk.closedBy_closeAll e .left a
    rw [hb]
    exact ⟨closed, by rw [queue, take, records]⟩
  have homes : c.NoPass (d.take.queue ++ d.openRecords .left) := by
    rw [hc]
    exact Desk.each_keeps (fun b _ h => h.leaveHome e b) _ closed
  have passes : (c.each e.requestedBuses Desk.leaveReq).NoPass (d.take.queue ++ d.openRecords .left) :=
    Desk.each_keeps (fun _ _ h => ⟨h.closed, h.queue⟩) _ homes
  have frame : a.LeaveFrame (c.each e.requestedBuses Desk.leaveReq) := by
    refine Desk.each_keeps (P := a.LeaveFrame) (fun b _ h => h.andThen (.leaveReq b _)) _ ?_
    rw [hc]
    refine Desk.each_keeps (P := a.LeaveFrame) (fun b _ h => h.andThen (.leaveHome e b _)) _ ?_
    rw [hb]
    exact (Desk.frame_closeAll e .left a).leaves
  have drivers : ∀ b, e.homesBus b = true → ((c.each e.requestedBuses Desk.leaveReq).homeOf b).driver = none := by
    intro b homed
    refine Desk.each_keeps (P := fun d => (d.homeOf b).driver = none) (f := Desk.leaveReq) (fun _ _ h => h) _ ?_
    rw [hc]
    exact Desk.driver_leaves e (Env.mem_homedBuses homed) _
  have claims : ∀ b, e.requestsBus b = true → Desk.ClaimGone b (c.each e.requestedBuses Desk.leaveReq) :=
    fun b requested => Desk.claim_leaves (Env.mem_requestedBuses requested) c
  rw [whole]
  refine ⟨⟨rfl, rfl, rfl, frame.ages.trans (by rw [note])⟩, drivers, claims, ⟨passes.closed, passes.queue⟩,
    frame.join.trans join, fun b => ?_, frame.lines.trans (by rw [touch]), SameSettings.andThen settings frame.settings⟩
  have reqs := frame.reqs b
  rw [show a.reqOf b = d.reqOf b by unfold Desk.reqOf; rw [home]] at reqs
  exact reqs

theorem State.exec_leave {c : Conf} {tail : Nat} {s : State} (ready : s.ready) (h : s.conf = some c) :
    exec (.leave tail) s = .next (State.taken 0 tail (.done 3 []) s.leave) := by
  refine congrArg Host.Outcome.next ((State.command_of_ready ready _ _ _).trans ?_)
  rw [State.configured_of_some h]
  rfl

end Sys2Proof.Machine

open Sys2Proof Sys2Proof.Machine

/-- Settles O32: what LEAVE leaves of the desk; ring, link and LDO are written outright. -/
theorem leaveResult : Obligations.LeaveResult := by
  intro tail s ready conf
  obtain ⟨c, conf⟩ := Option.isSome_iff_exists.mp conf
  have left := Desk.left_leave s.env (s.ring.state == .locking) s.desk
  obtain ⟨pending, flight, timer, ages⟩ := left.note
  refine ⟨_, State.exec_leave ready conf, rfl, pending, flight, timer, ages, left.drivers, fun b requested => ?_,
    left.passes.closed, left.passes.queue, fun locking => ?_, fun other => ?_, rfl, left.lines, left.settings, rfl⟩
  · obtain ⟨claim, keepalive⟩ := left.claims b requested
    exact ⟨claim, keepalive, left.reqs b⟩
  · exact left.join.trans (if_pos (by rw [locking]; rfl))
  · exact left.join.trans (if_neg (by rw [beq_eq_false_iff_ne.mpr other]; exact Bool.false_ne_true))
end

section
/-!
The emitter check (R35, R59) and what the end of a station's presence ends with it (R27, R78, R105, R111).
-/

set_option Elab.async false

namespace Sys2Proof.Machine

/-! ## The emitter check (R35, R59) -/

/-- R59: the payload of a ROSTER names the emitter. -/
theorem rosterPayload_eq {e : Nat} (h : e < 24) : rosterPayload e = BitVec.ofNat 32 e := by
  unfold rosterPayload
  exact BitVec.eq_of_toNat_eq (by simp; omega)

/-- R35: seen from the station, another station stands between the emitter and the station when it is nearer. -/
theorem strictlyBetween_iff {self e x : Nat} (hs : self < 24) (he : e < 24) (hx : x < 24) (other : x ≠ self) :
    strictlyBetween e self x = true ↔ backCount self x < backCount self e := by
  unfold strictlyBetween backCount
  by_cases same : e = self
  · subst same
    rw [if_pos rfl, bne_iff_ne]
    omega
  · rw [if_neg same, Bool.and_eq_true, decide_eq_true_iff, decide_eq_true_iff]
    omega

theorem emitterAfter_of_nearer {self e : Nat} {present : StationSet}
    (h : backCount self e < backCount self (nearestPredecessor present self)) :
    emitterAfter self e present = StationSet.add present e := if_pos h

/-- R35: past a farther emitter the station drops every station that stands between. -/
theorem has_emitterAfter_of_farther {self e x : Nat} {present : StationSet} (hs : self < 24) (he : e < 24) (hx : x < 24)
    (h : backCount self (nearestPredecessor present self) < backCount self e) :
    StationSet.has (emitterAfter self e present) x = true ↔
      StationSet.has present x = true ∧ (x = self ∨ backCount self e ≤ backCount self x) := by
  have after : emitterAfter self e present =
      stationsWhere fun x => StationSet.has present x && (x == self || !strictlyBetween e self x) := by
    unfold emitterAfter
    dsimp only
    rw [if_neg (by omega), if_pos h]
  rw [after, StationSet.has_stationsWhere, decide_eq_true hx, Bool.true_and, Bool.and_eq_true, Bool.or_eq_true, beq_iff_eq,
    Bool.not_eq_true']
  refine and_congr_right fun _ => ?_
  by_cases own : x = self
  · exact iff_of_true (.inl own) (.inl own)
  · have between := strictlyBetween_iff hs he hx own
    rw [← Bool.not_eq_true, between, Nat.not_lt]

namespace State

/-- R27: the set applied is in force. -/
@[simp] theorem present_applyRoster (now : StationSet) (s : State) : (s.applyRoster now).ring.present = now := by
  by_cases h : now = s.ring.present
  · rw [h, applyRoster_present]
  · rw [applyRoster_of_ne h]
    rfl

theorem emitterCheck_of_agreed {e : Nat} {s : State} (h : e = nearestPredecessor s.ring.present s.self) :
    s.emitterCheck e = s := if_pos h

/-- R35, R59: an emitter other than the predecessor moves the present set, and a ROSTER that names it waits. -/
theorem emitterCheck_of_other {e : Nat} {s : State} (he : e < 24) (h : e ≠ nearestPredecessor s.ring.present s.self) :
    (s.emitterCheck e).ring.present = emitterAfter s.self e s.ring.present ∧
      ((s.emitterCheck e).desk.note.waiting? .roster).map (·.payload) = some (BitVec.ofNat 32 e) := by
  obtain ⟨u, hu⟩ : ∃ u, u = s.applyRoster (emitterAfter s.self e s.ring.present) := ⟨_, rfl⟩
  have checked : s.emitterCheck e = { u with desk := u.desk.queue .roster .roster (rosterPayload e) } := by
    rw [hu]
    exact if_neg h
  rw [checked]
  constructor
  · exact (congrArg (·.ring.present) hu).trans (present_applyRoster _ s)
  · rw [← rosterPayload_eq he]
    exact congrArg (Option.map (·.payload)) (Note.waiting?_queue_self .roster .roster (rosterPayload e) u.desk.note)

end State

/-! ## Touches that end with a drive (R105) -/

namespace Desk

theorem touched_decideApplied (e : Env) (c j : Fin 176) (d : Desk) :
    ((d.decideApplied e c).control j).touched = (d.control j).touched := by
  unfold Desk.decideApplied
  rw [(control_apply e c _ d).2]
  split
  · next h => rw [h]
  · rfl

/-- A change of a control that leaves its touch. -/
theorem touched_setControl {c : Fin 176} {x : Control} {d : Desk} (j : Fin 176)
    (h : x.touched = (d.control c).touched := by rfl) :
    ((d.setControl c x).control j).touched = (d.control j).touched := by
  rw [control_setControl]
  split
  · next same => rw [same, h]
  · rfl

theorem touched_closePass (e : Env) (r : CloseReason) (c j : Fin 176) (d : Desk) :
    ((d.closePass e r c).control j).touched = (d.control j).touched := by
  unfold Desk.closePass
  dsimp only
  split
  · rfl
  · rw [touched_decideApplied, (control_countClosed j _).1]
    exact touched_setControl (d := { d with take := _ }) j

theorem touched_beginGlide (e : Env) (c j : Fin 176) (d : Desk) :
    ((d.beginGlide e c).control j).touched = (d.control j).touched := by
  unfold Desk.beginGlide
  dsimp only
  split
  · exact touched_closePass e _ c j d
  · exact touched_setControl j

theorem touched_markDriverLost (c j : Fin 176) (d : Desk) :
    ((d.markDriverLost c).control j).touched = (d.control j).touched := touched_setControl j

/-- R115: a release ends the touch of its control, and of no other. -/
theorem touched_releaseControl (e : Env) (lost : Bool) (c j : Fin 176) (d : Desk) :
    ((d.releaseControl e lost c).control j).touched = if j = c then false else (d.control j).touched := by
  have released : ((d.setControl c { d.control c with touched := false }).control j).touched =
      if j = c then false else (d.control j).touched := by
    rw [control_setControl]
    split <;> rfl
  have marked : ((if lost then (d.setControl c { d.control c with touched := false }).markDriverLost c
      else d.setControl c { d.control c with touched := false }).control j).touched =
      if j = c then false else (d.control j).touched := by
    split
    · rw [touched_markDriverLost, released]
    · exact released
  rw [← marked]
  unfold Desk.releaseControl
  dsimp only
  generalize (if lost then (d.setControl c { d.control c with touched := false }).markDriverLost c
      else d.setControl c { d.control c with touched := false }) = d1
  split
  · exact touched_beginGlide e c j d1
  · exact touched_setControl j
  · rw [touched_decideApplied]
    exact touched_setControl j
  · rw [touched_decideApplied]
    exact touched_setControl j
  · rfl

theorem touched_releaseBoth (e : Env) (lost : Bool) (b : Fin 24) (j : Fin 176) (d : Desk) :
    ((d.releaseBoth e lost b).control j).touched =
      if j = masterMuteId b ∨ j = masterId b then false else (d.control j).touched := by
  unfold Desk.releaseBoth
  rw [touched_releaseControl, touched_releaseControl]
  by_cases mute : j = masterMuteId b <;> by_cases level : j = masterId b <;> simp [mute, level]

/-! ## What a removed station takes with it, part by part (R78, R105, R111) -/

/-- R105: what the loss of a driver leaves. -/
theorem loseDriver_rest (e : Env) (b : Fin 24) (d : Desk) : (d.loseDriver e b).home.reqs = d.home.reqs ∧
    (∀ a, (d.loseDriver e b).note.waiting? (.drive a) = d.note.waiting? (.drive a)) ∧
    (d.loseDriver e b).strip.zones = d.strip.zones := by
  have frame := (frame_releaseBoth e true b (d.setDriver b none)).andThen (frame_raise .driveLost _)
  exact ⟨frame.reqs, fun a => frame.waiting (.drive a) nofun, frame.zones⟩

theorem driverGone_rest (e : Env) (x : Nat) (b : Fin 24) (d : Desk) : (d.driverGone e x b).home.reqs = d.home.reqs ∧
    (∀ a, (d.driverGone e x b).note.waiting? (.drive a) = d.note.waiting? (.drive a)) ∧
    (d.driverGone e x b).strip.zones = d.strip.zones := by
  unfold Desk.driverGone
  split
  · exact loseDriver_rest e b d
  · exact ⟨rfl, fun _ => rfl, rfl⟩

/-- R111: the loss of a requester's drive leaves HOME's drivers, the controls and the zones. -/
theorem homeGone_rest (e : Env) (x : Nat) (b : Fin 24) (d : Desk) : (d.homeGone e x b).home.homes = d.home.homes ∧
    (d.homeGone e x b).auto = d.auto ∧ (d.homeGone e x b).strip = d.strip := by
  unfold Desk.homeGone
  split <;> exact ⟨rfl, rfl, rfl⟩

/-- R78: gates are STRIP's alone, and the zone solo table is not theirs. -/
theorem regate_eq (e : Env) (d : Desk) : ∃ v, d.regate e = { d with strip := { d.strip with strips := v } } := by
  have strip : ∀ (n : Fin 32) (d' : Desk), (∃ v, d' = { d with strip := { d.strip with strips := v } }) →
      ∃ v, d'.regateStrip e n = { d with strip := { d.strip with strips := v } } := by
    rintro n d' ⟨v, rfl⟩
    unfold Desk.regateStrip
    dsimp only
    generalize gateGain _ = g1
    generalize gateGain _ = g2
    exact ⟨_, rfl⟩
  exact each_keeps (P := fun d' => ∃ v, d' = { d with strip := { d.strip with strips := v } }) strip _ ⟨_, rfl⟩

/-- R78: a removed station leaves the zone solo table, and STRIP alone hears of it. -/
theorem stationGone_eq (e : Env) (x : Nat) (d : Desk) :
    ∃ v, d.stationGone e x = { d with strip := { (d.setZones x 0).strip with strips := v } } := by
  obtain ⟨v, h⟩ := regate_eq e (d.setZones x 0)
  exact ⟨v, h⟩

@[simp] theorem has_remove (s : StationSet) (x y : Nat) :
    StationSet.has (StationSet.remove s x) y = (StationSet.has s y && decide (x ≠ y)) := by
  by_cases h : y < 24
  · rw [StationSet.has, StationSet.remove, BitVec.getLsbD_and, BitVec.getLsbD_not, BitVec.getLsbD_twoPow, decide_eq_true h,
      Bool.true_and, StationSet.has]
    by_cases same : x = y <;> simp [same, h]
  · have out : ∀ s : StationSet, StationSet.has s y = false := fun s => BitVec.getLsbD_of_ge _ _ (Nat.not_lt.mp h)
    rw [out, out, Bool.false_and]

theorem zones_setZones_zero (x : Nat) (z : Fin 4) (d : Desk) :
    (d.setZones x 0).strip.zones[z] = StationSet.remove d.strip.zones[z] x := by
  simp [Desk.setZones]

/-! ## A whole removal -/

/-- What each part of a removal keeps, the removal keeps. -/
theorem handRemoved_keeps {P : Desk → Prop} {e : Env} {x : Nat} (driver : ∀ b d, P d → P (d.driverGone e x b))
    (home : ∀ b d, P d → P (d.homeGone e x b)) (station : ∀ d, P d → P (d.stationGone e x)) {d : Desk} (h : P d) :
    P (d.handRemoved e x) :=
  station _ (each_keeps home _ (each_keeps driver _ h))

/-- The drive of a homed bus is over: no driver, no touch, DRIVE_LOST. -/
structure DriveOver (b : Fin 24) (d : Desk) : Prop where
  driver : (d.homeOf b).driver = none
  lease  : (d.homeOf b).lease = 0
  level  : (d.control (masterId b)).touched = false
  mute   : (d.control (masterMuteId b)).touched = false
  flag   : d.flag .driveLost = true

/-- R105: what the loss of a driver does to the homes and the touches. -/
theorem loseDriver_home (e : Env) (a b : Fin 24) (d : Desk) :
    ((d.loseDriver e a).homeOf b).driver = (if b = a then none else (d.homeOf b).driver) ∧
    ((d.loseDriver e a).homeOf b).lease = (if b = a then 0 else (d.homeOf b).lease) ∧
    (d.loseDriver e a).flag .driveLost = true ∧
    ∀ j, ((d.loseDriver e a).control j).touched =
      if j = masterMuteId a ∨ j = masterId a then false else (d.control j).touched := by
  obtain ⟨driver, lease, _⟩ := (frame_releaseBoth e true a (d.setDriver a none)).homes b
  refine ⟨?_, ?_, by simp [Desk.loseDriver], fun j => touched_releaseBoth e true a j _⟩
  · refine driver.trans ?_
    rw [Desk.setDriver, homeOf_setHome]
    split <;> rfl
  · refine lease.trans ?_
    rw [Desk.setDriver, homeOf_setHome]
    split <;> rfl

/-- R105: the drive of a homed bus that station `y` drives goes on, or is over. -/
def DrivenOrOver (b : Fin 24) (y : Nat) (d : Desk) : Prop := (d.homeOf b).driver = some y ∨ DriveOver b d

variable {b : Fin 24} {y : Nat} {d : Desk}

theorem DriveOver.made (e : Env) (d : Desk) : DriveOver b (d.loseDriver e b) := by
  obtain ⟨driver, lease, flag, touched⟩ := loseDriver_home e b b d
  exact ⟨by rw [driver, if_pos rfl], by rw [lease, if_pos rfl], by rw [touched, if_pos (.inr rfl)],
    by rw [touched, if_pos (.inl rfl)], flag⟩

/-- What reaches neither the homes nor the controls leaves the drive over. -/
theorem DriveOver.of_rest {d' : Desk} (h : DriveOver b d) (homes : d'.home.homes = d.home.homes) (auto : d'.auto = d.auto)
    (flags : FlagFrame d d') : DriveOver b d' := by
  have home : d'.homeOf b = d.homeOf b := by unfold Desk.homeOf; rw [homes]
  have control : ∀ c, d'.control c = d.control c := fun c => by unfold Desk.control; rw [auto]
  exact ⟨by rw [home, h.driver], by rw [home, h.lease], by rw [control, h.level], by rw [control, h.mute],
    flags.stay _ h.flag⟩

theorem DriveOver.driverGone (e : Env) (x : Nat) (a : Fin 24) (h : DriveOver b d) : DriveOver b (d.driverGone e x a) := by
  unfold Desk.driverGone
  split
  · obtain ⟨driver, lease, flag, touched⟩ := loseDriver_home e a b d
    refine ⟨by rw [driver, h.driver, ite_self], by rw [lease, h.lease, ite_self], ?_, ?_, flag⟩
    · rw [touched, h.level, ite_self]
    · rw [touched, h.mute, ite_self]
  · exact h

theorem DriveOver.homeGone (e : Env) (x : Nat) (a : Fin 24) (h : DriveOver b d) : DriveOver b (d.homeGone e x a) := by
  obtain ⟨homes, auto, _⟩ := homeGone_rest e x a d
  exact h.of_rest homes auto (flags_homeGone e x a d)

theorem DriveOver.stationGone (e : Env) (x : Nat) (h : DriveOver b d) : DriveOver b (d.stationGone e x) := by
  have clear := clear_stationGone e x d
  exact h.of_rest clear.homes clear.auto (flags_stationGone e x d)

theorem DriveOver.handRemoved (e : Env) (x : Nat) (h : DriveOver b d) : DriveOver b (d.handRemoved e x) :=
  handRemoved_keeps (fun a _ h => h.driverGone e x a) (fun a _ h => h.homeGone e x a) (fun _ h => h.stationGone e x) h

theorem DrivenOrOver.driverGone (e : Env) (x : Nat) (a : Fin 24) (h : DrivenOrOver b y d) :
    DrivenOrOver b y (d.driverGone e x a) := by
  rcases h with driven | ended
  · unfold Desk.driverGone
    split
    · by_cases same : b = a
      · subst same
        exact .inr (.made e d)
      · obtain ⟨driver, _⟩ := loseDriver_home e a b d
        exact .inl (by rw [driver, if_neg same, driven])
    · exact .inl driven
  · exact .inr (ended.driverGone e x a)

theorem DrivenOrOver.homeGone (e : Env) (x : Nat) (a : Fin 24) (h : DrivenOrOver b y d) :
    DrivenOrOver b y (d.homeGone e x a) := by
  obtain ⟨homes, _⟩ := homeGone_rest e x a d
  exact h.imp (fun driven => by unfold Desk.homeOf at driven ⊢; rw [homes, driven]) (·.homeGone e x a)

theorem DrivenOrOver.stationGone (e : Env) (x : Nat) (h : DrivenOrOver b y d) : DrivenOrOver b y (d.stationGone e x) :=
  h.imp (fun driven => by rw [(clear_stationGone e x d).homeOf, driven]) (·.stationGone e x)

theorem DrivenOrOver.handRemoved (e : Env) (x : Nat) (h : DrivenOrOver b y d) : DrivenOrOver b y (d.handRemoved e x) :=
  handRemoved_keeps (fun a _ h => h.driverGone e x a) (fun a _ h => h.homeGone e x a) (fun _ h => h.stationGone e x) h

end Desk

end Sys2Proof.Machine
end

section
/-!
A change of the present set (R27): what it ends of each station removed (R78, R105, R111), and what it leaves of the others.
-/

set_option Elab.async false

namespace Sys2Proof.Machine

namespace Desk

/-! ## The drive of a requester (R111) -/

/-- The requester drives no more: no claim, no DRIVE waiting, DRIVE_LOST. -/
structure ClaimOver (b : Fin 24) (d : Desk) : Prop where
  claim   : (d.reqOf b).claim = .none
  waiting : d.note.waiting? (.drive b) = none
  flag    : d.flag .driveLost = true

theorem reqOf_dropDrive (a b : Fin 24) (d : Desk) :
    (d.dropDrive a).reqOf b = if b = a then { d.reqOf a with claim := .none } else d.reqOf b := by
  simp [Desk.dropDrive, Desk.setClaim]

theorem ClaimOver.made (b : Fin 24) (d : Desk) : ClaimOver b (d.dropDrive b) := by
  refine ⟨by rw [reqOf_dropDrive, if_pos rfl], ?_, by simp [Desk.dropDrive]⟩
  exact Note.waiting?_withdraw_self (.drive b) d.note

/-- What does not reach the requester leaves its drive over. -/
theorem ClaimOver.of_rest {b : Fin 24} {d d' : Desk} (h : ClaimOver b d) (req : d'.reqOf b = d.reqOf b)
    (waiting : d'.note.waiting? (.drive b) = d.note.waiting? (.drive b)) (flags : FlagFrame d d') : ClaimOver b d' :=
  ⟨by rw [req, h.claim], by rw [waiting, h.waiting], flags.stay _ h.flag⟩

theorem ClaimOver.homeGone (e : Env) (x : Nat) (a : Fin 24) {b : Fin 24} {d : Desk} (h : ClaimOver b d) :
    ClaimOver b (d.homeGone e x a) := by
  have flags := flags_homeGone e x a d
  unfold Desk.homeGone at flags ⊢
  split at flags
  · next cond =>
    rw [if_pos cond]
    have other : b ≠ a := by
      rintro rfl
      rw [h.claim] at cond
      exact nomatch cond.2
    refine h.of_rest (by rw [reqOf_dropDrive, if_neg other]) ?_ flags
    exact Note.waiting?_withdraw_of_ne (by simpa using other) d.note
  · next cond =>
    rw [if_neg cond]
    exact h

theorem ClaimOver.driverGone (e : Env) (x : Nat) (a : Fin 24) {b : Fin 24} {d : Desk} (h : ClaimOver b d) :
    ClaimOver b (d.driverGone e x a) := by
  obtain ⟨reqs, waiting, _⟩ := driverGone_rest e x a d
  exact h.of_rest (by unfold Desk.reqOf; rw [reqs]) (waiting b) (flags_driverGone e x a d)

theorem ClaimOver.stationGone (e : Env) (x : Nat) {b : Fin 24} {d : Desk} (h : ClaimOver b d) :
    ClaimOver b (d.stationGone e x) := by
  have flags := flags_stationGone e x d
  obtain ⟨v, same⟩ := stationGone_eq e x d
  rw [same] at flags ⊢
  exact h.of_rest rfl rfl flags

theorem ClaimOver.handRemoved (e : Env) (x : Nat) {b : Fin 24} {d : Desk} (h : ClaimOver b d) :
    ClaimOver b (d.handRemoved e x) :=
  handRemoved_keeps (fun a _ h => h.driverGone e x a) (fun a _ h => h.homeGone e x a) (fun _ h => h.stationGone e x) h

/-- R111: a requester that drives drives on, or its drive is over. -/
def DrivesOrOver (b : Fin 24) (d : Desk) : Prop := (d.reqOf b).claim = .driving ∨ ClaimOver b d

theorem DrivesOrOver.driverGone (e : Env) (x : Nat) (a : Fin 24) {b : Fin 24} {d : Desk} (h : DrivesOrOver b d) :
    DrivesOrOver b (d.driverGone e x a) := by
  obtain ⟨reqs, _⟩ := driverGone_rest e x a d
  exact h.imp (fun driving => by unfold Desk.reqOf at driving ⊢; rw [reqs, driving]) (·.driverGone e x a)

theorem DrivesOrOver.homeGone (e : Env) (x : Nat) (a : Fin 24) {b : Fin 24} {d : Desk} (h : DrivesOrOver b d) :
    DrivesOrOver b (d.homeGone e x a) := by
  rcases h with driving | ended
  · unfold Desk.homeGone
    split
    · by_cases same : b = a
      · subst same
        exact .inr (.made b d)
      · exact .inl (by rw [reqOf_dropDrive, if_neg same, driving])
    · exact .inl driving
  · exact .inr (ended.homeGone e x a)

theorem DrivesOrOver.stationGone (e : Env) (x : Nat) {b : Fin 24} {d : Desk} (h : DrivesOrOver b d) :
    DrivesOrOver b (d.stationGone e x) := by
  refine h.imp (fun driving => ?_) (·.stationGone e x)
  obtain ⟨v, same⟩ := stationGone_eq e x d
  rw [same]
  exact driving

theorem DrivesOrOver.handRemoved (e : Env) (x : Nat) {b : Fin 24} {d : Desk} (h : DrivesOrOver b d) :
    DrivesOrOver b (d.handRemoved e x) :=
  handRemoved_keeps (fun a _ h => h.driverGone e x a) (fun a _ h => h.homeGone e x a) (fun _ h => h.stationGone e x) h

/-! ## The removal of a station -/

/-- R105: the station that drove a homed bus is gone. -/
theorem driveOver_handRemoved {e : Env} {b : Fin 24} (homed : e.homesBus b = true) {x : Nat} {d : Desk}
    (h : DrivenOrOver b x d) : DriveOver b (d.handRemoved e x) := by
  have drivers : DriveOver b (d.each e.homedBuses (Desk.driverGone e x)) := by
    refine each_reaches (P := DrivenOrOver b x) (fun a _ h => h.driverGone e x a) (fun a _ h => h.driverGone e x a)
      (fun d h => ?_) (Env.mem_homedBuses homed) h
    rcases h with driven | ended
    · unfold Desk.driverGone
      rw [if_pos driven]
      exact .made e d
    · exact ended.driverGone e x b
  exact (each_keeps (fun a _ h => h.homeGone e x a) _ drivers).stationGone e x

/-- R111: the home of a requester's bus is gone. -/
theorem claimOver_handRemoved {e : Env} {b : Fin 24} {y : Bus} (bus : e.bus? b = some y) (away : y.home ≠ e.self) {d : Desk}
    (h : DrivesOrOver b d) : ClaimOver b (d.handRemoved e y.home) := by
  have requested : e.requestsBus b = true := by
    unfold Env.requestsBus
    rw [bus]
    simpa using away
  refine ClaimOver.stationGone e y.home (each_reaches (P := DrivesOrOver b) (fun a _ h => h.homeGone e y.home a)
    (fun a _ h => h.homeGone e y.home a) (fun d h => ?_) (Env.mem_requestedBuses requested)
    (each_keeps (fun a _ h => h.driverGone e y.home a) _ h))
  rcases h with driving | ended
  · unfold Desk.homeGone
    rw [if_pos ⟨by rw [bus]; rfl, driving⟩]
    exact .made b d
  · exact ended.homeGone e y.home b

/-- R78: the zone solo table loses the station removed, and no other. -/
theorem zones_handRemoved (e : Env) (x : Nat) (z : Fin 4) (d : Desk) :
    (d.handRemoved e x).strip.zones[z] = StationSet.remove d.strip.zones[z] x := by
  have before : ((d.each e.homedBuses (Desk.driverGone e x)).each e.requestedBuses (Desk.homeGone e x)).strip.zones =
      d.strip.zones := by
    refine each_keeps (P := fun d' => d'.strip.zones = d.strip.zones) (fun a d' h => ?_) _
      (each_keeps (P := fun d' => d'.strip.zones = d.strip.zones) (fun a d' h => ?_) _ rfl)
    · obtain ⟨_, _, strip⟩ := homeGone_rest e x a d'
      rw [strip, h]
    · obtain ⟨_, _, zones⟩ := driverGone_rest e x a d'
      rw [zones, h]
  obtain ⟨v, same⟩ := stationGone_eq e x
    ((d.each e.homedBuses (Desk.driverGone e x)).each e.requestedBuses (Desk.homeGone e x))
  unfold Desk.handRemoved
  rw [same, ← before]
  exact zones_setZones_zero x z _

/-- R78: the zone solo table after a run of removals. -/
theorem has_zones_removed (e : Env) (l : List Nat) (x : Nat) (z : Fin 4) (d : Desk) :
    StationSet.has (d.each l (Desk.handRemoved e)).strip.zones[z] x =
      (StationSet.has d.strip.zones[z] x && decide (x ∉ l)) := by
  induction l generalizing d with
  | nil => simp [Desk.each]
  | cons a l ih =>
    have run : d.each (a :: l) (Desk.handRemoved e) = (d.handRemoved e a).each l (Desk.handRemoved e) := rfl
    rw [run, ih, zones_handRemoved, has_remove]
    by_cases head : a = x <;> by_cases tail : x ∈ l <;> simp [head, tail, Ne.symm]

end Desk

theorem mem_stationsLost {before now : StationSet} {x : Nat} :
    x ∈ stationsLost before now ↔ StationSet.has before x = true ∧ StationSet.has now x = false := by
  unfold stationsLost allStations
  rw [List.mem_filter, List.mem_range, Bool.and_eq_true, Bool.not_eq_true']
  exact ⟨fun h => h.2, fun h => ⟨StationSet.lt_of_has h.1, h⟩⟩

/-- R27: the desk after a change of the present set. -/
theorem State.desk_applyRoster {now : StationSet} {s : State} (h : now ≠ s.ring.present) : (s.applyRoster now).desk =
    (s.desk.raise .rosterChange).each (stationsLost s.ring.present now) (Desk.handRemoved s.env) := by
  rw [applyRoster_of_ne h]
  rfl

end Sys2Proof.Machine

open Sys2Proof Sys2Proof.Machine

/-- Settles O38: the emitter check by its three cases, and the removals of a roster change one station after the other. -/
theorem emitterCheck : Obligations.EmitterCheck := by
  refine ⟨fun s e self below _ => ⟨State.emitterCheck_of_agreed, fun nearer => ?_, fun farther => ?_⟩,
    State.applyRoster_present, fun s u now change after => ?_⟩
  · obtain ⟨present, waiting⟩ := State.emitterCheck_of_other (s := s) below (fun same => by rw [← same] at nearer; omega)
    exact ⟨present.trans (emitterAfter_of_nearer nearer), waiting⟩
  · obtain ⟨present, waiting⟩ := State.emitterCheck_of_other (s := s) below (fun same => by rw [← same] at farther; omega)
    refine ⟨fun x hx => ?_, waiting⟩
    rw [present]
    exact has_emitterAfter_of_farther self below hx farther
  · have desk := State.desk_applyRoster change
    have flag := State.flag_applyRoster change
    rw [after] at desk flag
    have lost : ∀ {x : Fin 24}, StationSet.has s.ring.present x.val = true → StationSet.has now x.val = false →
        x.val ∈ stationsLost s.ring.present now := fun there gone => mem_stationsLost.mpr ⟨there, gone⟩
    refine ⟨?_, flag, ?_, ?_, fun x there gone => ⟨fun b homed driven => ?_, fun b y bus home away driving => ?_,
      fun z => ?_⟩, fun x stays z => ?_⟩
    · rw [← after, State.applyRoster_of_ne change]
      rfl
    · rw [← after, State.applyRoster_of_ne change]
      rfl
    · rw [← after, State.applyRoster_of_ne change]
      rfl
    · have ended : u.desk.DriveOver b := by
        rw [desk]
        exact Desk.each_reaches (P := Desk.DrivenOrOver b x.val) (fun a _ h => h.handRemoved s.env a)
          (fun a _ h => h.handRemoved s.env a) (fun _ h => Desk.driveOver_handRemoved homed h) (lost there gone) (.inl driven)
      exact ⟨ended.driver, ended.lease, ended.level, ended.mute, ended.flag⟩
    · have ended : u.desk.ClaimOver b := by
        rw [desk]
        exact Desk.each_reaches (P := Desk.DrivesOrOver b) (fun a _ h => h.handRemoved s.env a)
          (fun a _ h => h.handRemoved s.env a)
          (fun _ h => home ▸ Desk.claimOver_handRemoved bus (by rw [home]; exact away) h) (lost there gone) (.inl driving)
      exact ⟨ended.claim, ended.waiting, ended.flag⟩
    · rw [desk, Desk.has_zones_removed, decide_eq_false (not_not_intro (lost there gone)), Bool.and_false]
    · have kept : x.val ∉ stationsLost s.ring.present now := by
        rw [mem_stationsLost]
        rintro ⟨there, gone⟩
        rcases stays with out | still
        · rw [out] at there
          cases there
        · rw [still] at gone
          cases gone
      rw [desk, Desk.has_zones_removed, decide_eq_true kept, Bool.and_true]
      rfl
end

section
/-!
What the end of a notice in flight does (R45, R53, R54): its slot leaves the in-flight table, and of the desk only the
requester's entry, the pending list and the flags hear of the mark.
-/

set_option Elab.async false

namespace Sys2Proof.Machine

/-- The in-flight table is the one of another NOTE, so each slot's entry is. -/
theorem Note.flight?_congr {n n' : Note} (h : n'.flight = n.flight) (y : Slot) : n'.flight? y = n.flight? y := by
  unfold Note.flight?
  rw [h]

namespace Desk

/-- What a requester's own operations leave: the in-flight table, STRIP, TOUCH, AUTO, TAKE and the homes. -/
structure RequesterOnly (d d' : Desk) : Prop where
  flight : d'.note.flight = d.note.flight
  strip  : d'.strip = d.strip
  touch  : d'.touch = d.touch
  auto   : d'.auto = d.auto
  take   : d'.take = d.take
  homes  : d'.home.homes = d.home.homes

theorem RequesterOnly.of_flight {d d' : Desk} (flight : d'.note.flight = d.note.flight := by rfl)
    (strip : d'.strip = d.strip := by rfl) (touch : d'.touch = d.touch := by rfl) (auto : d'.auto = d.auto := by rfl)
    (take : d'.take = d.take := by rfl) (homes : d'.home.homes = d.home.homes := by rfl) : RequesterOnly d d' :=
  ⟨flight, strip, touch, auto, take, homes⟩

theorem requesterOnly_claimReturn (b : Fin 24) (m : Mark) (d : Desk) : RequesterOnly d (d.claimReturn b m) := by
  unfold Desk.claimReturn
  dsimp only
  split
  case h_1 | h_4 => exact .of_flight (Note.queue_flight _ _ _ _)
  all_goals exact .of_flight

theorem requesterOnly_releaseReturn (b : Fin 24) (d : Desk) : RequesterOnly d (d.releaseReturn b) := by
  unfold Desk.releaseReturn
  dsimp only
  repeat' split
  all_goals exact .of_flight

theorem requesterOnly_driveReturn (b : Fin 24) (m : Mark) (d : Desk) : RequesterOnly d (d.driveReturn b m) := by
  unfold Desk.driveReturn
  split <;> exact .of_flight

/-- R45, R54: the mark is a requester's affair, whatever slot it closes. -/
theorem requesterOnly_handMark (x : Slot) (k : NoticeKind) (m : Mark) (d : Desk) : RequesterOnly d (d.handMark x k m) := by
  unfold Desk.handMark
  split
  · exact requesterOnly_claimReturn _ m d
  · exact requesterOnly_releaseReturn _ d
  · exact requesterOnly_driveReturn _ m d
  · exact .of_flight

/-- R107: a CLAIM that comes to nothing. -/
theorem claimReturn_of_unanswered {b : Fin 24} {d : Desk} (h : (d.reqOf b).claim = .claiming) :
    d.claimReturn b .none = Desk.raise .claimUnanswered (d.setClaim b .none) := by
  unfold Desk.claimReturn
  dsimp only
  rw [h]
  rfl

end Desk

namespace State

/-- R54: where the deadline of a slot's entry has passed, the row closes the slot with the mark NONE. -/
theorem exec_noticeDeadline {s : State} {x : Slot} {f : Flight} (live : s.clocked) (found : s.desk.note.flight? x = some f)
    (late : f.placed + 96 ≤ s.instant + 1) :
    exec (.noticeDeadline x) s = .next { s with instant := s.instant + 1, desk := s.desk.closeFlight x f.kind .none } := by
  have due : s.deadlineDue x = true := by
    unfold State.deadlineDue
    rw [found]
    exact decide_eq_true late
  have closes : s.advanceInstant.expireFlight x =
      { s with instant := s.instant + 1, desk := s.desk.closeFlight x f.kind .none } := by
    have here : s.advanceInstant.desk.note.flight? x = some f := found
    unfold State.expireFlight
    rw [here]
    exact if_pos (decide_eq_true late)
  rw [← closes]
  exact congrArg Host.Outcome.next (part_of_clocked live due _)

end State

end Sys2Proof.Machine

open Sys2Proof Sys2Proof.Machine

/-- Settles O39: the slot closes, and what the mark reaches is the requester's. -/
theorem noticeDeadlineResult : Obligations.NoticeDeadlineResult := by
  intro s x f live found late
  obtain ⟨d, hd⟩ : ∃ d, d = { s.desk with note := s.desk.note.close x } := ⟨_, rfl⟩
  have closed : s.desk.closeFlight x f.kind .none = d.handMark x f.kind .none := by rw [hd]; rfl
  have told := Desk.requesterOnly_handMark x f.kind .none d
  have flight : ∀ y, (d.handMark x f.kind .none).note.flight? y = (s.desk.note.close x).flight? y := fun y => by
    rw [Note.flight?_congr told.flight, hd]
  have run := State.exec_noticeDeadline live found late
  rw [closed] at run
  refine ⟨_, run, ?_, fun y other => ?_, ?_, rfl, rfl, rfl, ?_, ?_, ?_, ?_, ?_, ⟨rfl, rfl, rfl, rfl, rfl, rfl, rfl, rfl⟩⟩
  · exact (flight x).trans (Note.flight?_close_self x s.desk.note)
  · exact (flight y).trans (Note.flight?_close_of_ne other s.desk.note)
  · rintro b rfl kind claiming
    have claiming : (d.reqOf b).claim = .claiming := by rw [hd]; exact claiming
    have lost : d.handMark (.claim b) f.kind .none = Desk.raise .claimUnanswered (d.setClaim b .none) := by
      rw [kind]
      exact Desk.claimReturn_of_unanswered claiming
    rw [lost]
    exact ⟨by simp [Desk.setClaim], by simp [State.flag]⟩
  · exact told.auto.trans (by rw [hd])
  · exact told.take.trans (by rw [hd])
  · exact told.strip.trans (by rw [hd])
  · exact told.touch.trans (by rw [hd])
  · exact told.homes.trans (by rw [hd])
end

section
/-!
The counts of NOTE (R55, R58): what the holdings timer queues, and the station that is heard no more.
-/

set_option Elab.async false

namespace Sys2Proof.Machine

namespace Desk

/-- R55, R98: HOLDINGS and ECHOs are queued, and nothing but NOTE moves. -/
theorem queueHoldings_eq (e : Env) (d : Desk) : ∃ n, d.queueHoldings e = { d with note := n } :=
  each_keeps (P := fun d' => ∃ n, d' = { d with note := n }) (fun b d' => by rintro ⟨n, rfl⟩; exact ⟨_, rfl⟩) _ ⟨_, rfl⟩

/-- R98: the slot of the bus holds an ECHO of the applied values `v` and `m`. -/
def EchoWaits (b : Fin 24) (v m : Value) (d : Desk) : Prop :=
  (d.note.waiting? (.echo b)).map (·.payload) = some (levelPayload v (m.getLsbD 0))

theorem EchoWaits.made (b : Fin 24) (d : Desk) :
    EchoWaits b (d.control (masterId b)).applied (d.control (masterMuteId b)).applied (d.queueEcho b) := by
  unfold EchoWaits Desk.queueEcho
  rw [note_queue, Note.waiting?_queue_self]
  rfl

/-- R55, R98: every homed bus has its ECHO queued. -/
theorem echoWaits_queueHoldings {e : Env} {b : Fin 24} (homed : e.homesBus b = true) (d : Desk) :
    EchoWaits b (d.control (masterId b)).applied (d.control (masterMuteId b)).applied (d.queueHoldings e) := by
  have made : ∀ d' : Desk, d'.auto = d.auto → EchoWaits b (d.control (masterId b)).applied
      (d.control (masterMuteId b)).applied (d'.queueEcho b) := by
    intro d' auto
    have same : ∀ c, d.control c = d'.control c := fun c => by unfold Desk.control; rw [auto]
    rw [same, same]
    exact .made b d'
  have run := each_reaches (P := fun d' => d'.auto = d.auto)
    (Q := fun d' => d'.auto = d.auto ∧
      EchoWaits b (d.control (masterId b)).applied (d.control (masterMuteId b)).applied d')
    (f := Desk.queueEcho) (fun _ _ auto => auto) (fun a d' ⟨auto, waits⟩ => ?_) (fun d' auto => ⟨auto, made d' auto⟩)
    (Env.mem_homedBuses homed)
    (d := { d with note := { d.note.queue .holdings .holdings 0 with timer := 0 } }) rfl
  · exact run.2
  · by_cases same : a = b
    · subst same
      exact ⟨auto, made d' auto⟩
    · refine ⟨auto, ?_⟩
      unfold EchoWaits Desk.queueEcho
      rw [note_queue, Note.waiting?_queue_of_ne (by simpa using Ne.symm same)]
      exact waits

/-- R58, R78: the sample event at which a station has not been heard for 4096 sp. -/
theorem ageOf_of_last {e : Env} {x : Fin 24} {d : Desk} (h : d.note.ages[x] = some 4095) :
    d.ageOf e x = Desk.stationGone e x.val { d with note := { d.note with ages := d.note.ages.set x (some 4096) } } := by
  unfold Desk.ageOf
  rw [h]
  rfl

end Desk

end Sys2Proof.Machine

open Sys2Proof Sys2Proof.Machine

/-- Settles O40: the timer's last count queues the HOLDINGS with the ECHOs, and an age's last count clears the zones. -/
theorem holdingsCounts : Obligations.HoldingsCounts := by
  refine ⟨fun s live on last => ?_, fun s x live last => ?_⟩
  · have run : exec .holdingsTimer s = .next { s with desk := s.desk.queueHoldings s.env } := by
      have due : (s.ring.state.onRing && s.desk.note.timer == 1023) = true := by rw [on, last]; rfl
      have queued : s.desk.timerStep s.env = s.desk.queueHoldings s.env := if_pos (by rw [last])
      rw [← queued]
      exact congrArg Host.Outcome.next (State.part_of_clocked live due _)
    obtain ⟨timer, holdings⟩ := Desk.queueHoldings_note s.env s.desk
    have echoes := Desk.AutoFrame.each s.env.homedBuses Desk.queueEcho Desk.frame_queueEcho
      { s.desk with note := { s.desk.note.queue .holdings .holdings 0 with timer := 0 } }
    obtain ⟨n, alone⟩ := Desk.queueHoldings_eq s.env s.desk
    refine ⟨_, run, timer, by rw [holdings]; rfl, fun b homed => Desk.echoWaits_queueHoldings homed s.desk, ?_, ?_, ?_⟩
    · exact echoes.flight.trans (Note.queue_flight _ _ _ s.desk.note)
    · exact echoes.ages.trans (Note.queue_ages _ _ _ s.desk.note)
    · rw [alone]
  · obtain ⟨d, hd⟩ : ∃ d, d = { s.desk with note := { s.desk.note with ages := s.desk.note.ages.set x (some 4096) } } :=
      ⟨_, rfl⟩
    obtain ⟨v, gone⟩ := Desk.stationGone_eq s.env x.val d
    have run : exec (.holdingsExpiry x) s = .next { s with desk := d.stationGone s.env x.val } := by
      have due : ageExpires s.desk.note.ages[x] = true := by rw [last]; rfl
      rw [hd, ← Desk.ageOf_of_last last]
      exact congrArg Host.Outcome.next (State.part_of_clocked live due _)
    have zones : ∀ (z : Fin 4) (y : Nat), StationSet.has (d.setZones x.val 0).strip.zones[z] y =
        (StationSet.has s.desk.strip.zones[z] y && decide (x.val ≠ y)) := fun z y => by
      rw [Desk.zones_setZones_zero, Desk.has_remove, hd]
    rw [gone] at run
    refine ⟨_, run, ?_, fun z => ⟨?_, fun y _ other => ?_⟩, rfl, rfl, rfl, ?_, ?_, ?_, ?_, ?_,
      ⟨rfl, rfl, rfl, rfl, rfl, rfl, rfl, rfl⟩⟩
    · simp [hd]
    · exact (zones z x.val).trans (by simp)
    · exact (zones z y).trans (by simp [other.symm])
    all_goals rw [hd]
end

section
/-!
Cells as they are written and read (R42, 11.2, R183), and the payloads that notices carry in them.
-/

set_option Elab.async false

namespace Sys2Proof.Machine

theorem kindCode_ne_zero (k : NoticeKind) : kindCode k ≠ 0 := by cases k <;> decide

/-- 11.2: the six fields of a cell lie where they are read. -/
theorem writeCell_fields (n : Notice) :
    (writeCell n).extractLsb' 60 4 = kindCode n.kind ∧ (writeCell n).extractLsb' 55 5 = n.origin ∧
    (writeCell n).extractLsb' 49 6 = n.hop ∧ (writeCell n).extractLsb' 44 5 = n.bus ∧
    (writeCell n).extractLsb' 41 3 = n.mark.code ∧ (writeCell n).extractLsb' 0 32 = payloadBits n.kind n.payload := by
  unfold writeCell
  refine ⟨?_, ?_, ?_, ?_, ?_, ?_⟩
  · iterate 6 rw [BitVec.extractLsb'_append_eq_of_le (by decide)]
    exact BitVec.extractLsb'_eq_self
  · iterate 5 rw [BitVec.extractLsb'_append_eq_of_le (by decide)]
    rw [BitVec.extractLsb'_append_eq_of_add_le (by decide)]
    exact BitVec.extractLsb'_eq_self
  · iterate 4 rw [BitVec.extractLsb'_append_eq_of_le (by decide)]
    rw [BitVec.extractLsb'_append_eq_of_add_le (by decide)]
    exact BitVec.extractLsb'_eq_self
  · iterate 3 rw [BitVec.extractLsb'_append_eq_of_le (by decide)]
    rw [BitVec.extractLsb'_append_eq_of_add_le (by decide)]
    exact BitVec.extractLsb'_eq_self
  · iterate 2 rw [BitVec.extractLsb'_append_eq_of_le (by decide)]
    rw [BitVec.extractLsb'_append_eq_of_add_le (by decide)]
    exact BitVec.extractLsb'_eq_self
  · rw [BitVec.extractLsb'_append_eq_of_add_le (by decide)]
    exact BitVec.extractLsb'_eq_self

/-- R42, R183: a notice written into a cell is read back. -/
theorem readCell_writeCell (n : Notice) :
    readCell (writeCell n) = .notice { n with payload := payloadBits n.kind n.payload } := by
  obtain ⟨kind, origin, hop, bus, mark, payload⟩ := writeCell_fields n
  unfold readCell
  dsimp only
  rw [kind, origin, hop, bus, mark, payload, if_neg fun h => kindCode_ne_zero n.kind h.1, kindOfCode?_kindCode,
    Mark.ofCode?_code]

/-- R56: the digest and the solo bits of a HOLDINGS read back. -/
theorem holdingsPayload_fields (digest : BitVec 16) (bits : SoloBits) :
    (holdingsPayload digest bits).extractLsb' 0 16 = digest ∧
    ∀ z : Fin 4, (holdingsPayload digest bits).getLsbD (16 + z.val) = bits.getLsbD z.val := by
  unfold holdingsPayload
  refine ⟨?_, fun z => ?_⟩
  · rw [BitVec.extractLsb'_append_eq_of_add_le (by decide)]
    exact BitVec.extractLsb'_eq_self
  · rw [BitVec.getLsbD_append, if_neg (by omega), BitVec.getLsbD_append, if_pos (by omega), Nat.add_sub_cancel_left]

theorem payloadRoster_eq (p : BitVec 32) : payloadRoster p = p.toNat % 32 := by
  simp [payloadRoster]

@[simp] theorem getLsbD_payloadSolo (p : BitVec 32) (z : Fin 4) : (payloadSolo p).getLsbD z.val = p.getLsbD z.val := by
  simp [payloadSolo]

@[simp] theorem getLsbD_payloadHoldingsSolo (p : BitVec 32) (z : Fin 4) :
    (payloadHoldingsSolo p).getLsbD z.val = p.getLsbD (16 + z.val) := by
  simp [payloadHoldingsSolo]

/-- R46: above 48 hops a notice is removed. -/
theorem forward_of_limit {n : Notice} (h : 48 ≤ n.hop.toNat) : forward n = 0 := if_pos (by omega)

/-- R46: a notice is forwarded with one hop more. -/
theorem forward_of_hops {n : Notice} (h : n.hop.toNat < 48) : forward n = writeCell { n with hop := n.hop + 1 } :=
  if_neg (by omega)

end Sys2Proof.Machine
end

section
/-!
The work on a cell (R44) by what it holds: the station's own notice comes back (R45, R53), an empty cell takes the oldest
eligible entry (R47, R51, R56), a foreign notice is acted on and forwarded (R43, R46, R48).
-/

set_option Elab.async false

namespace Sys2Proof.Machine

/-! ## The pending list and the in-flight table at a placement (R51, R53) -/

/-- R51: an entry leaves the pending list and stands in the in-flight table, with its payload and the instant. -/
def Note.place (w : Waiting) (p : BitVec 32) (now : Nat) (n : Note) : Note :=
  { n.withdraw w.slot with flight := n.flight ++ [{ slot := w.slot, kind := w.kind, payload := p, placed := now }] }

/-- R51: the eligible entry waits, and its slot has nothing in flight. -/
theorem Note.flight?_of_eligible? {n : Note} {w : Waiting} (h : n.eligible? = some w) : n.flight? w.slot = none := by
  have free := List.find?_some h
  exact Option.isNone_iff_eq_none.mp free

section
variable {n : Note} {w : Waiting} (p : BitVec 32) (now : Nat)

theorem Note.waiting?_place_self : (n.place w p now).waiting? w.slot = none := n.waiting?_withdraw_self w.slot

theorem Note.waiting?_place_of_ne {y : Slot} (h : y ≠ w.slot) : (n.place w p now).waiting? y = n.waiting? y :=
  n.waiting?_withdraw_of_ne h

theorem Note.flight?_place_self (h : n.flight? w.slot = none) : (n.place w p now).flight? w.slot =
    some { slot := w.slot, kind := w.kind, payload := p, placed := now } := by
  unfold Note.flight? at h ⊢
  simp [Note.place, h]

theorem Note.flight?_place_of_ne {y : Slot} (h : y ≠ w.slot) : (n.place w p now).flight? y = n.flight? y := by
  have other : (w.slot == y) = false := beq_eq_false_iff_ne.mpr h.symm
  unfold Note.flight?
  simp [Note.place, other]

end

/-! ## The requester told of its DRIVE (R108, R110) -/

theorem Desk.tellPlaced_of_not_drive {x : Slot} (h : ∀ b, x ≠ .drive b) (d : Desk) : d.tellPlaced x = d := by
  unfold Desk.tellPlaced
  split
  · exact absurd rfl (h _)
  · rfl

/-- R110: the requester may queue its RELEASE, in its CLAIM's slot, and that is all NOTE hears. -/
theorem Desk.note_drivePlaced (b : Fin 24) (d : Desk) : (d.drivePlaced b).note.flight = d.note.flight ∧
    ∀ y, y ≠ .claim b → (d.drivePlaced b).note.waiting? y = d.note.waiting? y := by
  unfold Desk.drivePlaced
  dsimp only
  split
  · exact ⟨Note.queue_flight _ _ _ _, fun y h => Note.waiting?_queue_of_ne h _ _ _⟩
  · exact ⟨rfl, fun _ _ => rfl⟩

/-- R51: telling the owner of a placed notice leaves the in-flight table, and no new entry waits in that slot. -/
theorem Desk.note_tellPlaced (x : Slot) (d : Desk) : (d.tellPlaced x).note.flight = d.note.flight ∧
    (d.tellPlaced x).note.waiting? x = d.note.waiting? x := by
  by_cases drive : ∃ b, x = .drive b
  · obtain ⟨b, rfl⟩ := drive
    obtain ⟨flight, waiting⟩ := Desk.note_drivePlaced b d
    exact ⟨flight, waiting (.drive b) nofun⟩
  · rw [Desk.tellPlaced_of_not_drive fun b e => drive ⟨b, e⟩]
    exact ⟨rfl, rfl⟩

/-! ## The marks that reach no owner (R45) -/

/-- R45: the marks of ECHO, SOLO, HOLDINGS and ROSTER are handed to no owner. -/
theorem Desk.handMark_of_unowned {k : NoticeKind} {bus : Nat} {x : Slot} (slot : slotOf? k bus = some x)
    (h : k = .echo ∨ k = .solo ∨ k = .holdings ∨ k = .roster) (m : Mark) (d : Desk) : d.handMark x k m = d := by
  rcases h with rfl | rfl | rfl | rfl
  case inl =>
    have echo : (if h : bus < 24 then some (Slot.echo ⟨bus, h⟩) else none) = some x := slot
    split at echo
    · cases echo
      rfl
    · cases echo
  all_goals
    cases slot
    rfl

/-! ## The buses homed here (R48) -/

/-- The bus is none that this station homes. -/
theorem Env.homedBus?_of_none {e : Env} {n : Nat} (h : ∀ b : Fin 24, n = b.val → e.homesBus b = false) :
    e.homedBus? n = none := by
  unfold Env.homedBus?
  split
  · next below => rw [h ⟨n, below⟩ rfl]; rfl
  · rfl

theorem Env.homedBus?_of_homed {e : Env} {b : Fin 24} (h : e.homesBus b = true) : e.homedBus? b.val = some b := by
  unfold Env.homedBus?
  rw [dif_pos b.isLt, if_pos h]

namespace State

/-! ## The work on a cell by what it holds (R44) -/

@[simp] theorem workCell_zero (s : State) : s.workCell 0 = s.place := by
  unfold State.workCell
  rw [readCell_zero]

section
variable {s : State} {c : BitVec 64} {n : Notice}

theorem workCell_of_own (h : readCell c = .notice n) (own : n.origin.toNat = s.self) : s.workCell c = (s.strip n, 0) := by
  unfold State.workCell
  rw [h]
  exact if_pos own

theorem workCell_of_foreign (h : readCell c = .notice n) (foreign : n.origin.toNat ≠ s.self) :
    s.workCell c = ((s.act n).1, forward (s.act n).2) := by
  unfold State.workCell
  rw [h]
  exact if_neg foreign

/-! ## The station's own notice (R45) -/

/-- R45: a notice that closes no entry in flight is stripped, and nothing more happens. -/
theorem strip_of_stale (h : ∀ x f, slotOf? n.kind n.bus.toNat = some x → s.desk.note.flight? x = some f →
    f.placed + n.hop.toNat + 1 ≠ s.instant) : s.strip n = s := by
  unfold State.strip
  split
  · next x slot =>
    split
    · next f found => exact if_neg (h x f slot found)
    · rfl
  · rfl

/-- R45, R53: the notice of the entry in flight closes it. -/
theorem strip_of_return {x : Slot} {f : Flight} (slot : slotOf? n.kind n.bus.toNat = some x)
    (found : s.desk.note.flight? x = some f) (back : f.placed + n.hop.toNat + 1 = s.instant) :
    s.strip n = { s with desk := s.desk.closeFlight x n.kind n.mark } := by
  unfold State.strip
  rw [slot]
  dsimp only
  rw [found]
  exact if_pos back

end

/-! ## Placement (R47, R51, R56) -/

theorem place_of_none {s : State} (h : s.desk.note.eligible? = none) : s.place = (s, 0) := by
  unfold State.place
  rw [h]

/-- R47, R51: the eligible entry is placed, and its owner told. -/
theorem place_of_eligible {s : State} {w : Waiting} (h : s.desk.note.eligible? = some w) : s.place =
    ({ s with desk := { s.desk with note := s.desk.note.place w (s.placedPayload w) s.instant }.tellPlaced w.slot },
      writeCell { kind := w.kind, origin := BitVec.ofNat 5 s.self, hop := 0, bus := BitVec.ofNat 5 (Slot.bus w.slot),
                  mark := .none, payload := s.placedPayload w }) := by
  unfold State.place
  rw [h]
  rfl

/-- R56: the payload is the queued one, but for a HOLDINGS, which takes the plan digest and the own solo bits. -/
theorem placedPayload_spec (s : State) (w : Waiting) : (w.kind ≠ .holdings → s.placedPayload w = w.payload) ∧
    (∀ c, w.kind = .holdings → s.conf = some c → (s.placedPayload w).extractLsb' 0 16 = c.digest ∧
      ∀ z : Fin 4, (s.placedPayload w).getLsbD (16 + z.val) = s.desk.strip.ownBits.getLsbD z.val) := by
  unfold State.placedPayload
  refine ⟨fun other => if_neg other, fun c holdings conf => ?_⟩
  rw [if_pos holdings, conf]
  exact holdingsPayload_fields c.digest s.desk.strip.ownBits

/-! ## What a foreign notice leaves with (R43, R46, R48) -/

/-- R43, R48: only the mark of a notice changes at a home, and only where the home answers it. -/
theorem actAnswered_notice (n : Notice) (s : State) : ∃ m, (s.actAnswered n).2 = { n with mark := m } ∧
    (n.mark ≠ .none ∨ (∀ b : Fin 24, n.bus.toNat = b.val → s.env.homesBus b = false) → m = n.mark) := by
  unfold State.actAnswered
  split
  · next b homed =>
    split
    · next unmarked =>
      refine ⟨_, rfl, fun h => ?_⟩
      rcases h with marked | none
      · exact absurd unmarked marked
      · rw [Env.homedBus?_of_none none] at homed
        cases homed
    · exact ⟨n.mark, rfl, fun _ => rfl⟩
  · exact ⟨n.mark, rfl, fun _ => rfl⟩

theorem act_of_answered {s : State} {n : Notice} (below : n.origin.toNat < 24)
    (kind : n.kind = .claim ∨ n.kind = .drive ∨ n.kind = .release) : s.act n = s.actAnswered n := by
  unfold State.act
  rw [if_pos below]
  rcases kind with kind | kind | kind <;> rw [kind]

/-- R43, R48: a notice that this station does not answer keeps its mark. -/
theorem act_notice (n : Notice) (s : State) : ∃ m, (s.act n).2 = { n with mark := m } ∧
    (n.mark ≠ .none ∨ 24 ≤ n.origin.toNat ∨ n.kind = .echo ∨ n.kind = .solo ∨ n.kind = .holdings ∨ n.kind = .roster ∨
      (∀ b : Fin 24, n.bus.toNat = b.val → s.env.homesBus b = false) → m = n.mark) := by
  by_cases answered : n.origin.toNat < 24 ∧ (n.kind = .claim ∨ n.kind = .drive ∨ n.kind = .release)
  · obtain ⟨below, kind⟩ := answered
    obtain ⟨m, left, same⟩ := s.actAnswered_notice n
    rw [act_of_answered below kind]
    refine ⟨m, left, fun h => same ?_⟩
    rcases h with marked | far | other | other | other | other | none
    case inl => exact .inl marked
    case inr.inl => omega
    case inr.inr.inr.inr.inr.inr => exact .inr none
    all_goals simp [other] at kind
  · have kept : (s.act n).2 = n := by
      unfold State.act
      split
      · next below =>
        have other := fun kind => answered ⟨below, kind⟩
        split
        · next kind => exact (other (.inl kind)).elim
        · next kind => exact (other (.inr (.inl kind))).elim
        · next kind => exact (other (.inr (.inr kind))).elim
        all_goals rfl
      · rfl
    exact ⟨n.mark, kept, fun _ => rfl⟩

end State

end Sys2Proof.Machine
end

section
/-!
What a foreign notice of each kind does at the cell (R48): CLAIM, DRIVE and RELEASE at a home (R100 to R102), ECHO at a
requester (R111), SOLO (R61, R77), HOLDINGS (R57) and ROSTER (R60).
-/

set_option Elab.async false

namespace Sys2Proof.Machine

/-! ## The zone solo table (R77) -/

/-- R77: the station's four bits stand in the table, zone by zone. -/
theorem Desk.has_setZones (x : Fin 24) (bits : SoloBits) (z : Fin 4) (d : Desk) :
    StationSet.has (d.setZones x.val bits).strip.zones[z] x.val = bits.getLsbD z.val := by
  have here : (d.setZones x.val bits).strip.zones[z] =
      if bits.getLsbD z.val then StationSet.add d.strip.zones[z] x.val else StationSet.remove d.strip.zones[z] x.val :=
    Vector.getElem_ofFn _
  rw [here]
  rcases bit : bits.getLsbD z.val with _ | _
  · exact (Desk.has_remove _ _ _).trans (by simp)
  · exact (StationSet.has_add _ _ _).trans (by simp)

/-- R77: the bits of another station enter the zone solo table, and STRIP alone hears of it. -/
theorem Desk.stationSolo_eq {e : Env} {x : Nat} (h : x ≠ e.self) (bits : SoloBits) (d : Desk) :
    ∃ v, d.stationSolo e x bits = { d with strip := { (d.setZones x bits).strip with strips := v } } := by
  obtain ⟨v, gates⟩ := Desk.regate_eq e (d.setZones x bits)
  exact ⟨v, (if_neg h).trans gates⟩

/-! ## Sets of stations (R26, R60) -/

/-- A station that is present is no news. -/
theorem StationSet.add_of_has {s : StationSet} {x : Nat} (h : StationSet.has s x = true) : StationSet.add s x = s := by
  refine BitVec.eq_of_getLsbD_eq fun y _ => ?_
  have added := StationSet.has_add s x y
  by_cases same : x = y
  · subst same
    exact added.trans (by rw [h, Bool.true_or]; exact h.symm)
  · exact added.trans (by simp [same, StationSet.has])

theorem StationSet.add_ne_of_not_has {s : StationSet} {x : Fin 24} (h : StationSet.has s x.val = false) :
    StationSet.add s x.val ≠ s := by
  intro same
  have added := StationSet.has_add s x.val x.val
  rw [same, h] at added
  simp at added

/-- R60: who is present after a ROSTER from `a` that names `e`. -/
theorem has_rosterAfter {self a e y : Nat} {present : StationSet} (hy : y < 24) :
    StationSet.has (rosterAfter self a e present) y = true ↔
      y = e ∨ y = a ∨ StationSet.has present y = true ∧ (y = self ∨
        ¬ (e = a ∨ 0 < (y + 24 - e) % 24 ∧ (y + 24 - e) % 24 < (a + 24 - e) % 24)) := by
  unfold rosterAfter strictlyBetween
  rw [StationSet.has_stationsWhere]
  by_cases emitter : y = e
  · simp [emitter, emitter ▸ hy]
  · by_cases same : e = a
    · subst same
      simp [emitter, hy]
    · simp [emitter, same, hy, Nat.pos_iff_ne_zero, ← or_iff_not_imp_left]

/-! ## The drive list after an ECHO (R91, R111) -/

theorem Touch.drives_drive (m : FaderTarget) (v : Value) (t : Touch) (f : Fin 32) :
    (t.drive m v).drives[f] = if t.map[f] = m then some v else t.drives[f] := by
  simp [Touch.drive]

theorem Desk.reqOf_reqEcho (b : Fin 24) (v : Value) (m : Bool) (d : Desk) :
    (d.reqEcho b v m).reqOf b = { d.reqOf b with echo := some (v, m) } := by
  unfold Desk.reqEcho
  dsimp only
  split <;> simp

theorem Desk.touch_reqEcho (b : Fin 24) (v : Value) (m : Bool) (d : Desk) : (d.reqEcho b v m).touch =
    if (d.reqOf b).claim = .driving then d.touch else d.touch.drive (.bus b) v := by
  unfold Desk.reqEcho
  dsimp only
  split <;> rfl

/-! ## The buses of a notice (R48) -/

/-- R100 to R102: the home answers by the notice's kind. -/
theorem Desk.answer_of_kind {n : Notice} {b : Fin 24} {x : Nat} {e : Env} {d : Desk} {r : Desk × Mark} (origin : n.origin.toNat = x)
    (kind : n.kind = .claim ∨ n.kind = .drive ∨ n.kind = .release) (claim : n.kind = .claim → r = d.homeClaim e b x)
    (drive : n.kind = .drive → r = d.homeDrive e b x (n.payload.extractLsb' 0 10) (n.payload.getLsbD 10))
    (release : n.kind = .release → r = d.homeRelease e b x) : d.answer e b n = r := by
  subst origin
  unfold Desk.answer
  rcases kind with kind | kind | kind <;> rw [kind]
  · exact (claim kind).symm
  · exact (drive kind).symm
  · exact (release kind).symm

theorem Env.requestedBus?_of_bus {e : Env} {b : Fin 24} {y : Bus} (bus : e.bus? b = some y) (away : y.home ≠ e.self) :
    e.requestedBus? b.val = some b := by
  have requested : e.requestsBus b = true := by
    unfold Env.requestsBus
    rw [bus]
    simpa using away
  unfold Env.requestedBus?
  rw [dif_pos b.isLt, if_pos requested]

namespace State

section
variable {s : State} {n : Notice}

/-! ## At a home (R48, R100 to R102) -/

/-- R43, R48: a marked notice, and one of a bus homed elsewhere, do nothing. -/
theorem actAnswered_of_unanswered
    (h : n.mark ≠ .none ∨ ∀ b : Fin 24, n.bus.toNat = b.val → s.env.homesBus b = false) : s.actAnswered n = (s, n) := by
  unfold State.actAnswered
  rcases h with marked | none
  · split
    · exact if_neg marked
    · rfl
  · rw [Env.homedBus?_of_none none]

theorem actAnswered_of_homed {b : Fin 24} (bus : n.bus.toNat = b.val) (homed : s.env.homesBus b = true)
    (unmarked : n.mark = .none) : s.actAnswered n =
      ({ s with desk := (s.desk.answer s.env b n).1 }, { n with mark := (s.desk.answer s.env b n).2 }) := by
  unfold State.actAnswered
  rw [bus, Env.homedBus?_of_homed homed]
  exact if_pos unmarked

/-! ## At a requester (R48, R111) -/

theorem actEcho_of_home {b : Fin 24} {y : Bus} (number : n.bus.toNat = b.val) (bus : s.env.bus? b = some y)
    (away : y.home ≠ s.self) (home : y.home = n.origin.toNat) :
    s.actEcho n = { s with desk := s.desk.reqEcho b (n.payload.extractLsb' 0 10) (n.payload.getLsbD 10) } := by
  unfold State.actEcho
  rw [number, Env.requestedBus?_of_bus bus away]
  exact if_pos (by rw [bus, ← home]; rfl)

/-- R48: an ECHO from another station than the bus's home does nothing. -/
theorem actEcho_of_other (h : ∀ (b : Fin 24) (y : Bus), n.bus.toNat = b.val → s.env.bus? b = some y →
    y.home ≠ n.origin.toNat) : s.actEcho n = s := by
  unfold State.actEcho
  split
  · next b requested =>
    refine if_neg fun home => ?_
    obtain ⟨y, bus, same⟩ := Option.map_eq_some_iff.mp home
    refine h b y ?_ bus same
    unfold Env.requestedBus? at requested
    split at requested
    · split at requested
      · cases requested
        rfl
      · cases requested
    · cases requested
  · rfl

/-! ## HOLDINGS (R57) -/

theorem ring_mismatch (s : State) : s.mismatch.ring = { s.ring with
    state := if s.ring.state = .inserted ∨ s.ring.state = .relocking then .conflict else s.ring.state } := by
  rcases h : s.ring.state with _ | _ | _ | _ | _ <;> simp [State.mismatch, h] <;> simp [← h]

theorem desk_mismatch (s : State) : s.mismatch.desk = s.desk.raise .planMismatch := by
  unfold State.mismatch
  split <;> rfl

/-- R57: what a HOLDINGS of station `x` leaves before its digest is looked at: the roster with `x` in it, the age and the zone
solo bits of `x`. -/
structure HeardFrom (x : Fin 24) (bits : SoloBits) (s t : State) : Prop where
  conf  : t.conf = s.conf
  ring  : t.ring = (s.applyRoster (StationSet.add s.ring.present x.val)).ring
  age   : t.desk.note.ages[x] = some 0
  zones : ∀ z : Fin 4, StationSet.has t.desk.strip.zones[z] x.val = bits.getLsbD z.val
  stay  : ∀ g, (s.applyRoster (StationSet.add s.ring.present x.val)).flag g = true → t.flag g = true

/-- R57: a HOLDINGS of another station, with its digest looked at last. -/
theorem actHoldings_eq {x : Fin 24} (origin : n.origin.toNat = x.val) (other : x.val ≠ s.self) :
    ∃ t, HeardFrom x (payloadHoldingsSolo n.payload) s t ∧
      s.actHoldings n = if t.differs (payloadDigest n.payload) then t.mismatch else t := by
  obtain ⟨u, hu⟩ : ∃ u, u = s.applyRoster (StationSet.add s.ring.present x.val) := ⟨_, rfl⟩
  obtain ⟨_, _, strap, _, conf, _⟩ := hu ▸ s.outside_applyRoster (StationSet.add s.ring.present x.val)
  obtain ⟨d, hd⟩ : ∃ d, d = { u.desk with note :=
    { u.desk.note with ages := u.desk.note.ages.setIfInBounds x.val (some 0) } } := ⟨_, rfl⟩
  have away : x.val ≠ u.env.self := by
    have self : u.env.self = s.self := congrArg BitVec.toNat strap
    rw [self]
    exact other
  obtain ⟨v, solo⟩ := Desk.stationSolo_eq away (payloadHoldingsSolo n.payload) d
  refine ⟨{ u with desk := d.stationSolo u.env x.val (payloadHoldingsSolo n.payload) },
    ⟨conf, by rw [hu], ?_, fun z => ?_, fun g set => ?_⟩, ?_⟩
  · rw [solo, hd]
    simp
  · rw [solo]
    exact Desk.has_setZones x _ z d
  · rw [← hu] at set
    refine (Desk.flags_stationSolo u.env x.val (payloadHoldingsSolo n.payload) d).stay g ?_
    rw [hd]
    exact set
  · unfold State.actHoldings
    rw [origin, hu, hd, hu]
    rfl

/-- The digest is the station's own, or it is not. -/
theorem differs_iff (s : State) (g : BitVec 16) : s.differs g = true ↔ s.conf.map (·.digest) ≠ some g := bne_iff_ne

end

end State

end Sys2Proof.Machine
end

section
/-!
The work on a cell put together (R45 to R48, R51, R57, R60, R61).
-/

set_option Elab.async false

namespace Sys2Proof.Machine.State

variable {s : State} {n : Notice}

/-- R57, R27: a HOLDINGS brings its station into the present set; only a station not present before is a change. -/
theorem ring_actHoldings {x : Fin 24} (origin : n.origin.toNat = x.val) (other : x.val ≠ s.self) :
    (s.actHoldings n).ring.present = StationSet.add s.ring.present x.val ∧
    (StationSet.has s.ring.present x.val = true → (s.actHoldings n).ring.settle = s.ring.settle) ∧
    (StationSet.has s.ring.present x.val = false → (s.actHoldings n).flag .rosterChange = true ∧
      (s.actHoldings n).ring.settle = settleLength (StationSet.add s.ring.present x.val)) := by
  obtain ⟨t, heard, whole⟩ := actHoldings_eq (s := s) origin other
  have last : (s.actHoldings n).ring.present = t.ring.present ∧ (s.actHoldings n).ring.settle = t.ring.settle ∧
      ∀ g, t.flag g = true → (s.actHoldings n).flag g = true := by
    rw [whole]
    split
    · rw [ring_mismatch]
      exact ⟨rfl, rfl, t.flags_mismatch.stay⟩
    · exact ⟨rfl, rfl, fun _ => id⟩
  obtain ⟨present, settle, stay⟩ := last
  rw [heard.ring] at present settle
  refine ⟨present.trans (present_applyRoster _ s), fun there => ?_, fun absent => ?_⟩
  · rw [settle, StationSet.add_of_has there, applyRoster_present]
  · have change := StationSet.add_ne_of_not_has absent
    refine ⟨stay _ (heard.stay _ (flag_applyRoster change)), settle.trans ?_⟩
    rw [applyRoster_of_ne change]
    rfl

/-- R57, R77: a HOLDINGS sets its station's age to 0 and brings its solo bits. -/
theorem desk_actHoldings {x : Fin 24} (origin : n.origin.toNat = x.val) (other : x.val ≠ s.self) :
    (s.actHoldings n).desk.note.ages[x] = some 0 ∧
    ∀ z : Fin 4, StationSet.has (s.actHoldings n).desk.strip.zones[z] x.val = n.payload.getLsbD (16 + z.val) := by
  obtain ⟨t, heard, whole⟩ := actHoldings_eq (s := s) origin other
  have last : (s.actHoldings n).desk.note = t.desk.note ∧ (s.actHoldings n).desk.strip = t.desk.strip := by
    rw [whole]
    split
    · rw [desk_mismatch]
      exact ⟨rfl, rfl⟩
    · exact ⟨rfl, rfl⟩
  obtain ⟨note, strip⟩ := last
  rw [note, strip]
  exact ⟨heard.age, fun z => (heard.zones z).trans (getLsbD_payloadHoldingsSolo n.payload z)⟩

/-- R39, R57: a digest other than the station's own is a mismatch, and takes an inserted station into CONFLICT. -/
theorem digest_actHoldings {x : Fin 24} (origin : n.origin.toNat = x.val) (other : x.val ≠ s.self) :
    (s.conf.map (·.digest) = some (payloadDigest n.payload) → (s.actHoldings n).ring.state = s.ring.state) ∧
    (s.conf.map (·.digest) ≠ some (payloadDigest n.payload) → (s.actHoldings n).flag .planMismatch = true ∧
      (s.actHoldings n).ring.state =
        if s.ring.state = .inserted ∨ s.ring.state = .relocking then .conflict else s.ring.state) := by
  obtain ⟨t, heard, whole⟩ := actHoldings_eq (s := s) origin other
  have state : t.ring.state = s.ring.state := by
    rw [heard.ring]
    by_cases same : StationSet.add s.ring.present x.val = s.ring.present
    · rw [same, applyRoster_present]
    · rw [applyRoster_of_ne same]
      rfl
  have differs := differs_iff t (payloadDigest n.payload)
  rw [heard.conf] at differs
  rw [whole]
  refine ⟨fun same => ?_, fun different => ?_⟩
  · rw [if_neg fun h => differs.mp h same, state]
  · rw [if_pos (differs.mpr different), ring_mismatch, state]
    refine ⟨?_, rfl⟩
    unfold State.flag
    rw [desk_mismatch, Desk.flag_raise]
    simp

/-- R48: what the notices that no home answers do. -/
theorem act_by_kind (below : n.origin.toNat < 24) : (n.kind = .echo → (s.act n).1 = s.actEcho n) ∧
    (n.kind = .solo → (s.act n).1 = s.actSolo n) ∧ (n.kind = .holdings → (s.act n).1 = s.actHoldings n) ∧
    (n.kind = .roster → (s.act n).1 = s.actRoster n) := by
  unfold State.act
  rw [if_pos below]
  refine ⟨fun kind => ?_, fun kind => ?_, fun kind => ?_, fun kind => ?_⟩ <;> rw [kind]

/-- R48, R61: a SOLO of a present station enters the zone solo table. -/
theorem actSolo_of_present {x : Fin 24} (origin : n.origin.toNat = x.val) (other : x.val ≠ s.self)
    (there : StationSet.has s.ring.present x.val = true) (z : Fin 4) :
    StationSet.has (s.actSolo n).desk.strip.zones[z] x.val = n.payload.getLsbD z.val := by
  obtain ⟨v, solo⟩ := Desk.stationSolo_eq (e := s.env) other (payloadSolo n.payload) s.desk
  have acted : s.actSolo n = { s with desk := s.desk.stationSolo s.env x.val (payloadSolo n.payload) } := by
    unfold State.actSolo
    rw [origin]
    exact if_pos there
  rw [acted, solo]
  exact (Desk.has_setZones x _ z s.desk).trans (getLsbD_payloadSolo n.payload z)

/-- R45, R53: the station's own notice closes the entry placed hop count + 1 sp before, and hands its mark on. -/
theorem strip_eq_handMark {x : Slot} {f : Flight} (slot : slotOf? n.kind n.bus.toNat = some x)
    (found : s.desk.note.flight? x = some f) (back : f.placed + n.hop.toNat + 1 = s.instant) :
    s.strip n = { s with desk := Desk.handMark x n.kind n.mark { s.desk with note := s.desk.note.close x } } :=
  strip_of_return slot found back

/-- R51, R53: what NOTE holds of the placed entry's slot and of the others' flights. -/
theorem note_place {w : Waiting} (h : s.desk.note.eligible? = some w) :
    s.place.1.desk.note.flight = (s.desk.note.place w (s.placedPayload w) s.instant).flight ∧
    s.place.1.desk.note.waiting? w.slot = none := by
  rw [place_of_eligible h]
  obtain ⟨flight, waiting⟩ := Desk.note_tellPlaced w.slot
    { s.desk with note := s.desk.note.place w (s.placedPayload w) s.instant }
  exact ⟨flight, waiting.trans (Note.waiting?_place_self _ _)⟩

end Sys2Proof.Machine.State

open Sys2Proof Sys2Proof.Machine

/-- Settles O37: the cell by what it holds, and a foreign notice by its kind. -/
theorem cellsOfAnArrival : Obligations.CellsOfAnArrival := by
  refine ⟨readCell_writeCell, ⟨fun s c n read own => ?_, fun s c n read foreign => ?_, fun s => ⟨fun none => ?_, ?_⟩⟩, ?_⟩
  · rw [State.workCell_of_own read own]
    refine ⟨rfl, State.strip_of_stale, fun x f d slot found back closed => ?_⟩
    rw [State.strip_eq_handMark slot found back, ← closed]
    refine ⟨?_, fun y other => ?_, ?_, ?_, ?_, fun unowned => ?_⟩
    · rw [closed]
      exact Note.flight?_close_self x s.desk.note
    · rw [closed]
      exact Note.flight?_close_of_ne other s.desk.note
    · rintro b kind rfl
      rw [kind]
      rfl
    · rintro b kind rfl
      rw [kind]
      rfl
    · rintro b kind rfl
      rw [kind]
      rfl
    · rw [Desk.handMark_of_unowned slot unowned]
  · obtain ⟨m, left, same⟩ := s.act_notice n
    rw [State.workCell_of_foreign read foreign, left]
    exact ⟨fun limit => forward_of_limit limit, fun hops => ⟨m, forward_of_hops hops, same⟩⟩
  · rw [State.workCell_zero, State.place_of_none none]
  · rintro w u eligible rfl
    obtain ⟨payload, holdings⟩ := s.placedPayload_spec w
    obtain ⟨flight, waiting⟩ := State.note_place eligible
    have free := Note.flight?_of_eligible? eligible
    rw [State.workCell_zero]
    refine ⟨s.placedPayload w, payload, holdings, by rw [State.place_of_eligible eligible], waiting, ?_, fun y other => ?_,
      fun silent => ?_, ?_⟩
    · exact (Note.flight?_congr flight w.slot).trans (Note.flight?_place_self _ _ free)
    · exact (Note.flight?_congr flight y).trans (Note.flight?_place_of_ne _ _ other)
    · rw [State.place_of_eligible eligible, Desk.tellPlaced_of_not_drive silent]
      exact ⟨fun y other => Note.waiting?_place_of_ne _ _ other, rfl⟩
    · rintro b d drive rfl
      rw [flight, State.place_of_eligible eligible, drive]
      simp only [Note.place, Note.withdraw, Desk.tellPlaced, drive]
  · rintro s u c n x read origin other rfl
    have below : n.origin.toNat < 24 := origin ▸ x.isLt
    have work := State.workCell_of_foreign read (by rw [origin]; exact other)
    obtain ⟨echo, solo, holdings, roster⟩ := State.act_by_kind (s := s) below
    rw [work]
    refine ⟨fun kind => ?_, fun kind far => ?_, fun kind e emitter y hy => ?_, fun kind => ?_, fun kind => ?_, fun kind => ?_⟩
    · obtain ⟨present, stays, news⟩ := State.ring_actHoldings origin other
      obtain ⟨age, zones⟩ := State.desk_actHoldings origin other
      obtain ⟨own, differing⟩ := State.digest_actHoldings origin other
      rw [holdings kind]
      exact ⟨present, age, zones, stays, fun absent => present ▸ news absent, own, differing⟩
    · rw [roster kind, State.actRoster, payloadRoster_eq]
      exact if_neg (by omega)
    · rw [roster kind, State.actRoster, payloadRoster_eq, emitter, origin,
        if_pos e.isLt, State.present_applyRoster]
      exact has_rosterAfter hy
    · rw [solo kind]
      refine ⟨fun absent => if_neg ?_, fun there => ⟨s.ring_actSolo n, State.actSolo_of_present origin other there⟩⟩
      rw [origin, absent]
      exact Bool.false_ne_true
    · rw [echo kind]
      refine ⟨fun b y number bus home => ?_, fun elsewhere => State.actEcho_of_other (origin ▸ elsewhere)⟩
      rw [State.actEcho_of_home number bus (home ▸ other) (home.trans origin.symm)]
      refine ⟨Desk.reqOf_reqEcho .., fun driving => ?_, fun idle f => ?_⟩
      · rw [Desk.touch_reqEcho, if_pos driving]
      · rw [Desk.touch_reqEcho, if_neg idle]
        exact Touch.drives_drive ..
    · rw [State.act_of_answered below kind]
      refine ⟨fun b bus homed unmarked hops r claim drive release => ?_, fun unanswered => ?_⟩
      · rw [State.actAnswered_of_homed bus homed unmarked, Desk.answer_of_kind origin kind claim drive release]
        exact congrArg _ (forward_of_hops hops)
      · rw [State.actAnswered_of_unanswered unanswered]
end

section
/-!
R49 to R51: Queue, Withdraw, Close and placement keep at most one waiting entry and one entry in flight for each slot, and so
does every operation of AUTO, which reaches NOTE through the ECHOs of R98 alone.
-/

set_option Elab.async false

namespace Sys2Proof.Machine

/-! ## NOTE's own operations -/

section
variable {n : Note} {x : Slot}

/-- R50: a slot has no waiting entry exactly where no entry of the list is the slot's. -/
theorem Note.waiting?_isSome_iff : (n.waiting? x).isSome = true ↔ x ∈ n.pending.map (·.slot) := by
  unfold Note.waiting?
  simp [List.find?_isSome]

theorem Note.flight?_eq_none_iff : n.flight? x = none ↔ x ∉ n.flight.map (·.slot) := by
  unfold Note.flight?
  simp [List.find?_eq_none]

/-- R50: the queued entry stands in the place of the old one, or at the newest end. -/
theorem Note.slots_queue (x : Slot) (k : NoticeKind) (w : BitVec 32) (n : Note) : (n.queue x k w).pending.map (·.slot) =
    if (n.waiting? x).isSome then n.pending.map (·.slot) else n.pending.map (·.slot) ++ [x] := by
  unfold Note.queue
  split
  · rw [List.map_map]
    refine List.map_congr_left fun y _ => ?_
    by_cases same : y.slot = x <;> simp [same]
  · simp

theorem Note.wf_queue (h : n.wf) (k : NoticeKind) (w : BitVec 32) : (n.queue x k w).wf := by
  obtain ⟨pending, flight⟩ := h
  refine ⟨?_, by rw [Note.queue_flight]; exact flight⟩
  rw [Note.slots_queue]
  split
  · exact pending
  · next absent =>
    rw [Note.waiting?_isSome_iff] at absent
    exact pending.append (List.nodup_singleton x) (by simpa using absent)

theorem Note.wf_withdraw (h : n.wf) : (n.withdraw x).wf :=
  ⟨h.1.sublist (List.filter_sublist.map _), h.2⟩

theorem Note.wf_close (h : n.wf) : (n.close x).wf :=
  ⟨h.1, h.2.sublist (List.filter_sublist.map _)⟩

/-- R51: an entry is placed where its slot has nothing in flight. -/
theorem Note.wf_place {w : Waiting} (h : n.wf) (free : n.flight? w.slot = none) (p : BitVec 32) (now : Nat) :
    (n.place w p now).wf := by
  obtain ⟨pending, flight⟩ := Note.wf_withdraw (x := w.slot) h
  refine ⟨pending, ?_⟩
  rw [Note.flight?_eq_none_iff] at free
  have slots : (n.place w p now).flight.map (·.slot) = n.flight.map (·.slot) ++ [w.slot] := by simp [Note.place]
  rw [slots]
  exact flight.append (List.nodup_singleton w.slot) (by simpa using free)

end

/-! ## From one desk to the next -/

/-- R49: the later desk has one entry for each slot where the earlier one has. -/
def Desk.SlotsKept (d d' : Desk) : Prop := d.note.wf → d'.note.wf

namespace Desk

namespace SlotsKept

theorem of_note {d d' : Desk} (h : d'.note = d.note := by rfl) : SlotsKept d d' := fun wf => h ▸ wf

theorem andThen {a b c : Desk} (h : SlotsKept a b) (k : SlotsKept b c) : SlotsKept a c := fun wf => k (h wf)

theorem each {α : Type} (l : List α) (f : α → Desk → Desk) (h : ∀ a d, SlotsKept d (f a d)) (d : Desk) :
    SlotsKept d (d.each l f) := fun wf => each_keeps (P := fun d => d.note.wf) h l wf

theorem queue (x : Slot) (k : NoticeKind) (w : BitVec 32) (d : Desk) : SlotsKept d (d.queue x k w) :=
  fun wf => Note.wf_queue wf k w

theorem withdraw (x : Slot) (d : Desk) : SlotsKept d (d.withdraw x) := fun wf => Note.wf_withdraw wf

end SlotsKept

open SlotsKept (of_note andThen)

/-! ## AUTO: applied values (R98, R120) -/

theorem note_retarget (r : FactorName) (g : Gain) (d : Desk) : (d.retarget r g).note = d.note := by cases r <;> rfl

theorem slots_retarget (r : FactorName) (g : Gain) (d : Desk) : SlotsKept d (d.retarget r g) := of_note (note_retarget r g d)

theorem slots_queueEcho (b : Fin 24) (d : Desk) : SlotsKept d (d.queueEcho b) := .queue _ _ _ d

theorem slots_handOn (e : Env) (c : Fin 176) (d : Desk) : SlotsKept d (d.handOn e c) := by
  unfold Desk.handOn
  dsimp only
  split
  · split
    · exact slots_retarget _ _ d
    · exact andThen (slots_retarget _ _ d) of_note
  · exact slots_retarget _ _ d
  · exact slots_retarget _ _ d
  · exact slots_retarget _ _ d
  · split
    · exact andThen (slots_retarget _ _ d) (slots_queueEcho _ _)
    · exact andThen (andThen (slots_retarget _ _ d) (slots_queueEcho _ _)) of_note
  · exact andThen (slots_retarget _ _ d) (slots_queueEcho _ _)

theorem slots_apply (e : Env) (c : Fin 176) (v : Value) (d : Desk) : SlotsKept d (d.apply e c v) := by
  unfold Desk.apply
  split
  · exact of_note
  · exact andThen (b := d.setControl c _) of_note (slots_handOn e c _)

theorem slots_decideApplied (e : Env) (c : Fin 176) (d : Desk) : SlotsKept d (d.decideApplied e c) :=
  slots_apply e c _ d

theorem slots_setSurface (e : Env) (c : Fin 176) (v : Value) (d : Desk) : SlotsKept d (d.setSurface e c v) :=
  andThen (b := d.setControl c _) of_note (slots_decideApplied e c _)

/-! ## AUTO: moves and passes (R123 to R132) -/

theorem slots_appendMove (c : Fin 176) (t : Tick) (d : Desk) : SlotsKept d (d.appendMove c t) := by
  unfold Desk.appendMove
  dsimp only
  split <;> exact of_note

theorem slots_countClosed (d : Desk) : SlotsKept d d.countClosed := by
  unfold Desk.countClosed
  dsimp only
  split <;> exact of_note

theorem slots_closePass (e : Env) (r : CloseReason) (c : Fin 176) (d : Desk) : SlotsKept d (d.closePass e r c) := by
  unfold Desk.closePass
  dsimp only
  split
  · exact of_note
  · refine andThen (andThen (b := Desk.setControl c _ { d with take := _ }) of_note (slots_countClosed _))
      (slots_decideApplied e c _)

theorem slots_closeAll (e : Env) (r : CloseReason) (d : Desk) : SlotsKept d (d.closeAll e r) :=
  .each _ _ (slots_closePass e r) d

theorem slots_takeEvent (e : Env) (v : PosEvent) (d : Desk) : SlotsKept d (d.takeEvent e v) := by
  cases v
  case roll | framing => exact of_note
  all_goals exact slots_closeAll e _ d

theorem slots_prime (e : Env) (c : Fin 176) (d : Desk) : SlotsKept d (d.prime e c) :=
  andThen (b := d.setControl c _) of_note (slots_decideApplied e c _)

theorem slots_openBetween (e : Env) (c : Fin 176) (t : Tick) (d : Desk) : SlotsKept d (d.openBetween e c t) := by
  have opened : SlotsKept d ((d.openPass c t).decideApplied e c) := andThen of_note (slots_decideApplied e c _)
  unfold Desk.openBetween
  dsimp only
  split
  · exact opened
  · exact andThen opened (slots_appendMove c t _)

theorem slots_touchIdle (e : Env) (c : Fin 176) (d : Desk) : SlotsKept d (d.touchIdle e c) := by
  unfold Desk.touchIdle
  split
  · split
    · split
      · exact slots_openBetween e c _ d
      · exact andThen (b := d.raise .passFull) of_note (slots_prime e c _)
    · exact slots_prime e c d
  · exact slots_prime e c d

theorem slots_takeBack (e : Env) (c : Fin 176) (d : Desk) : SlotsKept d (d.takeBack e c) :=
  andThen (b := d.setControl c _) of_note (slots_decideApplied e c _)

theorem slots_touchControl (e : Env) (c : Fin 176) (d : Desk) : SlotsKept d (d.touchControl e c) := by
  unfold Desk.touchControl
  dsimp only
  refine andThen (b := d.setControl c { d.control c with touched := true }) of_note ?_
  split
  case h_1 | h_2 => exact slots_touchIdle e c _
  case h_3 | h_4 | h_5 | h_6 => exact slots_takeBack e c _
  case h_7 => exact of_note

theorem slots_beginGlide (e : Env) (c : Fin 176) (d : Desk) : SlotsKept d (d.beginGlide e c) := by
  unfold Desk.beginGlide
  dsimp only
  split
  · exact slots_closePass e _ c d
  · exact of_note

theorem slots_releaseControl (e : Env) (lost : Bool) (c : Fin 176) (d : Desk) :
    SlotsKept d (d.releaseControl e lost c) := by
  unfold Desk.releaseControl
  dsimp only
  have marked : SlotsKept d (if lost then (d.setControl c { d.control c with touched := false }).markDriverLost c
      else d.setControl c { d.control c with touched := false }) := by split <;> exact of_note
  refine andThen marked ?_
  generalize (if lost then (d.setControl c { d.control c with touched := false }).markDriverLost c
      else d.setControl c { d.control c with touched := false }) = d1
  split
  · exact slots_beginGlide e c d1
  · exact of_note
  · exact andThen (b := d1.setControl c _) of_note (slots_decideApplied e c _)
  · exact andThen (b := d1.setControl c _) of_note (slots_decideApplied e c _)
  · exact of_note

theorem slots_touchBoth (e : Env) (b : Fin 24) (d : Desk) : SlotsKept d (d.touchBoth e b) :=
  andThen (slots_touchControl e _ d) (slots_touchControl e _ _)

theorem slots_releaseBoth (e : Env) (lost : Bool) (b : Fin 24) (d : Desk) : SlotsKept d (d.releaseBoth e lost b) :=
  andThen (slots_releaseControl e lost _ d) (slots_releaseControl e lost _ _)

theorem slots_setBusSurface (e : Env) (b : Fin 24) (v w : Value) (d : Desk) : SlotsKept d (d.setBusSurface e b v w) :=
  andThen (slots_setSurface e _ v d) (slots_setSurface e _ w _)

/-! ## AUTO: one tick (R138) -/

theorem slots_fireAbort (e : Env) (d : Desk) : SlotsKept d (d.fireAbort e) := by
  have closed := slots_closeAll e .abort d
  unfold Desk.fireAbort
  dsimp only
  generalize d.closeAll e .abort = x at closed ⊢
  exact andThen closed of_note

theorem slots_tickAbort (e : Env) (t : MadeTick) (d : Desk) : SlotsKept d (d.tickAbort e t) := by
  unfold Desk.tickAbort
  split
  · exact slots_fireAbort e d
  · exact of_note

theorem slots_tickWindow (e : Env) (t : MadeTick) (d : Desk) : SlotsKept d (d.tickWindow e t) := by
  unfold Desk.tickWindow
  split
  · split
    · exact slots_closeAll e _ d
    · exact of_note
  · exact of_note

theorem slots_takePlayback (e : Env) (t : Tick) (c : Fin 176) (d : Desk) : SlotsKept d (d.takePlayback e t c) := by
  unfold Desk.takePlayback
  split <;> exact of_note

theorem slots_tickGlide (c : Fin 176) (d : Desk) : SlotsKept d (d.tickGlide c) := by
  unfold Desk.tickGlide
  dsimp only
  split <;> exact of_note

theorem slots_tickPunchIn (e : Env) (t : Tick) (c : Fin 176) (d : Desk) : SlotsKept d (d.tickPunchIn e t c) := by
  unfold Desk.tickPunchIn
  split
  · split <;> exact of_note
  · exact of_note

theorem slots_tickApplied (e : Env) (c : Fin 176) (d : Desk) : SlotsKept d (d.tickApplied e c) := by
  unfold Desk.tickApplied
  dsimp only
  split
  · exact slots_apply e c _ d
  · exact slots_decideApplied e c d

theorem slots_tickMove (e : Env) (t : Tick) (opened : Bool) (c : Fin 176) (d : Desk) :
    SlotsKept d (d.tickMove e t opened c) := by
  unfold Desk.tickMove
  dsimp only
  split
  · split
    · exact andThen (slots_appendMove c t d) of_note
    · exact of_note
  · exact of_note

theorem slots_tickGlideEnd (e : Env) (c : Fin 176) (d : Desk) : SlotsKept d (d.tickGlideEnd e c) := by
  unfold Desk.tickGlideEnd
  split
  · split
    · exact slots_closePass e _ c d
    · exact of_note
  · exact of_note

theorem slots_takeTick (e : Env) (t : MadeTick) (d : Desk) : SlotsKept d (d.takeTick e t) := by
  unfold Desk.takeTick
  dsimp only
  have closings : SlotsKept d ((d.ageMoves.tickAbort e t).tickWindow e t) :=
    andThen (andThen (b := d.ageMoves) of_note (slots_tickAbort e t _)) (slots_tickWindow e t _)
  exact andThen (andThen (andThen (andThen (andThen (andThen closings
    (.each _ _ (slots_takePlayback e t.index) _)) (.each _ _ slots_tickGlide _))
    (.each _ _ (slots_tickPunchIn e t.index) _)) (.each _ _ (slots_tickApplied e) _))
    (.each _ _ (fun c d => slots_tickMove e t.index _ c d) _)) (.each _ _ (slots_tickGlideEnd e) _)

theorem slots_catchUp (e : Env) (t : Tick) (d : Desk) : SlotsKept d (d.catchUp e t) :=
  andThen (.each _ _ (slots_takePlayback e t) d) (.each _ _ (slots_decideApplied e) _)

end Desk

end Sys2Proof.Machine
end

section
/-!
Every operation of STRIP, HOME, the requesters, TOUCH and NOTE keeps one waiting entry and one entry in flight for each slot
(R49 to R51).
-/

set_option Elab.async false

namespace Sys2Proof.Machine.Desk

open SlotsKept (of_note andThen)

/-! ## STRIP (R76 to R79) -/

theorem slots_regate (e : Env) (d : Desk) : SlotsKept d (d.regate e) := by
  obtain ⟨v, same⟩ := regate_eq e d
  exact of_note (by rw [same])

theorem slots_stationGone (e : Env) (x : Nat) (d : Desk) : SlotsKept d (d.stationGone e x) :=
  andThen (b := d.setZones x 0) of_note (slots_regate e _)

theorem slots_stationSolo (e : Env) (x : Nat) (bits : SoloBits) (d : Desk) : SlotsKept d (d.stationSolo e x bits) := by
  unfold Desk.stationSolo
  split
  · exact of_note
  · exact andThen (b := d.setZones x bits) of_note (slots_regate e _)

theorem slots_resoloAll (e : Env) (d : Desk) : SlotsKept d (d.resoloAll e) := by
  refine andThen (b := d.resolo e) ?_ (slots_regate e _)
  unfold Desk.resolo
  dsimp only
  generalize d.soloBits e = bits
  split
  · exact of_note
  · exact andThen (b := Desk.setZones e.self bits { d with strip := { d.strip with ownBits := bits } }) of_note (.queue _ _ _ _)

/-! ## HOME (R99 to R105) -/

theorem slots_setDriver (b : Fin 24) (x : Option Nat) (d : Desk) : SlotsKept d (d.setDriver b x) := of_note

theorem slots_raise (f : Flag) (d : Desk) : SlotsKept d (d.raise f) := of_note

/-- A bus changes hands: its driver entry, its surface values, a touch of both its controls. -/
theorem slots_grant (e : Env) (b : Fin 24) (x : Option Nat) (v w : Value) (d : Desk) :
    SlotsKept d (((d.setDriver b x).setBusSurface e b v w).touchBoth e b) :=
  andThen (andThen (slots_setDriver b x d) (slots_setBusSurface e b v w _)) (slots_touchBoth e b _)

theorem slots_homeClaim (e : Env) (b : Fin 24) (x : Nat) (d : Desk) : SlotsKept d (d.homeClaim e b x).1 := by
  unfold Desk.homeClaim
  split
  · dsimp only
    exact slots_grant e b _ _ _ d
  · split <;> exact of_note

theorem slots_homeDrive (e : Env) (b : Fin 24) (x : Nat) (v : Value) (m : Bool) (d : Desk) :
    SlotsKept d (d.homeDrive e b x v m).1 := by
  unfold Desk.homeDrive
  split
  · exact andThen (slots_setBusSurface e b v (muteValue m) d) (slots_setDriver b _ _)
  · exact of_note

/-- A bus is let go. -/
theorem slots_letGo (e : Env) (lost : Bool) (b : Fin 24) (d : Desk) :
    SlotsKept d ((d.setDriver b none).releaseBoth e lost b) :=
  andThen (slots_setDriver b none d) (slots_releaseBoth e lost b _)

theorem slots_homeRelease (e : Env) (b : Fin 24) (x : Nat) (d : Desk) : SlotsKept d (d.homeRelease e b x).1 := by
  unfold Desk.homeRelease
  split
  · exact slots_letGo e false b d
  · exact of_note

theorem slots_localClaim (e : Env) (b : Fin 24) (d : Desk) : SlotsKept d (d.localClaim e b) := by
  unfold Desk.localClaim
  split
  · exact slots_grant e b _ _ _ d
  · split <;> exact of_note

theorem slots_localRelease (e : Env) (b : Fin 24) (d : Desk) : SlotsKept d (d.localRelease e b) := by
  unfold Desk.localRelease
  split
  · exact slots_letGo e false b d
  · exact of_note

theorem slots_homeSurfaceLevel (e : Env) (b : Fin 24) (v : Value) (d : Desk) : SlotsKept d (d.homeSurfaceLevel e b v) := by
  unfold Desk.homeSurfaceLevel
  dsimp only
  split
  · exact andThen (b := d.setHome b _) of_note (slots_setSurface e _ v _)
  · exact of_note

theorem slots_homeSurfaceMute (e : Env) (b : Fin 24) (m : Bool) (d : Desk) : SlotsKept d (d.homeSurfaceMute e b m) := by
  unfold Desk.homeSurfaceMute
  dsimp only
  split
  · exact andThen (b := d.setHome b _) of_note (slots_setSurface e _ (muteValue m) _)
  · exact of_note

theorem slots_loseDriver (e : Env) (b : Fin 24) (d : Desk) : SlotsKept d (d.loseDriver e b) :=
  andThen (slots_letGo e true b d) (slots_raise _ _)

theorem slots_leaseStep (e : Env) (b : Fin 24) (d : Desk) : SlotsKept d (d.leaseStep e b) := by
  unfold Desk.leaseStep
  dsimp only
  split
  · exact of_note
  · split
    · exact of_note
    · split
      · exact slots_loseDriver e b d
      · exact of_note

theorem slots_driverGone (e : Env) (x : Nat) (b : Fin 24) (d : Desk) : SlotsKept d (d.driverGone e x b) := by
  unfold Desk.driverGone
  split
  · exact slots_loseDriver e b d
  · exact of_note

theorem slots_leaveHome (e : Env) (b : Fin 24) (d : Desk) : SlotsKept d (d.leaveHome e b) := by
  unfold Desk.leaveHome
  split
  · exact of_note
  · exact slots_letGo e false b d

/-! ## The requester (R106 to R111) -/

theorem slots_queueDrive (b : Fin 24) (d : Desk) : SlotsKept d (d.queueDrive b) := .queue _ _ _ d

theorem slots_queueRelease (b : Fin 24) (d : Desk) : SlotsKept d (d.queueRelease b) := .queue _ _ _ d

theorem slots_queueClaim (b : Fin 24) (d : Desk) : SlotsKept d (d.queueClaim b) := .queue _ _ _ d

/-- R106: back to DRIVING. -/
theorem slots_driveAgain (b : Fin 24) (d : Desk) : SlotsKept d (d.driveAgain b) :=
  andThen (b := d.setReq b _) of_note (slots_queueDrive b _)

theorem slots_reqTouch (b : Fin 24) (d : Desk) : SlotsKept d (d.reqTouch b) := by
  unfold Desk.reqTouch
  dsimp only
  split
  · exact andThen (slots_queueClaim b d) of_note
  · exact of_note
  · split
    · exact slots_driveAgain b d
    · split
      · split
        · exact andThen (.withdraw (.claim b) d) (slots_driveAgain b _)
        · exact of_note
      · exact andThen (slots_queueClaim b d) of_note
  · exact of_note
  · exact of_note

theorem slots_reqRelease (b : Fin 24) (d : Desk) : SlotsKept d (d.reqRelease b) := by
  unfold Desk.reqRelease
  dsimp only
  split
  · split
    · exact andThen (.withdraw (.claim b) d) of_note
    · exact of_note
  · split
    · exact of_note
    · exact andThen (slots_queueRelease b d) of_note
  · split
    · exact andThen (.withdraw (.claim b) d) of_note
    · exact of_note
  · exact of_note
  · exact of_note

theorem slots_claimReturn (b : Fin 24) (m : Mark) (d : Desk) : SlotsKept d (d.claimReturn b m) := by
  unfold Desk.claimReturn
  dsimp only
  split
  case h_1 => exact andThen (b := d.setReq b _) of_note (slots_queueDrive b _)
  case h_4 => exact andThen (slots_queueRelease b d) of_note
  all_goals exact of_note

theorem slots_releaseReturn (b : Fin 24) (d : Desk) : SlotsKept d (d.releaseReturn b) := by
  unfold Desk.releaseReturn
  dsimp only
  split
  · split <;> exact of_note
  · exact of_note

theorem slots_dropDrive (b : Fin 24) (d : Desk) : SlotsKept d (d.dropDrive b) :=
  andThen (.withdraw (.drive b) d) of_note

theorem slots_driveReturn (b : Fin 24) (m : Mark) (d : Desk) : SlotsKept d (d.driveReturn b m) := by
  unfold Desk.driveReturn
  split
  · exact slots_dropDrive b d
  · exact of_note

theorem slots_homeGone (e : Env) (x : Nat) (b : Fin 24) (d : Desk) : SlotsKept d (d.homeGone e x b) := by
  unfold Desk.homeGone
  split
  · exact slots_dropDrive b d
  · exact of_note

theorem slots_drivePlaced (b : Fin 24) (d : Desk) : SlotsKept d (d.drivePlaced b) := by
  unfold Desk.drivePlaced
  dsimp only
  split
  · exact andThen (andThen (b := d.setReq b _) of_note (slots_queueRelease b _)) of_note
  · exact of_note

theorem slots_keepaliveStep (b : Fin 24) (d : Desk) : SlotsKept d (d.keepaliveStep b) := by
  unfold Desk.keepaliveStep
  dsimp only
  split
  · split
    · exact andThen (b := d.setReq b _) of_note (slots_queueDrive b _)
    · exact of_note
  · exact of_note

theorem slots_reqSurfaceLevel (b : Fin 24) (v : Value) (d : Desk) : SlotsKept d (d.reqSurfaceLevel b v) := by
  unfold Desk.reqSurfaceLevel
  dsimp only
  split
  · exact andThen (b := d.setReq b _) of_note (slots_queueDrive b _)
  · exact of_note

theorem slots_reqSurfaceMute (b : Fin 24) (m : Bool) (d : Desk) : SlotsKept d (d.reqSurfaceMute b m) := by
  unfold Desk.reqSurfaceMute
  dsimp only
  split
  · exact andThen (b := d.setReq b _) of_note (slots_queueDrive b _)
  · exact of_note

theorem slots_reqEcho (b : Fin 24) (v : Value) (m : Bool) (d : Desk) : SlotsKept d (d.reqEcho b v m) := by
  unfold Desk.reqEcho
  dsimp only
  split <;> exact of_note

/-! ## TOUCH (R82 to R90) -/

theorem slots_deliverTouch (e : Env) (k : TouchTarget) (d : Desk) : SlotsKept d (d.deliverTouch e k) := by
  unfold Desk.deliverTouch
  split
  · exact slots_touchControl e _ d
  · split
    · exact slots_localClaim e _ d
    · split
      · exact slots_reqTouch _ d
      · exact of_note

theorem slots_deliverRelease (e : Env) (k : TouchTarget) (d : Desk) : SlotsKept d (d.deliverRelease e k) := by
  unfold Desk.deliverRelease
  split
  · exact slots_releaseControl e false _ d
  · split
    · exact slots_localRelease e _ d
    · split
      · exact slots_reqRelease _ d
      · exact of_note

theorem slots_changeTarget (e : Env) (k : TouchTarget) (f : TargetState → TargetState) (d : Desk) :
    SlotsKept d (d.changeTarget e k f) := by
  have set : SlotsKept d { d with touch := d.touch.setTarget (f (d.touch.target k)) k } := of_note
  unfold Desk.changeTarget
  dsimp only
  split
  · exact andThen set (slots_deliverTouch e k _)
  · exact andThen set (slots_deliverRelease e k _)
  · exact set

theorem slots_holdTarget (e : Env) (k : Option TouchTarget) (d : Desk) : SlotsKept d (d.holdTarget e k) := by
  unfold Desk.holdTarget
  split
  · exact slots_changeTarget e _ _ d
  · exact of_note

theorem slots_dropTarget (e : Env) (k : Option TouchTarget) (d : Desk) : SlotsKept d (d.dropTarget e k) := by
  unfold Desk.dropTarget
  split
  · exact slots_changeTarget e _ _ d
  · exact of_note

theorem slots_lineEdge (e : Env) (f : Fin 32) (x : LineEdge) (d : Desk) : SlotsKept d (d.lineEdge e f x) := by
  unfold Desk.lineEdge
  dsimp only
  split
  · exact of_note
  · exact andThen (b := d.setLine f _) of_note (slots_holdTarget e _ _)
  · exact andThen (b := d.setLine f _) of_note (slots_dropTarget e _ _)

theorem slots_lineStep (e : Env) (high : Bool) (f : Fin 32) (d : Desk) : SlotsKept d (d.lineStep e high f) := by
  unfold Desk.lineStep
  dsimp only
  split
  · exact andThen (b := d.setLine f _) of_note (slots_lineEdge e f _ _)
  · exact of_note

theorem slots_touchPhase (e : Env) (levels : BitVec 32) (d : Desk) : SlotsKept d (d.touchPhase e levels) :=
  .each _ _ (fun _ _ => slots_lineStep e _ _ _) d

theorem slots_setLineSettings (e : Env) (f : Fin 32) (enable activeLow : Bool) (interval : Fin 5) (d : Desk) :
    SlotsKept d (d.setLineSettings e f enable activeLow interval) := by
  have disabled : SlotsKept d (d.disableLine e f) := by
    unfold Desk.disableLine
    dsimp only
    split
    · exact andThen (b := d.setLine f _) of_note (slots_dropTarget e _ _)
    · exact of_note
  unfold Desk.setLineSettings
  dsimp only
  split
  · exact andThen disabled of_note
  · exact of_note

theorem slots_ungovern (e : Env) (k : Option TouchTarget) (d : Desk) : SlotsKept d (d.ungovern e k) := by
  unfold Desk.ungovern
  split
  · split
    · exact of_note
    · exact slots_changeTarget e _ _ d
  · exact of_note

/-- R89: a held fader lets go of its old target and takes hold of the new one. -/
theorem slots_remap (e : Env) (f : Fin 32) (m : FaderTarget) (d : Desk) : SlotsKept d (d.remap e f m) := by
  have moved : ∀ d : Desk, SlotsKept d { d with touch := { d.touch with map := d.touch.map.set f m } } := fun _ => of_note
  unfold Desk.remap
  dsimp only
  split
  · exact andThen (andThen (andThen (andThen (slots_dropTarget e _ d) (slots_ungovern e _ _)) (moved _))
      (slots_holdTarget e _ _)) of_note
  · exact andThen (andThen (slots_ungovern e _ d) (moved _)) of_note

theorem slots_indicate (e : Env) (k : TouchTarget) (i : Indication) (d : Desk) : SlotsKept d (d.indicate e k i) := by
  unfold Desk.indicate
  split
  · exact of_note
  · split
    · exact of_note
    · exact slots_changeTarget e k _ d
  · split
    · exact of_note
    · exact slots_changeTarget e k _ d

/-! ## NOTE (R45 to R58) -/

theorem slots_handRemoved (e : Env) (x : Nat) (d : Desk) : SlotsKept d (d.handRemoved e x) :=
  andThen (andThen (.each _ _ (slots_driverGone e x) d) (.each _ _ (slots_homeGone e x) _)) (slots_stationGone e x _)

theorem slots_queueHoldings (e : Env) (d : Desk) : SlotsKept d (d.queueHoldings e) := by
  have timed : ∀ d : Desk, SlotsKept d { d with note := { d.note with timer := 0 } } := fun _ wf => wf
  exact andThen (andThen (.queue .holdings .holdings 0 d) (timed _)) (.each _ _ slots_queueEcho _)

theorem slots_tellPlaced (x : Slot) (d : Desk) : SlotsKept d (d.tellPlaced x) := by
  unfold Desk.tellPlaced
  split
  · exact slots_drivePlaced _ d
  · exact of_note

theorem slots_handMark (x : Slot) (k : NoticeKind) (m : Mark) (d : Desk) : SlotsKept d (d.handMark x k m) := by
  unfold Desk.handMark
  split
  · exact slots_claimReturn _ m d
  · exact slots_releaseReturn _ d
  · exact slots_driveReturn _ m d
  · exact of_note

theorem slots_closeFlight (x : Slot) (k : NoticeKind) (m : Mark) (d : Desk) : SlotsKept d (d.closeFlight x k m) :=
  fun wf => slots_handMark x k m { d with note := d.note.close x } (Note.wf_close wf)

theorem slots_answer (e : Env) (b : Fin 24) (n : Notice) (d : Desk) : SlotsKept d (d.answer e b n).1 := by
  unfold Desk.answer
  split
  · exact slots_homeClaim e b _ d
  · exact slots_homeDrive e b _ _ _ d
  · exact slots_homeRelease e b _ d
  · exact of_note

theorem slots_ageOf (e : Env) (x : Fin 24) (d : Desk) : SlotsKept d (d.ageOf e x) := by
  have aged : SlotsKept d { d with note := { d.note with ages := d.note.ages.set x (ageStep d.note.ages[x]) } } := fun wf => wf
  unfold Desk.ageOf
  dsimp only
  split
  · exact andThen aged (slots_stationGone e _ _)
  · exact aged

theorem slots_timerStep (e : Env) (d : Desk) : SlotsKept d (d.timerStep e) := by
  unfold Desk.timerStep
  split
  · exact slots_queueHoldings e d
  · exact fun wf => wf

/-! ## The commands of the desk's blocks -/

theorem slots_surfaceValue (e : Env) (k : SurfaceName) (v : Value) (d : Desk) : SlotsKept d (d.surfaceValue e k v) := by
  unfold Desk.surfaceValue
  split
  · exact slots_setSurface e _ v d
  · split
    · exact slots_homeSurfaceLevel e _ v d
    · exact slots_reqSurfaceLevel _ v d
  · split
    · exact slots_homeSurfaceMute e _ _ d
    · exact slots_reqSurfaceMute _ _ d

theorem slots_setControlSettings (e : Env) (c : Fin 176) (m : Mode) (safe : Bool) (glide : BitVec 6) (d : Desk) :
    SlotsKept d (d.setControlSettings e c m safe glide) := by
  unfold Desk.setControlSettings
  dsimp only
  split
  · exact andThen (andThen (slots_closePass e .mode c d) (b := Desk.setControl c _ _) of_note) (slots_decideApplied e c _)
  · exact andThen (b := d.setControl c _) of_note (slots_decideApplied e c _)

theorem slots_abortNow (e : Env) (d : Desk) : SlotsKept d (d.abortNow e) := by
  have closed := andThen (b := { d with ev := { d.ev with abort := none } }) of_note (slots_closeAll e .abort _)
  unfold Desk.abortNow
  dsimp only
  generalize Desk.closeAll e .abort _ = x at closed ⊢
  split
  · exact andThen closed of_note
  · exact closed

/-- R40, R64: LEAVE empties NOTE. -/
theorem wf_leave (e : Env) (locking : Bool) (d : Desk) : (d.leave e locking).note.wf := ⟨List.nodup_nil, List.nodup_nil⟩

/-- R63, R179: RESTART empties NOTE and queues at most a SOLO, a HOLDINGS and the ECHOs. -/
theorem wf_restart (e : Env) (inserted : Bool) (d : Desk) : (d.restart e inserted).note.wf := by
  have solo : ∀ (own : SoloBits) (d : Desk), SlotsKept d (d.restartSolo own) := by
    intro own d
    unfold Desk.restartSolo
    split
    · exact of_note
    · exact .queue _ _ _ d
  unfold Desk.restart
  dsimp only
  split
  · exact slots_queueHoldings e _ (solo _ _ ⟨List.nodup_nil, List.nodup_nil⟩)
  · exact solo _ _ ⟨List.nodup_nil, List.nodup_nil⟩

end Sys2Proof.Machine.Desk
end

section
/-!
R49: RING, the sample event and every row keep one waiting entry and one entry in flight for each slot.
-/

set_option Elab.async false

namespace Sys2Proof.Machine

/-- R49: the later state has one entry for each slot where the earlier one has. -/
def State.SlotsKept (s t : State) : Prop := Desk.SlotsKept s.desk t.desk

namespace State

namespace SlotsKept

/-- NOTE is as it was. -/
theorem still {s t : State} (h : t.desk.note = s.desk.note := by rfl) : SlotsKept s t := .of_note h

theorem andThen {a b c : State} (h : SlotsKept a b) (k : SlotsKept b c) : SlotsKept a c := Desk.SlotsKept.andThen h k

theorem desk {d : Desk} (s : State) (h : Desk.SlotsKept s.desk d) : SlotsKept s { s with desk := d } := h

theorem onDesk (f : Env → Desk → Desk) (s : State) (h : Desk.SlotsKept s.desk (f s.env s.desk)) :
    SlotsKept s (s.onDesk f) := h

theorem foldl {α : Type} (l : List α) (f : State → α → State) (h : ∀ s a, SlotsKept s (f s a)) (s : State) :
    SlotsKept s (l.foldl f s) := by
  induction l generalizing s with
  | nil => exact still
  | cons a l ih => exact (h s a).andThen (ih (f s a))

end SlotsKept

open SlotsKept (still andThen)

/-! ## The cells of an arrival (R44 to R48) -/

theorem slots_applyRoster (now : StationSet) (s : State) : s.SlotsKept (s.applyRoster now) := by
  by_cases h : now = s.ring.present
  · rw [h, applyRoster_present]
    exact still
  · unfold State.SlotsKept
    rw [State.desk_applyRoster h]
    exact (Desk.slots_raise _ _).andThen (.each _ _ (Desk.slots_handRemoved _) _)

/-- R51: an entry is placed where its slot has nothing in flight. -/
theorem slots_place (s : State) : s.SlotsKept s.place.1 := by
  rcases h : s.desk.note.eligible? with _ | w
  · rw [place_of_none h]
    exact still
  · rw [place_of_eligible h]
    exact fun wf => Desk.slots_tellPlaced w.slot _ (Note.wf_place wf (Note.flight?_of_eligible? h) _ _)

theorem slots_strip (n : Notice) (s : State) : s.SlotsKept (s.strip n) := by
  unfold State.strip
  split
  · split
    · split
      · exact .desk s (Desk.slots_closeFlight _ _ _ _)
      · exact still
    · exact still
  · exact still

theorem slots_mismatch (s : State) : s.SlotsKept s.mismatch := still (by rw [desk_mismatch]; rfl)

theorem slots_actHoldings (n : Notice) (s : State) : s.SlotsKept (s.actHoldings n) := by
  unfold State.actHoldings
  dsimp only
  refine andThen (slots_applyRoster (StationSet.add s.ring.present n.origin.toNat) s) ?_
  generalize s.applyRoster (StationSet.add s.ring.present n.origin.toNat) = s1
  have aged : SlotsKept s1 { s1 with desk := { s1.desk with note :=
    { s1.desk.note with ages := s1.desk.note.ages.setIfInBounds n.origin.toNat (some 0) } } } := fun wf => wf
  refine andThen (andThen aged (.onDesk
    (fun e d => d.stationSolo e n.origin.toNat (payloadHoldingsSolo n.payload)) _ (Desk.slots_stationSolo _ _ _ _))) ?_
  split
  · exact slots_mismatch _
  · exact still

theorem slots_actAnswered (n : Notice) (s : State) : s.SlotsKept (s.actAnswered n).1 := by
  unfold State.actAnswered
  split
  · split
    · exact .desk s (Desk.slots_answer _ _ _ _)
    · exact still
  · exact still

theorem slots_actEcho (n : Notice) (s : State) : s.SlotsKept (s.actEcho n) := by
  unfold State.actEcho
  split
  · split
    · exact .desk s (Desk.slots_reqEcho _ _ _ _)
    · exact still
  · exact still

theorem slots_actSolo (n : Notice) (s : State) : s.SlotsKept (s.actSolo n) := by
  unfold State.actSolo
  split
  · exact .onDesk _ s (Desk.slots_stationSolo _ _ _ _)
  · exact still

theorem slots_actRoster (n : Notice) (s : State) : s.SlotsKept (s.actRoster n) := by
  unfold State.actRoster
  dsimp only
  split
  · exact slots_applyRoster _ s
  · exact still

theorem slots_act (n : Notice) (s : State) : s.SlotsKept (s.act n).1 := by
  unfold State.act
  split
  · split
    case h_1 | h_2 | h_3 => exact slots_actAnswered n s
    case h_4 => exact slots_actEcho n s
    case h_5 => exact slots_actSolo n s
    case h_6 => exact slots_actHoldings n s
    case h_7 => exact slots_actRoster n s
  · exact still

theorem slots_workCell (c : BitVec 64) (s : State) : s.SlotsKept (s.workCell c).1 := by
  unfold State.workCell
  split
  · exact slots_place s
  · dsimp only
    split
    · exact andThen (b := { s with free := s.free + 1 }) still (slots_place _)
    · exact still
  · split
    · exact slots_strip _ s
    · exact slots_act _ s

theorem slots_workCells (cells : Vector (BitVec 64) 4) (s : State) : s.SlotsKept (s.workCells cells).1 :=
  andThen (andThen (andThen (slots_workCell _ s) (slots_workCell _ _)) (slots_workCell _ _)) (slots_workCell _ _)

/-- R44: placement alone. -/
theorem slots_placeCells (s : State) : s.SlotsKept s.placeCells.1 := slots_workCells (Vector.replicate 4 0) s

/-! ## RING -/

theorem slots_emitterCheck (e : Nat) (s : State) : s.SlotsKept (s.emitterCheck e) := by
  unfold State.emitterCheck
  split
  · exact still
  · exact andThen (slots_applyRoster _ s) (.desk _ (.queue _ _ _ _))

theorem slots_goodArrival (b : Bool) (f : WireFrame) (s : State) : s.SlotsKept (s.goodArrival b f).state := by
  unfold State.goodArrival
  dsimp only
  have counted : SlotsKept s { s with ring := s.ring.countGood } := still
  split
  · exact andThen counted (andThen (slots_emitterCheck _ _) (slots_workCells _ _))
  · exact andThen counted (andThen (slots_workCells _ _) (slots_emitterCheck _ _))

theorem slots_countBad (s : State) : s.SlotsKept s.countBad := by
  unfold State.countBad
  dsimp only
  split <;> exact still

theorem slots_endSilence (s : State) : s.SlotsKept s.endSilence := by
  unfold State.endSilence
  dsimp only
  split <;> exact still

theorem slots_badArrival (s : State) : s.SlotsKept s.badArrival.state := by
  unfold State.badArrival
  dsimp only
  exact andThen (slots_countBad s) (slots_placeCells s.countBad)

theorem slots_arrive (b : Bool) (f : WireFrame) (s : State) : s.SlotsKept (s.arrive b f).state := by
  unfold State.arrive
  dsimp only
  have heard : SlotsKept s { s.endSilence with
      ring := (s.endSilence.ring.countRun f).adoption s.endSilence.self f } := slots_endSilence s
  split
  · exact andThen heard (slots_goodArrival b f _)
  · exact andThen heard (slots_badArrival _)

theorem slots_silence (s : State) : s.SlotsKept s.silence.state := by
  have counted : SlotsKept s s.countSilent := by
    unfold State.countSilent
    dsimp only
    split <;> exact still
  unfold State.silence
  dsimp only
  exact andThen counted (slots_placeCells s.countSilent)

theorem slots_insert (p : StationSet) (r : JoinResult) (s : State) : s.SlotsKept (s.insert p r) :=
  andThen (b := State.onDesk Desk.queueHoldings (State.applyRoster p { s with ring := { s.ring with state := .inserted } }))
    (andThen (slots_applyRoster p { s with ring := { s.ring with state := .inserted } })
      (.onDesk _ _ (Desk.slots_queueHoldings _ _))) still

theorem slots_tapGood (f : WireFrame) (s : State) : s.SlotsKept (s.tapGood f) := by
  unfold State.tapGood
  dsimp only
  split
  · exact still
  · split
    · unfold State.listen
      dsimp only
      split <;> exact still
    · exact still

theorem slots_tapOther (s : State) : s.SlotsKept s.tapOther := by
  unfold State.tapOther
  split <;> exact still

theorem slots_tap (f : WireFrame) (s : State) : s.SlotsKept (s.tap f) := by
  unfold State.tap
  dsimp only
  split
  · exact andThen still (slots_tapGood f _)
  · exact andThen still (slots_tapOther _)

theorem slots_listenStep (b : Bool) (s : State) : s.SlotsKept (s.listenStep b) := by
  unfold State.listenStep
  split
  · dsimp only
    split
    · exact andThen still (slots_insert _ _ _)
    · exact still
  · exact still

theorem slots_firstInStep (s : State) : s.SlotsKept s.firstInStep := by
  unfold State.firstInStep
  split
  · exact andThen still (slots_insert _ _ _)
  · exact still

theorem slots_lockingStep (rx : Option WireFrame) (s : State) : s.SlotsKept (s.lockingStep rx) := by
  unfold State.lockingStep
  dsimp only
  refine andThen (andThen ?_ (slots_listenStep _ _)) (slots_firstInStep _)
  split
  · exact andThen still (slots_tap _ _)
  · exact andThen still (slots_tapOther _)

/-- RING's part of a sample event. -/
theorem slots_ringPhase (b : Bool) (rx : Option WireFrame) (s : State) : s.SlotsKept (s.ringPhase b rx).state := by
  unfold State.ringPhase
  dsimp only
  have tag : SlotsKept s { s with ring := s.ring.advanceTag } := still
  split
  · exact still
  · exact andThen tag (slots_lockingStep rx _)
  all_goals
    split
    · exact andThen tag (slots_arrive b _ _)
    · exact andThen tag (slots_silence _)

/-! ## The counts, POS and the whole sample event -/

theorem slots_expireFlight (x : Slot) (s : State) : s.SlotsKept (s.expireFlight x) := by
  unfold State.expireFlight
  split
  · split
    · exact .desk s (Desk.slots_closeFlight _ _ _ _)
    · exact still
  · exact still

theorem slots_countStep (s : State) : s.SlotsKept s.countStep := by
  unfold State.countStep
  dsimp only
  have flights : SlotsKept s s.expireFlights := .foldl _ _ (fun s x => slots_expireFlight x s) s
  have ages := SlotsKept.onDesk (fun e d => d.each stationIndices (Desk.ageOf e)) s.expireFlights
    (.each _ _ (Desk.slots_ageOf _) _)
  refine andThen (andThen (andThen flights ages) ?_) (andThen
    (.onDesk _ _ (.each _ _ (Desk.slots_leaseStep _) _)) (.onDesk _ _ (.each _ _ Desk.slots_keepaliveStep _)))
  split
  · exact .onDesk _ _ (Desk.slots_timerStep _ _)
  · exact still

theorem slots_timers (s : State) : s.SlotsKept s.timers :=
  andThen (b := State.settleStep (State.riseStep (0 < s.ring.settle) s.advanceInstant)) still (slots_countStep _)

theorem slots_takePosEvent (v : PosEvent) (s : State) : s.SlotsKept (s.takePosEvent v) := by
  unfold State.SlotsKept
  rw [desk_takePosEvent]
  exact (Desk.slots_raise _ _).andThen (Desk.slots_takeEvent _ v _)

theorem slots_takeTick (t : MadeTick) (s : State) : s.SlotsKept (s.takeTick t) := by
  unfold State.takeTick
  dsimp only
  split
  · exact andThen still (.onDesk _ _ (Desk.slots_takeTick _ t _))
  · exact andThen still (.onDesk _ _ (Desk.slots_takeTick _ t _))

theorem slots_posPhase (edge : Option FrameNo) (s : State) : s.SlotsKept (s.posPhase edge) := by
  have events : SlotsKept s ((s.posOut edge).events.foldl (fun (s : State) v => s.takePosEvent v)
      { s with pos := (s.posOut edge).pos }) :=
    andThen (b := { s with pos := (s.posOut edge).pos }) still (.foldl _ _ (fun s v => slots_takePosEvent v s) _)
  rcases hm : (s.posOut edge).made with _ | k
  · rw [posPhase_of_no_tick hm]
    exact events
  · rw [posPhase_of_tick hm]
    exact andThen events (slots_takeTick k _)

theorem slots_posAlone (edge : Option FrameNo) (s : State) : s.SlotsKept (s.posAlone edge) :=
  fun wf => slots_posPhase edge s wf

theorem slots_phases (p : Period) (t : Taken) : t.state.SlotsKept (t.phases p).state := by
  have pos : ∀ u : Taken, u.state.SlotsKept (u.pos p).state := fun u => slots_posPhase _ u.state
  have ring : ∀ u : Taken, u.state.SlotsKept (u.ring p).state := fun u => slots_ringPhase p.checkFirst p.rx u.state
  have touch : ∀ u : Taken, u.state.SlotsKept (u.touch p).state := fun u =>
    .onDesk (fun e d => d.touchPhase e p.levels) u.state (Desk.slots_touchPhase _ _ _)
  unfold Taken.phases
  split
  · exact andThen (andThen (pos t) (ring (t.pos p))) (touch ((t.pos p).ring p))
  · exact andThen (andThen (pos t) (touch (t.pos p))) (ring ((t.pos p).touch p))
  · exact andThen (andThen (ring t) (pos (t.ring p))) (touch ((t.ring p).pos p))
  · exact andThen (andThen (ring t) (touch (t.ring p))) (pos ((t.ring p).touch p))
  · exact andThen (andThen (touch t) (pos (t.touch p))) (ring ((t.touch p).pos p))
  · exact andThen (andThen (touch t) (ring (t.touch p))) (pos ((t.touch p).ring p))

theorem desk_emit (r : Ring) (c : Vector (BitVec 64) 4) (l : Option (Vector Lane 128)) (s : State) :
    (s.emit r c l).desk = s.desk := by
  unfold State.emit
  split <;> rfl

theorem note_formOutputs (e : Env) (g : Gain) (l : Option (Vector Lane 128)) (x : Vector Sample 32) (d : Desk) :
    (d.formOutputs e g l x).note = d.note := by
  unfold Desk.formOutputs
  dsimp only

/-- The audio and the emitted frame leave NOTE alone. -/
theorem slots_output (x : Vector Sample 32) (r : Ring) (c : Vector (BitVec 64) 4) (l : Option (Vector Lane 128))
    (s : State) : s.SlotsKept ((s.audio x l).emit r c l) := by
  refine still ?_
  rw [desk_emit]
  unfold State.audio
  dsimp only
  rw [note_formOutputs, Desk.advanceAll_note]

theorem slots_sampled (p : Period) (s : State) : s.SlotsKept (s.sampled p) := by
  unfold State.sampled
  split
  · exact andThen (andThen (slots_timers s)
      (slots_phases p { state := s.timers, cells := Vector.replicate 4 0, arriving := none }))
      (slots_output _ _ _ _ _)
  · exact still

theorem slots_part {comes : Bool} {act : State → State} {s : State} (h : s.SlotsKept (act s)) :
    s.SlotsKept (s.part comes act) := by
  unfold State.part
  split
  · exact h
  · exact still

theorem slots_ringAlone (b : Bool) (rx : Option WireFrame) (s : State) : s.SlotsKept (s.ringAlone b rx) :=
  andThen (b := s.advanceInstant) still (slots_ringPhase b rx _)

/-! ## LINK, RESET and the word clock -/

theorem wf_reset : Note.reset.wf := ⟨List.nodup_nil, List.nodup_nil⟩

theorem slots_transfer (n : Nat) (s : State) : s.SlotsKept (s.transfer n) := by
  unfold State.transfer
  split <;> exact still

theorem slots_overrun (n : Nat) (s : State) : s.SlotsKept (s.overrun n) := andThen still (slots_transfer n _)

theorem slots_emptyTransfer (n : Nat) (s : State) : s.SlotsKept (s.emptyTransfer n) := by
  unfold State.emptyTransfer
  split
  · exact still
  · exact slots_transfer n s

theorem slots_formReply (s : State) : s.SlotsKept s.formReply := by
  unfold State.formReply
  split
  · exact still
  · split <;> exact still

/-- R170, R171, R180: a transfer that carries a message does what its command does, or leaves NOTE alone. -/
theorem slots_message {n : Nat} {body : State → Answered} {s : State} (h : s.SlotsKept (body s).state) :
    s.SlotsKept (s.message n body) := by
  unfold State.message
  split
  · exact still
  · split
    · exact h
    · exact slots_overrun n s

theorem slots_command {n tail : Nat} {body : State → Answered} {s : State} (h : s.SlotsKept (body s).state) :
    s.SlotsKept (s.command n tail body) := slots_message h

theorem slots_configured {n tail : Nat} {k : Byte} {body : Conf → State → Answered} {s : State}
    (h : ∀ c, s.SlotsKept (body c s).state) : s.SlotsKept (s.command n tail (State.configured k body)) := by
  refine slots_command ?_
  unfold State.configured
  split
  · exact h _
  · exact still

theorem slots_reject (ldi : List Bool) (s : State) : s.SlotsKept (s.reject ldi) := by
  unfold State.reject
  split
  · exact still
  · split
    · exact slots_message still
    · exact still

theorem slots_discard (ldi : List Bool) (s : State) : s.SlotsKept (s.discard ldi) := by
  unfold State.discard
  split
  · exact still
  · split
    · exact slots_overrun _ s
    · exact still

theorem slots_loseClock (s : State) : s.SlotsKept s.loseClock := by
  unfold State.loseClock State.SlotsKept
  rw [State.onDesk_desk]
  exact (Desk.slots_raise .clockLost s.desk).andThen (Desk.slots_takeEvent _ .clockLost _)

/-! ## The commands -/

theorem slots_configure (payload : List Byte) (s : State) : s.SlotsKept (s.configure payload).state := by
  unfold State.configure
  split
  · exact still
  · split
    · exact still
    · split <;> exact still

theorem slots_join (s : State) : s.SlotsKept s.join.state := by
  unfold State.join
  split <;> exact still

theorem slots_route (strip form bus offset bus1 offset1 bus2 offset2 : Byte) (s : State) :
    s.SlotsKept (s.route strip form bus offset bus1 offset1 bus2 offset2).state := by
  unfold State.route
  split
  · exact still
  · exact .onDesk _ s (Desk.SlotsKept.andThen (b := s.desk.setStrip _ _) .of_note (Desk.slots_resoloAll _ _))

theorem slots_solo (strip flags : Byte) (s : State) : s.SlotsKept (s.solo strip flags).state := by
  unfold State.solo
  split
  · exact still
  · exact .onDesk _ s (Desk.SlotsKept.andThen (b := s.desk.setStrip _ _) .of_note (Desk.slots_resoloAll _ _))

theorem slots_touchset (line flags interval : Byte) (s : State) : s.SlotsKept (s.touchset line flags interval).state := by
  unfold State.touchset
  split
  · exact .onDesk _ s (Desk.slots_setLineSettings _ _ _ _ _ _)
  · exact still

theorem slots_mapFader (fader form target : Byte) (s : State) : s.SlotsKept (s.mapFader fader form target).state := by
  unfold State.mapFader
  split
  · split
    · exact still
    · exact .onDesk _ s (Desk.slots_remap _ _ _ _)
  · exact still

theorem slots_surface (form target : Byte) (value : BitVec 16) (indication : Byte) (s : State) :
    s.SlotsKept (s.surface form target value indication).state := by
  unfold State.surface
  split
  · split
    · exact .onDesk _ s ((Desk.slots_surfaceValue _ _ _ _).andThen (Desk.slots_indicate _ _ _ _))
    · exact still
  · exact still

theorem slots_controlCommand (id mode safe glide : Byte) (s : State) :
    s.SlotsKept (s.controlCommand id mode safe glide).state := by
  unfold State.controlCommand
  split
  · exact still
  · exact .onDesk _ s (Desk.slots_setControlSettings _ _ _ _ _ _)

theorem slots_window (form : Byte) (inTick outTick : BitVec 32) (s : State) :
    s.SlotsKept (s.window form inTick outTick).state := by
  unfold State.window
  split <;> exact still

theorem slots_abortAtPageEnd (s : State) : s.SlotsKept s.abortAtPageEnd.state := by
  unfold State.abortAtPageEnd
  split <;> exact still

theorem slots_setSpan (form : Byte) (first last : BitVec 24) (s : State) : s.SlotsKept (s.setSpan form first last).state := by
  unfold State.setSpan
  split <;> exact still

theorem slots_countStray (s : State) : s.SlotsKept s.countStray := by
  unfold State.countStray
  split
  · exact still
  · dsimp only
    split <;> exact still

theorem slots_takePage (p : PlayPage) (s : State) : s.SlotsKept (s.takePage p) := by
  unfold State.takePage
  dsimp only
  split
  · split
    · exact andThen still (.onDesk _ _ (Desk.slots_catchUp _ _ _))
    · exact still
  · exact still

theorem slots_deliver (payload : List Byte) (s : State) : s.SlotsKept (s.deliver payload).state := by
  have effect : ∀ r, s.SlotsKept (s.deliverEffect r) := by
    intro r
    cases r
    case taken p => exact slots_takePage p s
    case stray => exact slots_countStray s
    all_goals exact andThen (b := s.raise .pageRejected) still (slots_countStray _)
  exact effect _

end State

/-! ## Every row -/

/-- Every row answers a next state with one entry for each slot where the state before has. -/
theorem exec_keeps_slots (i : Instr) (s : State) : ∃ t, exec i s = .next t ∧ s.SlotsKept t := by
  cases i with
  | configure payload tail =>
    refine ⟨_, rfl, State.slots_command ?_⟩
    split
    · exact s.slots_configure payload
    · exact .still
  | join => exact ⟨_, rfl, State.slots_configured fun _ => s.slots_join⟩
  | leave => exact ⟨_, rfl, State.slots_configured fun _ _ => Desk.wf_leave _ _ _⟩
  | route => exact ⟨_, rfl, State.slots_configured fun _ => s.slots_route _ _ _ _ _ _ _ _⟩
  | solo => exact ⟨_, rfl, State.slots_configured fun _ => s.slots_solo _ _⟩
  | touchset => exact ⟨_, rfl, State.slots_configured fun _ => s.slots_touchset _ _ _⟩
  | map => exact ⟨_, rfl, State.slots_configured fun _ => s.slots_mapFader _ _ _⟩
  | surface => exact ⟨_, rfl, State.slots_configured fun _ => s.slots_surface _ _ _ _⟩
  | control => exact ⟨_, rfl, State.slots_configured fun _ => s.slots_controlCommand _ _ _ _⟩
  | window => exact ⟨_, rfl, State.slots_configured fun _ => s.slots_window _ _ _⟩
  | abortNow => exact ⟨_, rfl, State.slots_configured fun _ => .onDesk _ s (Desk.slots_abortNow _ _)⟩
  | abortAtPageEnd => exact ⟨_, rfl, State.slots_configured fun _ => s.slots_abortAtPageEnd⟩
  | span => exact ⟨_, rfl, State.slots_configured fun _ => s.slots_setSpan _ _ _⟩
  | deliver payload tail =>
    refine ⟨_, rfl, State.slots_command ?_⟩
    split
    · unfold State.configured
      split
      · exact s.slots_deliver payload
      · exact .still
    · exact .still
  | drives | take | passes | status | mask => exact ⟨_, rfl, State.slots_command .still⟩
  | restart => exact ⟨_, rfl, State.slots_command fun _ => Desk.wf_restart _ _ _⟩
  | format ldi => exact ⟨_, rfl, s.slots_reject ldi⟩
  | poll n | replyRead n => exact ⟨_, rfl, s.slots_emptyTransfer n⟩
  | replyFormed => exact ⟨_, rfl, s.slots_formReply⟩
  | linkOverrun ldi => exact ⟨_, rfl, s.slots_discard ldi⟩
  | hardwareReset => exact ⟨_, rfl, fun _ => State.wf_reset⟩
  | resetRise strap rate96 =>
    refine ⟨_, rfl, ?_⟩
    split
    · exact fun _ => State.wf_reset
    · exact .still
  | clockLost =>
    refine ⟨_, rfl, ?_⟩
    split
    · exact .still
    · split
      · exact s.slots_loseClock
      · exact .still
  | clockReturn => exact ⟨_, rfl, .still⟩
  | sampleEvent | frameEdge | frameArrival | badFrame | silentSample | tapFrame => exact ⟨_, rfl, s.slots_sampled _⟩
  | flywheel | tick | abortFired | glideEnd => exact ⟨_, rfl, State.slots_part (s.slots_posAlone _)⟩
  | rampEnd r => exact ⟨_, rfl, State.slots_part (.still (by cases r <;> rfl))⟩
  | settleEnd | settleRiseEnd => exact ⟨_, rfl, State.slots_part .still⟩
  | touchQualified | releaseQualified => exact ⟨_, rfl, State.slots_part (.onDesk _ s (Desk.slots_lineStep _ _ _ _))⟩
  | ringBreak | tagAdoption | relock | relockComplete | lockPhaseEnd | listenPhaseEnd | firstIn =>
    exact ⟨_, rfl, State.slots_part (s.slots_ringAlone _ _)⟩
  | noticeDeadline x => exact ⟨_, rfl, State.slots_part (.andThen (b := s.advanceInstant) .still (State.slots_expireFlight x _))⟩
  | holdingsTimer => exact ⟨_, rfl, State.slots_part (.onDesk _ s (Desk.slots_timerStep _ _))⟩
  | holdingsExpiry => exact ⟨_, rfl, State.slots_part (.onDesk _ s (Desk.slots_ageOf _ _ _))⟩
  | leaseExpiry => exact ⟨_, rfl, State.slots_part (.onDesk _ s (Desk.slots_leaseStep _ _ _))⟩
  | keepalive => exact ⟨_, rfl, State.slots_part (.onDesk _ s (Desk.slots_keepaliveStep _ _))⟩

end Sys2Proof.Machine

open Sys2Proof Sys2Proof.Machine

/-- Settles O36: NOTE's operations on its two tables, and every row through `exec_keeps_slots`. -/
theorem noteSlots : Obligations.NoteSlots := by
  refine ⟨⟨fun n x k w wf => ⟨Note.wf_queue wf k w, Note.wf_withdraw wf, Note.wf_close wf⟩, State.slots_place,
    fun s t wf run => ?_⟩, fun n x k w => ⟨Note.waiting?_queue_self x k w n, Note.waiting?_withdraw_self x n, fun y other =>
      ⟨Note.waiting?_queue_of_ne other k w n, Note.waiting?_withdraw_of_ne other n⟩, Note.slots_queue x k w n,
      Note.queue_flight x k w n, rfl⟩⟩
  unfold step at run
  split at run
  · cases run
    exact wf
  · next c rest _ =>
    obtain ⟨u, next, kept⟩ := exec_keeps_slots c { s with pending := rest }
    rw [next] at run
    cases run
    exact kept wf
end

section
/-!
ROUTE and SOLO (R69, R70, R75, R76, R79): the own solo bits zone by zone, the gates of every strip after a recomputation, and
the two commands.
-/

set_option Elab.async false

namespace Sys2Proof.Machine

/-! ## The own solo bits (R76) -/

/-- R76: the own bit of a zone is 1 where a strip solos the zone. -/
theorem Desk.getLsbD_soloBits (e : Env) (z : Fin 4) (d : Desk) :
    (d.soloBits e).getLsbD z.val = true ↔ ∃ k, (d.stripOf k).solosZone e z = true := by
  have run : ∀ (p : Fin 4 → Bool) (l : List (Fin 4)) (b : SoloBits),
      (l.foldl (fun bits y => if p y then bits ||| BitVec.twoPow 4 y.val else bits) b).getLsbD z.val =
        (b.getLsbD z.val || decide (z ∈ l) && p z) := by
    intro p l
    induction l with
    | nil => simp
    | cons y l ih =>
      intro b
      rw [List.foldl_cons, ih]
      by_cases here : z = y
      · subst here
        rcases p z <;> simp
      · have apart : z.val ≠ y.val := fun same => here (Fin.ext same)
        rcases p y <;> simp [here, apart]
  unfold Desk.soloBits
  rw [run, Desk.toList_strips]
  simp [allZones]

/-- R76: a strip's solo counts for the zones its sends feed. -/
theorem Strip.solosZone_iff (e : Env) (x : Strip) (z : Fin 4) :
    x.solosZone e z = true ↔ x.solo = true ∧ (e.zoneOf? x.send1 = some z ∨ e.zoneOf? x.send2 = some z) := by
  simp [Strip.solosZone]

/-- R76: the own bits are read from the solo flags and sends alone. -/
theorem Desk.soloBits_congr {d d' : Desk} (e : Env)
    (h : ∀ k z, (d'.stripOf k).solosZone e z = (d.stripOf k).solosZone e z) : d'.soloBits e = d.soloBits e := by
  refine BitVec.eq_of_getLsbD_eq fun i below => ?_
  have bit : ∀ d : Desk, (d.soloBits e).getLsbD i = true ↔ ∃ k, (d.stripOf k).solosZone e ⟨i, below⟩ = true :=
    Desk.getLsbD_soloBits e ⟨i, below⟩
  rw [Bool.eq_iff_iff, bit, bit]
  simp only [h]

/-- R76: recomputing the own bits moves no strip. -/
structure Desk.Resoloed (e : Env) (d d' : Desk) : Prop where
  strips  : d'.strip.strips = d.strip.strips
  ownBits : d'.strip.ownBits = d.soloBits e
  home    : d'.home = d.home
  touch   : d'.touch = d.touch
  auto    : d'.auto = d.auto
  take    : d'.take = d.take
  ev      : d'.ev = d.ev
  flight  : d'.note.flight = d.note.flight

theorem Desk.resoloed_resolo (e : Env) (d : Desk) : d.Resoloed e (d.resolo e) := by
  unfold Desk.resolo
  dsimp only
  split
  · next same => exact ⟨rfl, same.symm, rfl, rfl, rfl, rfl, rfl, rfl⟩
  · exact ⟨rfl, rfl, rfl, rfl, rfl, rfl, rfl, Note.queue_flight _ _ _ _⟩

/-! ## The gates (R79, R80) -/

@[simp] theorem Factor.target_retarget (g : Gain) (f : Factor) : (f.retarget g).target = g := by
  unfold Factor.retarget
  split
  · next same => exact same
  · rfl

/-- R79: both gates of a strip by a zone solo table. -/
def Strip.regate (e : Env) (d : Desk) (x : Strip) : Strip :=
  { x with gate1 := x.gate1.retarget (gateGain (d.gateOpen e x x.send1)),
           gate2 := x.gate2.retarget (gateGain (d.gateOpen e x x.send2)) }

/-- R79: a gate is decided by the zone solo table and the strip's own flags. -/
theorem Desk.gateOpen_congr {d d' : Desk} (h : d'.strip.zones = d.strip.zones) (e : Env) (x : Strip) (send : Option Dest) :
    d'.gateOpen e x send = d.gateOpen e x send := by
  unfold Desk.gateOpen Desk.soloActive
  rw [h]

theorem Strip.regate_congr {d d' : Desk} (h : d'.strip.zones = d.strip.zones) (e : Env) (x : Strip) :
    x.regate e d' = x.regate e d := by
  simp only [Strip.regate, Desk.gateOpen_congr h]

theorem Desk.setStrip_setStrip (n : Fin 32) (x y : Strip) (d : Desk) : (d.setStrip n x).setStrip n y = d.setStrip n y := by
  simp [Desk.setStrip]

theorem Desk.regateStrip_eq (e : Env) (n : Fin 32) (d : Desk) :
    d.regateStrip e n = d.setStrip n ((d.stripOf n).regate e d) := by
  unfold Desk.regateStrip Desk.retarget
  dsimp only
  rw [Desk.setStrip_setStrip, Desk.stripOf_setStrip, if_pos rfl]
  rfl

/-- R79: every gate of every strip is decided by the table that stands. -/
theorem Desk.stripOf_regate (e : Env) (k : Fin 32) (d : Desk) : (d.regate e).stripOf k = (d.stripOf k).regate e d := by
  have run : ∀ (l : List (Fin 32)) (d : Desk), l.Nodup →
      (d.each l (Desk.regateStrip e)).stripOf k = if k ∈ l then (d.stripOf k).regate e d else d.stripOf k := by
    intro l
    induction l with
    | nil => simp [Desk.each]
    | cons n l ih =>
      intro d nodup
      obtain ⟨absent, nodup⟩ := List.nodup_cons.mp nodup
      have next : d.each (n :: l) (Desk.regateStrip e) = (d.regateStrip e n).each l (Desk.regateStrip e) := rfl
      have zones : ∀ x y : Strip, x.regate e (d.setStrip n y) = x.regate e d := fun x _ => Strip.regate_congr rfl e x
      rw [next, ih _ nodup, Desk.regateStrip_eq, zones, Desk.stripOf_setStrip]
      by_cases here : k = n
      · subst here
        simp [absent]
      · simp [here]
  exact (run allStrips d (List.nodup_finRange 32)).trans (if_pos (List.mem_finRange k))

/-- R70, R75: what the recomputation after a ROUTE or a SOLO makes of the desk: the own bits follow the strips, the gates
follow the zone solo table, and nothing else of a strip moves. -/
structure Desk.ResoloedAll (e : Env) (d d' : Desk) : Prop where
  strips  : ∀ k, d'.stripOf k = (d.stripOf k).regate e d'
  ownBits : d'.strip.ownBits = d'.soloBits e
  home    : d'.home = d.home
  touch   : d'.touch = d.touch
  auto    : d'.auto = d.auto
  take    : d'.take = d.take
  ev      : d'.ev = d.ev
  flight  : d'.note.flight = d.note.flight

theorem Desk.resoloedAll_resoloAll (e : Env) (d : Desk) : d.ResoloedAll e (d.resoloAll e) := by
  have solo := Desk.resoloed_resolo e d
  unfold Desk.resoloAll
  generalize d.resolo e = r at solo ⊢
  have gated := fun k => Desk.stripOf_regate e k r
  obtain ⟨v, same⟩ := Desk.regate_eq e r
  rw [same] at gated ⊢
  have strips : ∀ k, Desk.stripOf { r with strip := { r.strip with strips := v } } k =
      (d.stripOf k).regate e { r with strip := { r.strip with strips := v } } := fun k => by
    have strip : r.stripOf k = d.stripOf k := congrArg (·[k]) solo.strips
    rw [gated, strip]
    exact (Strip.regate_congr rfl e _).symm
  have bits : Desk.soloBits e { r with strip := { r.strip with strips := v } } = d.soloBits e :=
    Desk.soloBits_congr e fun k z => by rw [strips]; rfl
  exact ⟨strips, solo.ownBits.trans bits.symm, solo.home, solo.touch, solo.auto, solo.take, solo.ev, solo.flight⟩

/-- R70, R75: one strip is written, and the solo state recomputed. -/
theorem Desk.ResoloedAll.stripOf_setStrip {e : Env} {n : Fin 32} {x : Strip} {d d' : Desk}
    (h : (d.setStrip n x).ResoloedAll e d') :
    d'.stripOf n = x.regate e d' ∧ ∀ k, k ≠ n → d'.stripOf k = (d.stripOf k).regate e d' := by
  refine ⟨?_, fun k other => ?_⟩
  · rw [h.strips, Desk.stripOf_setStrip, if_pos rfl]
  · rw [h.strips, Desk.stripOf_setStrip, if_neg other]

/-- R79: a gate of a strip is closed for a send into a solo-active zone of a strip neither soloed nor safe. -/
theorem gateGain_gateOpen (e : Env) (d : Desk) (x : Strip) (send : Option Dest) :
    gateGain (d.gateOpen e x send) = match e.zoneOf? send with
      | some z => if d.strip.zones[z] ≠ 0 ∧ x.solo = false ∧ x.safe = false then Gain.zero else Gain.one
      | none => Gain.one := by
  unfold Desk.gateOpen Desk.soloActive gateGain
  rcases e.zoneOf? send with _ | z
  · rfl
  · rcases x.solo <;> rcases x.safe <;> by_cases h : d.strip.zones[z] = 0 <;> simp [h]

/-! ## The commands (R69, R75) -/

theorem indexOf?_of_toNat {n : Nat} {a : Byte} {k : Fin n} (h : a.toNat = k.val) : indexOf? n a = some k := by
  unfold indexOf?
  rw [dif_pos (h ▸ k.isLt)]
  exact congrArg some (Fin.ext h)

theorem indexOf?_of_le {n : Nat} {a : Byte} (h : n ≤ a.toNat) : indexOf? n a = none := dif_neg (Nat.not_lt.mpr h)

section
variable {s : State} {c : Conf} {a f b o b1 o1 b2 o2 : Byte}

theorem State.exec_route (ready : s.ready) (conf : s.conf = some c) (tail : Nat) :
    exec (.route a f b o b1 o1 b2 o2 tail) s =
      .next (State.taken 8 tail (s.route a f b o b1 o1 b2 o2).reply (s.route a f b o b1 o1 b2 o2).state) := by
  refine congrArg Host.Outcome.next ((State.command_of_ready ready _ _ _).trans ?_)
  rw [State.configured_of_some conf]

theorem State.exec_solo (ready : s.ready) (conf : s.conf = some c) (tail : Nat) :
    exec (.solo a f tail) s = .next (State.taken 2 tail (s.solo a f).reply (s.solo a f).state) := by
  refine congrArg Host.Outcome.next ((State.command_of_ready ready _ _ _).trans ?_)
  rw [State.configured_of_some conf]

/-- R69: a ROUTE that fails a check of range is refused, whatever the checks behind it say. -/
theorem State.route_of_range (h : 32 ≤ a.toNat ∨ readSource s.env f b o = none ∨ readSend s.env b1 o1 = none ∨
    readSend s.env b2 o2 = none) : s.route a f b o b1 o1 b2 o2 = s.refuse 4 .range := by
  have fails : routeChecks s.env a f b o b1 o1 b2 o2 = .error .range := by
    unfold routeChecks
    split
    · next index source send1 send2 =>
      rcases h with h | h | h | h
      · rw [indexOf?_of_le h] at index
        cases index
      · rw [h] at source
        cases source
      · rw [h] at send1
        cases send1
      · rw [h] at send2
        cases send2
    · rfl
  unfold State.route
  rw [fails]

/-- R69: the checks behind that of range. -/
theorem routeChecks_of_read {e : Env} {n : Fin 32} {src : Source} {x y : Option Dest} (index : a.toNat = n.val)
    (source : readSource e f b o = some src) (send1 : readSend e b1 o1 = some x) (send2 : readSend e b2 o2 = some y) :
    routeChecks e a f b o b1 o1 b2 o2 =
      if sourceHomed e src = false then .error .notHome
      else if loops e src x y = true then .error .loop else .ok (n, src, x, y) := by
  unfold routeChecks
  rw [indexOf?_of_toNat index, source, send1, send2]
  simp

theorem State.route_of_error {r : Reason} (h : routeChecks s.env a f b o b1 o1 b2 o2 = .error r) :
    s.route a f b o b1 o1 b2 o2 = s.refuse 4 r := by
  unfold State.route
  rw [h]

theorem State.route_of_ok {n : Fin 32} {src : Source} {x y : Option Dest}
    (h : routeChecks s.env a f b o b1 o1 b2 o2 = .ok (n, src, x, y)) :
    s.route a f b o b1 o1 b2 o2 =
      State.done 4 [(s.desk.route s.env n src x y).soloByte] { s with desk := s.desk.route s.env n src x y } := by
  unfold State.route
  rw [h]
  rfl

/-- R75: a SOLO of no strip. -/
theorem State.solo_of_range (h : 32 ≤ a.toNat) : s.solo a f = s.refuse 5 .range := by
  unfold State.solo
  rw [indexOf?_of_le h]

theorem State.solo_of_strip {n : Fin 32} (h : a.toNat = n.val) :
    s.solo a f = State.done 5 [(s.desk.solo s.env n f).soloByte] { s with desk := s.desk.solo s.env n f } := by
  unfold State.solo
  rw [indexOf?_of_toNat h]
  rfl

end

end Sys2Proof.Machine

open Sys2Proof Sys2Proof.Machine

/-- Settles O44: the checks of ROUTE in their order, and a taken ROUTE as one strip written and the solo state recomputed. -/
theorem routeResult : Obligations.RouteResult := by
  intro a f b o b1 o1 b2 o2 tail s ready conf
  obtain ⟨c, conf⟩ := Option.isSome_iff_exists.mp conf
  have exec_eq := State.exec_route (a := a) (f := f) (b := b) (o := o) (b1 := b1) (o1 := o1) (b2 := b2) (o2 := o2)
    ready conf tail
  refine ⟨fun range => ?_, fun n src x y index source send1 send2 => ?_⟩
  · rw [exec_eq, State.route_of_range range]
    rfl
  have checks := routeChecks_of_read index source send1 send2
  refine ⟨fun away => ?_, fun homed loop => ?_, fun homed free => ?_⟩
  · rw [exec_eq, State.route_of_error (checks.trans (if_pos away))]
    rfl
  · rw [homed, loop] at checks
    rw [exec_eq, State.route_of_error checks]
    rfl
  · rw [homed, free] at checks
    rw [exec_eq, State.route_of_ok checks]
    have solo := Desk.resoloedAll_resoloAll s.env
      (s.desk.setStrip n { s.desk.stripOf n with source := src, send1 := x, send2 := y })
    have routed : s.desk.route s.env n src x y = Desk.resoloAll s.env
      (s.desk.setStrip n { s.desk.stripOf n with source := src, send1 := x, send2 := y }) := rfl
    rw [← routed] at solo
    generalize s.desk.route s.env n src x y = d at solo ⊢
    obtain ⟨written, others⟩ := solo.stripOf_setStrip
    have routes : ∀ k, k ≠ n → (d.stripOf k).source = (s.desk.stripOf k).source ∧
        (d.stripOf k).send1 = (s.desk.stripOf k).send1 ∧ (d.stripOf k).send2 = (s.desk.stripOf k).send2 := fun k other => by
      rw [others k other]
      exact ⟨rfl, rfl, rfl⟩
    have kept : ∀ k, (d.stripOf k).hist1 = (s.desk.stripOf k).hist1 ∧ (d.stripOf k).solo = (s.desk.stripOf k).solo :=
      fun k => by
        by_cases here : k = n
        · rw [here, written]
          exact ⟨rfl, rfl⟩
        · rw [others k here]
          exact ⟨rfl, rfl⟩
    exact ⟨_, rfl, congrArg Strip.source written, congrArg Strip.send1 written, congrArg Strip.send2 written, solo.ownBits,
      routes, kept, solo.auto, solo.touch, solo.home, solo.take, solo.ev, solo.flight, rfl, rfl⟩

/-- Settles O45: SOLO as one strip's flags written and the solo state recomputed. -/
theorem soloResult : Obligations.SoloResult := by
  intro a flags tail s ready conf
  obtain ⟨c, conf⟩ := Option.isSome_iff_exists.mp conf
  have exec_eq := State.exec_solo (a := a) (f := flags) ready conf tail
  refine ⟨fun range => ?_, fun n index => ?_⟩
  · rw [exec_eq, State.solo_of_range range]
    rfl
  rw [exec_eq, State.solo_of_strip index]
  have solo := Desk.resoloedAll_resoloAll s.env
    (s.desk.setStrip n { s.desk.stripOf n with solo := flags.getLsbD 0, safe := flags.getLsbD 1 })
  have soloed : s.desk.solo s.env n flags = Desk.resoloAll s.env
    (s.desk.setStrip n { s.desk.stripOf n with solo := flags.getLsbD 0, safe := flags.getLsbD 1 }) := rfl
  rw [← soloed] at solo
  generalize s.desk.solo s.env n flags = d at solo ⊢
  obtain ⟨written, others⟩ := solo.stripOf_setStrip
  have flagged : ∀ k, k ≠ n →
      (d.stripOf k).solo = (s.desk.stripOf k).solo ∧ (d.stripOf k).safe = (s.desk.stripOf k).safe := fun k other => by
    rw [others k other]
    exact ⟨rfl, rfl⟩
  have kept : ∀ k, (d.stripOf k).source = (s.desk.stripOf k).source ∧ (d.stripOf k).send1 = (s.desk.stripOf k).send1 ∧
      (d.stripOf k).send2 = (s.desk.stripOf k).send2 ∧ (d.stripOf k).level = (s.desk.stripOf k).level ∧
      (d.stripOf k).hist1 = (s.desk.stripOf k).hist1 ∧ (d.stripOf k).hist2 = (s.desk.stripOf k).hist2 := fun k => by
    by_cases here : k = n
    · rw [here, written]
      exact ⟨rfl, rfl, rfl, rfl, rfl, rfl⟩
    · rw [others k here]
      exact ⟨rfl, rfl, rfl, rfl, rfl, rfl⟩
  have bits : ∀ z : Fin 4, d.strip.ownBits.getLsbD z.val = true ↔ ∃ k, (d.stripOf k).solo = true ∧
      (s.env.zoneOf? (d.stripOf k).send1 = some z ∨ s.env.zoneOf? (d.stripOf k).send2 = some z) := fun z => by
    rw [solo.ownBits, Desk.getLsbD_soloBits]
    simp only [Strip.solosZone_iff]
  have gate1 : ∀ k, (d.stripOf k).gate1.target = gateGain (d.gateOpen s.env (d.stripOf k) (d.stripOf k).send1) := fun k => by
    rw [solo.strips k]
    exact Factor.target_retarget _ _
  have gate2 : ∀ k, (d.stripOf k).gate2.target = gateGain (d.gateOpen s.env (d.stripOf k) (d.stripOf k).send2) := fun k => by
    rw [solo.strips k]
    exact Factor.target_retarget _ _
  exact ⟨_, rfl, congrArg Strip.solo written, congrArg Strip.safe written, flagged, bits,
    fun k => (gate1 k).trans (gateGain_gateOpen s.env d _ _), fun k => (gate2 k).trans (gateGain_gateOpen s.env d _ _), kept,
    solo.auto, solo.touch, solo.home, solo.take, solo.ev, solo.flight, rfl, rfl⟩
end

section
/-!
Ramps (R73, R74): one sample event of a factor, the factors of a desk apart from one another, and the sample events to the next
quarter start.
-/

set_option Elab.async false

namespace Sys2Proof.Machine

/-! ## One sample event of a factor (R74) -/

/-- R74: the factor's next step is the (k + 1)-th of M from `start`, where a change taken at this sample event is given L. -/
def Factor.Ramps (L : Nat) (start : Gain) (k M : Nat) (f : Factor) : Prop :=
  f.ramp = .running start k M ∨ start = f.value ∧ k = 0 ∧ (f.ramp = .timed M ∨ f.ramp = .armed ∧ M = L)

theorem Factor.advance_of_ramps {L k M : Nat} {start : Gain} {f : Factor} (h : f.Ramps L start k M) :
    f.advance L = { f with value := Factor.atStep start f.target (k + 1) M,
                           ramp := if M ≤ k + 1 then .held else .running start (k + 1) M } := by
  unfold Factor.advance
  rcases h with running | ⟨rfl, rfl, timed | ⟨armed, rfl⟩⟩
  · rw [running]
  · rw [timed]
    rfl
  · rw [armed]
    rfl

theorem Factor.advance_of_held {f : Factor} (h : f.ramp = .held) (L : Nat) : f.advance L = f := by
  unfold Factor.advance
  rw [h]

/-- A factor holds its target or ramps. -/
theorem Factor.held_or_ramps (L : Nat) (f : Factor) : f.ramp = .held ∨ ∃ start k M, f.Ramps L start k M := by
  rcases h : f.ramp with _ | _ | M | ⟨start, k, M⟩
  · exact .inl rfl
  · exact .inr ⟨f.value, 0, L, .inr ⟨rfl, rfl, .inr ⟨h, rfl⟩⟩⟩
  · exact .inr ⟨f.value, 0, M, .inr ⟨rfl, rfl, .inl h⟩⟩
  · exact .inr ⟨start, k, M, .inl h⟩

/-- R74: a step before the last. -/
theorem Factor.advance_of_lt {L k M : Nat} {start : Gain} {f : Factor} (h : f.Ramps L start k M) (more : k + 1 < M) :
    (f.advance L).value = Factor.atStep start f.target (k + 1) M ∧ (f.advance L).ramp = .running start (k + 1) M := by
  rw [Factor.advance_of_ramps h]
  exact ⟨rfl, if_neg (Nat.not_le.mpr more)⟩

/-- R74: the last step brings the factor to its target and ends the ramp. -/
theorem Factor.advance_of_le {L k M : Nat} {start : Gain} {f : Factor} (h : f.Ramps L start k M) (last : M ≤ k + 1) :
    (f.advance L).value = f.target ∧ (f.advance L).ramp = .held := by
  rw [Factor.advance_of_ramps h]
  exact ⟨if_pos last, if_pos last⟩

theorem Factor.advance_target (L : Nat) (f : Factor) : (f.advance L).target = f.target := by
  rcases f.held_or_ramps L with held | ⟨start, k, M, ramps⟩
  · rw [Factor.advance_of_held held]
  · rw [Factor.advance_of_ramps ramps]

theorem Factor.ramps_of_atLastStep {L : Nat} {f : Factor} (h : f.atLastStep L = true) :
    ∃ start k M, f.Ramps L start k M ∧ M ≤ k + 1 := by
  unfold Factor.atLastStep at h
  split at h
  · cases h
  · next armed => exact ⟨f.value, 0, L, .inr ⟨rfl, rfl, .inr ⟨armed, rfl⟩⟩, of_decide_eq_true h⟩
  · next M timed => exact ⟨f.value, 0, M, .inr ⟨rfl, rfl, .inl timed⟩, of_decide_eq_true h⟩
  · next start k M running => exact ⟨start, k, M, .inl running, of_decide_eq_true h⟩

theorem Factor.fix_eq (L : Nat) (f : Factor) : f.fix L = if f.ramp = .armed then { f with ramp := .timed L } else f := by
  unfold Factor.fix
  split
  · next armed => rw [if_pos armed]
  · next other => rw [if_neg other]

/-! ## One factor of the desk -/

theorem Desk.factor_advanceFactor (L : Nat) (r : FactorName) (d : Desk) :
    (d.advanceFactor r L).factor r = (d.factor r).advance L := by
  cases r <;> simp [Desk.factor, Desk.advanceFactor]

/-- Two names are two fields of one strip or home, or stand in two strips or homes. -/
theorem Desk.factor_advanceFactor_of_ne {q r : FactorName} (h : q ≠ r) (L : Nat) (d : Desk) :
    (d.advanceFactor r L).factor q = d.factor q := by
  cases r <;> cases q <;> simp only [Desk.factor, Desk.advanceFactor, Desk.stripOf_setStrip, Desk.homeOf_setHome,
    Desk.stripOf_setHome, Desk.homeOf_setStrip]
  all_goals
    split
    · next same =>
      subst same
      simp at h ⊢
    · rfl

/-- R74: the row of one factor moves that factor alone. -/
theorem Desk.advanceFactor_eq (L : Nat) (r : FactorName) (d : Desk) :
    ∃ v w, d.advanceFactor r L =
        { d with strip := { d.strip with strips := v }, home := { d.home with homes := w } } ∧
      w.map (·.driver) = d.home.homes.map (·.driver) := by
  have driver : ∀ (b : Fin 24) (x : Home), x.driver = (d.homeOf b).driver →
      (d.home.homes.set b x).map (·.driver) = d.home.homes.map (·.driver) := by
    intro b x same
    refine Vector.ext fun i below => ?_
    rw [Vector.getElem_map, Vector.getElem_map, Vector.getElem_set]
    split
    · next here => subst here; exact same
    · rfl
  cases r
  case master b => exact ⟨_, _, rfl, driver b _ rfl⟩
  case masterMute b => exact ⟨_, _, rfl, driver b _ rfl⟩
  all_goals exact ⟨_, _, rfl, rfl⟩

/-! ## The factors after the audio of a sample event -/

/-- R72: what the send outputs write of a strip. -/
theorem Desk.stripOf_formOutputs (e : Env) (g : Gain) (l : Option (Vector Lane 128)) (x : Vector Sample 32) (n : Fin 32)
    (d : Desk) : (d.formOutputs e g l x).stripOf n = (d.stripOf n).form (d.sourceSample e g l x n) := by
  simp [Desk.formOutputs, Desk.stripOf]

theorem Desk.homeOf_formOutputs (e : Env) (g : Gain) (l : Option (Vector Lane 128)) (x : Vector Sample 32) (b : Fin 24)
    (d : Desk) : (d.formOutputs e g l x).homeOf b = d.homeOf b := by
  unfold Desk.homeOf
  rw [(Desk.stemStream_formOutputs e e g g l l x d).2]

/-- R72: forming the send outputs moves no factor. -/
theorem Desk.factor_formOutputs (e : Env) (g : Gain) (l : Option (Vector Lane 128)) (x : Vector Sample 32) (r : FactorName)
    (d : Desk) : (d.formOutputs e g l x).factor r = d.factor r := by
  cases r
  case master b => exact congrArg Home.master (Desk.homeOf_formOutputs e g l x b d)
  case masterMute b => exact congrArg Home.mute (Desk.homeOf_formOutputs e g l x b d)
  all_goals
    unfold Desk.factor
    dsimp only
    rw [Desk.stripOf_formOutputs]
    rfl

/-- R74: the audio of a sample event moves every factor by one sample event. -/
theorem State.factor_audio (x : Vector Sample 32) (l : Option (Vector Lane 128)) (r : FactorName) (s : State) :
    (s.audio x l).desk.factor r = (s.desk.factor r).advance (rampLength s.env) :=
  (Desk.factor_formOutputs _ _ _ _ r _).trans (Desk.factor_advanceAll _ r _)

/-! ## The length of a ramp (R73) -/

/-- R4: the first quarter start above the offset, or the frame's end. -/
theorem nextQuarter_spec {n offset : Nat} (h : offset < n) : offset < nextQuarter n offset ∧
    nextQuarter n offset ∈ [1 * n / 4, 2 * n / 4, 3 * n / 4, n] ∧
    ∀ j, offset < j → j < nextQuarter n offset → j ∉ [1 * n / 4, 2 * n / 4, 3 * n / 4, n] := by
  simp only [List.mem_cons, List.not_mem_nil, or_false]
  unfold nextQuarter quarterStart
  split
  · exact ⟨by omega, by omega, fun j _ _ => by omega⟩
  split
  · exact ⟨by omega, by omega, fun j _ _ => by omega⟩
  split
  · exact ⟨by omega, by omega, fun j _ _ => by omega⟩
  · exact ⟨by omega, by omega, fun j _ _ => by omega⟩

theorem rampLength_of_locked {e : Env} {c : Conf} {m : Motion} (conf : e.conf = some c) (locked : e.pos.state = m.transport) :
    rampLength e = nextQuarter (spf e.rate96 c.rate e.pos.frame) e.pos.offset - e.pos.offset := by
  unfold rampLength
  rw [conf, locked, Motion.motion?_transport]

/-- R4, R6: between edges POS stands one sample on, in the same frame and motion. -/
theorem State.nextRampLength_of_move {s : State} {c : Conf} {m : Motion} (conf : s.conf = some c)
    (locked : s.pos.state = m.transport) (inside : s.pos.offset + 1 < spf s.rate96 c.rate s.pos.frame) :
    s.nextRampLength = rampLength { s.env with pos := { s.pos with offset := s.pos.offset + 1 } } := by
  have early : s.pos.due s.rate96 c.rate = false := decide_eq_false (Nat.not_le.mpr inside)
  unfold State.nextRampLength
  rw [State.posOut_of_conf conf, Pos.sample_move locked early]
  rcases produceTick_cases (spf s.rate96 c.rate s.pos.frame) false [] { s.pos with offset := s.pos.offset + 1 } with
    ⟨t, k, tick⟩ | quiet
  · rw [tick]
    rfl
  · rw [quiet]

end Sys2Proof.Machine

open Sys2Proof Sys2Proof.Machine

/-- Settles O46: one factor's last step, every factor's step in the audio of a sample event, and the length of a ramp. -/
theorem rampEndResult : Obligations.RampEndResult := by
  refine ⟨fun s r live last => ?_, fun s x l r f g before after => ?_, fun d L r => ?_, fun e c m n conf locked hn inside => ?_,
    fun e free => ?_, fun s c m conf locked inside => State.nextRampLength_of_move conf locked inside⟩
  · have run : exec (.rampEnd r) s = .next { s with desk := s.desk.advanceFactor r s.nextRampLength } :=
      congrArg Host.Outcome.next (State.part_of_clocked live last _)
    obtain ⟨start, k, M, ramps, done⟩ := Factor.ramps_of_atLastStep last
    obtain ⟨value, ramp⟩ := Factor.advance_of_le ramps done
    have own := Desk.factor_advanceFactor s.nextRampLength r s.desk
    have others : ∀ q, q ≠ r → (s.desk.advanceFactor r s.nextRampLength).factor q = s.desk.factor q := fun q other =>
      Desk.factor_advanceFactor_of_ne other _ s.desk
    obtain ⟨v, w, frame, drivers⟩ := Desk.advanceFactor_eq s.nextRampLength r s.desk
    refine ⟨_, run, own ▸ value, own ▸ Factor.advance_target _ _, own ▸ ramp, others, ?_, ?_⟩
    · rw [frame]
      exact drivers
    · rw [frame]
  · rw [State.factor_audio, before] at after
    subst after
    refine ⟨Factor.advance_target _ f, fun held => Factor.advance_of_held held _, fun start k M ramps => ?_⟩
    exact ⟨fun more => Factor.advance_of_lt ramps more, fun last => Factor.advance_of_le ramps last⟩
  · rw [Desk.factor_fixLengths]
    exact Factor.fix_eq L _
  · rw [rampLength_of_locked conf locked, ← hn]
    obtain ⟨above, start, first⟩ := nextQuarter_spec inside
    rw [Nat.add_sub_cancel' above.le]
    exact ⟨Nat.sub_pos_of_lt above, start, first⟩
  · exact rampLength_of_not_locked (by rcases free with free | free <;> rw [free] <;> rfl)
end

section
/-!
The gain law (R71, R72, R74): the exact arithmetic of factors against the real numbers they stand for, and the rounding of a
product.
-/

set_option Elab.async false

namespace Sys2Proof.Machine

/-! ## Sums of terms -/

theorem sumAt_map_mul (x : ℝ) (m a : ℕ) (l : List (ℕ × ℕ)) :
    sumAt x (l.map fun t => (t.1, t.2 * m * a)) = sumAt x l * (m * a) := by
  induction l with
  | nil => simp
  | cons t l ih =>
    rw [List.map_cons, sumAt_cons, sumAt_cons, ih]
    push_cast
    ring

theorem sumAt_append (x : ℝ) (l k : List (ℕ × ℕ)) : sumAt x (l ++ k) = sumAt x l + sumAt x k := by
  simp [sumAt]

/-- Inserting a term adds its value. -/
theorem sumAt_insertTerm (x : ℝ) (e c : ℕ) (l : List (ℕ × ℕ)) :
    sumAt x (Gain.insertTerm e c l) = c * x ^ e + sumAt x l := by
  induction l with
  | nil =>
    unfold Gain.insertTerm
    split
    · next none => simp [none]
    · rfl
  | cons t l ih =>
    unfold Gain.insertTerm
    split
    · next none => simp [none]
    split
    · rfl
    split
    · next same =>
      rw [sumAt_cons, sumAt_cons, same]
      push_cast
      ring
    · rw [sumAt_cons, sumAt_cons, ih]
      ring

theorem sumAt_foldl_insertTerm (x : ℝ) (l k : List (ℕ × ℕ)) :
    sumAt x (l.foldl (fun k t => Gain.insertTerm t.1 t.2 k) k) = sumAt x l + sumAt x k := by
  induction l generalizing k with
  | nil => simp
  | cons t l ih =>
    rw [List.foldl_cons, ih, sumAt_insertTerm, sumAt_cons]
    ring

/-- The powers of a list of terms are below 10, the 160th power of the root. -/
def PowersBelow (l : List (ℕ × ℕ)) : Prop := ∀ t ∈ l, t.1 < 160

theorem PowersBelow.insertTerm {e c : ℕ} (he : e < 160) {l : List (ℕ × ℕ)} (h : PowersBelow l) :
    PowersBelow (Gain.insertTerm e c l) := by
  unfold PowersBelow at h ⊢
  induction l with
  | nil =>
    unfold Gain.insertTerm
    split
    · simp
    · simpa using he
  | cons t l ih =>
    obtain ⟨here, rest⟩ := List.forall_mem_cons.mp h
    unfold Gain.insertTerm
    split
    · exact h
    split
    · exact List.forall_mem_cons.mpr ⟨he, h⟩
    split
    · exact List.forall_mem_cons.mpr ⟨he, rest⟩
    · exact List.forall_mem_cons.mpr ⟨here, ih rest⟩

theorem PowersBelow.foldl {l k : List (ℕ × ℕ)} (hl : PowersBelow l) (hk : PowersBelow k) :
    PowersBelow (l.foldl (fun k t => Gain.insertTerm t.1 t.2 k) k) := by
  induction l generalizing k with
  | nil => exact hk
  | cons t l ih =>
    obtain ⟨here, rest⟩ := List.forall_mem_cons.mp hl
    exact ih rest (hk.insertTerm here)

theorem PowersBelow.map {l : List (ℕ × ℕ)} (h : PowersBelow l) (f : ℕ → ℕ) :
    PowersBelow (l.map fun t => (t.1, f t.2)) := by
  intro t mem
  obtain ⟨u, there, rfl⟩ := List.mem_map.mp mem
  exact h u there

/-! ## The canonical form -/

/-- The divisor that the canonical form takes out divides the denominator and every coefficient. -/
theorem foldl_gcd_dvd (l : List (ℕ × ℕ)) (d : ℕ) :
    l.foldl (fun a t => Nat.gcd a t.2) d ∣ d ∧ ∀ t ∈ l, l.foldl (fun a t => Nat.gcd a t.2) d ∣ t.2 := by
  induction l generalizing d with
  | nil => simp
  | cons t l ih =>
    obtain ⟨den, rest⟩ := ih (Nat.gcd d t.2)
    rw [List.foldl_cons]
    exact ⟨den.trans (Nat.gcd_dvd_left _ _), List.forall_mem_cons.mpr ⟨den.trans (Nat.gcd_dvd_right _ _), rest⟩⟩

theorem sumAt_map_div (x : ℝ) {g : ℕ} (l : List (ℕ × ℕ)) (h : ∀ t ∈ l, g ∣ t.2) :
    sumAt x l = g * sumAt x (l.map fun t => (t.1, t.2 / g)) := by
  induction l with
  | nil => simp
  | cons t l ih =>
    obtain ⟨here, rest⟩ := List.forall_mem_cons.mp h
    have whole : (t.2 : ℝ) = g * (t.2 / g : ℕ) := by exact_mod_cast (Nat.mul_div_cancel' here).symm
    rw [List.map_cons, sumAt_cons, sumAt_cons, ih rest, whole]
    ring

/-- The canonical form stands for the same number. -/
theorem Gain.toReal_normal (d : ℕ) (l : List (ℕ × ℕ)) : (Gain.normal d l).toReal = sumAt root10 l / d := by
  obtain ⟨den, terms⟩ := foldl_gcd_dvd l d
  unfold Gain.normal
  dsimp only
  generalize l.foldl (fun a t => Nat.gcd a t.2) d = g at den terms ⊢
  rw [Gain.toReal_eq, sumAt_map_div root10 l terms]
  dsimp only
  rcases Nat.eq_zero_or_pos g with rfl | pos
  · rw [Nat.eq_zero_of_zero_dvd den]
    simp
  · have whole : (d : ℝ) = g * (d / g : ℕ) := by exact_mod_cast (Nat.mul_div_cancel' den).symm
    have nonzero : (g : ℝ) ≠ 0 := by exact_mod_cast pos.ne'
    rw [whole, mul_div_mul_left _ _ nonzero]

theorem Gain.wf_normal {d : ℕ} {l : List (ℕ × ℕ)} (hd : d ≠ 0) (h : PowersBelow l) : (Gain.normal d l).wf := by
  obtain ⟨den, _⟩ := foldl_gcd_dvd l d
  unfold Gain.normal
  dsimp only
  generalize l.foldl (fun a t => Nat.gcd a t.2) d = g at den ⊢
  exact ⟨(Nat.div_pos (Nat.le_of_dvd (Nat.pos_of_ne_zero hd) den) (Nat.pos_of_dvd_of_pos den (Nat.pos_of_ne_zero hd))).ne',
    h.map (· / g)⟩

/-! ## Products (R72) -/

/-- The product of two terms, the 160th power of the root taken as 10. -/
def termProduct (s t : ℕ × ℕ) : ℕ × ℕ :=
  if s.1 + t.1 < 160 then (s.1 + t.1, s.2 * t.2) else (s.1 + t.1 - 160, 10 * (s.2 * t.2))

theorem Gain.mul_eq (x y : Gain) : x.mul y = Gain.normal (x.den * y.den)
    ((x.terms.flatMap fun s => y.terms.map (termProduct s)).foldl (fun l t => Gain.insertTerm t.1 t.2 l) []) := rfl

theorem termProduct_value (s t : ℕ × ℕ) :
    ((termProduct s t).2 : ℝ) * root10 ^ (termProduct s t).1 = s.2 * root10 ^ s.1 * (t.2 * root10 ^ t.1) := by
  unfold termProduct
  split
  · push_cast
    ring
  · next high =>
    have power : root10 ^ (s.1 + t.1) = 10 * root10 ^ (s.1 + t.1 - 160) := by
      rw [← root10_pow_160, ← pow_add, Nat.add_sub_cancel' (Nat.le_of_not_lt high)]
    calc ((10 * (s.2 * t.2) : ℕ) : ℝ) * root10 ^ (s.1 + t.1 - 160)
        = s.2 * t.2 * (10 * root10 ^ (s.1 + t.1 - 160)) := by push_cast; ring
      _ = s.2 * root10 ^ s.1 * (t.2 * root10 ^ t.1) := by rw [← power]; ring

theorem sumAt_map_termProduct (s : ℕ × ℕ) (l : List (ℕ × ℕ)) :
    sumAt root10 (l.map (termProduct s)) = s.2 * root10 ^ s.1 * sumAt root10 l := by
  induction l with
  | nil => simp
  | cons t l ih =>
    rw [List.map_cons, sumAt_cons, sumAt_cons, ih, termProduct_value]
    ring

theorem sumAt_products (l k : List (ℕ × ℕ)) :
    sumAt root10 (l.flatMap fun s => k.map (termProduct s)) = sumAt root10 l * sumAt root10 k := by
  induction l with
  | nil => simp
  | cons s l ih =>
    rw [List.flatMap_cons, sumAt_append, sumAt_map_termProduct, sumAt_cons, ih]
    ring

/-- R72: products of factors are exact. -/
theorem Gain.toReal_mul (x y : Gain) : (x.mul y).toReal = x.toReal * y.toReal := by
  rw [Gain.mul_eq, Gain.toReal_normal, sumAt_foldl_insertTerm, sumAt_products, sumAt_nil, add_zero, Gain.toReal_eq,
    Gain.toReal_eq, Nat.cast_mul, div_mul_div_comm]

theorem Gain.wf_mul {x y : Gain} (hx : x.wf) (hy : y.wf) : (x.mul y).wf := by
  obtain ⟨denX, powersX⟩ := hx
  obtain ⟨denY, powersY⟩ := hy
  refine Gain.mul_eq x y ▸ Gain.wf_normal (Nat.mul_ne_zero denX denY) (PowersBelow.foldl (fun t mem => ?_) nofun)
  obtain ⟨s, memS, mem⟩ := List.mem_flatMap.mp mem
  obtain ⟨u, memU, rfl⟩ := List.mem_map.mp mem
  have := powersX s memS
  have := powersY u memU
  unfold termProduct
  split
  · assumption
  · dsimp only
    omega

/-! ## Steps of a ramp (R74) -/

theorem Gain.toReal_blend (x y : Gain) (a c b : ℕ) : (Gain.blend x a y c b).toReal =
    (sumAt root10 x.terms * (y.den * a) + sumAt root10 y.terms * (x.den * c)) / (x.den * y.den * b) := by
  unfold Gain.blend
  dsimp only
  rw [Gain.toReal_normal, sumAt_foldl_insertTerm, sumAt_foldl_insertTerm, sumAt_map_mul, sumAt_map_mul, sumAt_nil]
  push_cast
  ring

/-- R74: the k-th of L steps lies at the k-th of L equal parts of the way. -/
theorem Factor.toReal_atStep {x y : Gain} {k L : ℕ} (hx : x.den ≠ 0) (hy : y.den ≠ 0) (hL : 0 < L) (hk : k ≤ L) :
    (Factor.atStep x y k L).toReal = x.toReal + (y.toReal - x.toReal) * (k : ℝ) / (L : ℝ) := by
  have length : (L : ℝ) ≠ 0 := by exact_mod_cast hL.ne'
  unfold Factor.atStep
  split
  · next last =>
    rw [Nat.le_antisymm hk last, mul_div_cancel_right₀ _ length]
    ring
  · have denX : (x.den : ℝ) ≠ 0 := by exact_mod_cast hx
    have denY : (y.den : ℝ) ≠ 0 := by exact_mod_cast hy
    rw [Gain.toReal_blend, Gain.toReal_eq, Gain.toReal_eq, Nat.cast_sub hk]
    field_simp
    ring

theorem Factor.wf_atStep {x y : Gain} (hx : x.wf) (hy : y.wf) {k L : ℕ} (hL : 0 < L) : (Factor.atStep x y k L).wf := by
  obtain ⟨denX, powersX⟩ := hx
  unfold Factor.atStep
  split
  · exact hy
  · obtain ⟨denY, powersY⟩ := hy
    exact Gain.wf_normal (Nat.mul_ne_zero (Nat.mul_ne_zero denX denY) hL.ne')
      (PowersBelow.foldl (PowersBelow.map powersY (· * x.den * k))
        (PowersBelow.foldl (PowersBelow.map powersX (· * y.den * (L - k))) nofun))

/-! ## The values of the law (R71) -/

theorem Gain.toReal_zero : Gain.zero.toReal = 0 := by simp [Gain.toReal_eq, Gain.zero]

theorem Gain.toReal_one : Gain.one.toReal = 1 := by simp [Gain.toReal_eq, Gain.one]

theorem Gain.wf_zero : Gain.zero.wf := ⟨one_ne_zero, nofun⟩

theorem Gain.wf_one : Gain.one.wf := ⟨one_ne_zero, by simp [Gain.one]⟩

theorem Gain.ofLevel_of_pos {v : Value} (h : 0 < v.toNat) :
    Gain.ofLevel v = Gain.normal (10 ^ 6) [((v.toNat + 33) % 160, 10 ^ ((v.toNat + 33) / 160))] := if_neg h.ne'

/-- R71: the exponent v − 927 counts from the power −960 of the root. -/
theorem Gain.toReal_ofLevel {v : Value} (h : 0 < v.toNat) :
    (Gain.ofLevel v).toReal = (10 : ℝ) ^ (((v.toNat : ℝ) - 927) / 160) := by
  have power : (10 : ℝ) ^ ((v.toNat + 33) / 160) * root10 ^ ((v.toNat + 33) % 160) = root10 ^ (v.toNat + 33) := by
    rw [← root10_pow_160, ← pow_mul, ← pow_add, Nat.div_add_mod]
  have million : (1000000 : ℝ) = root10 ^ 960 := by
    rw [show 960 = 160 * 6 from rfl, pow_mul, root10_pow_160]
    norm_num
  rw [Gain.ofLevel_of_pos h, Gain.toReal_normal, sumAt_cons, sumAt_nil, add_zero]
  push_cast
  rw [power, million, root10_pow, root10_pow, ← Real.rpow_sub (by norm_num)]
  congr 1
  push_cast
  ring

theorem Gain.wf_ofLevel (v : Value) : (Gain.ofLevel v).wf := by
  rcases Nat.eq_zero_or_pos v.toNat with none | pos
  · have zero : Gain.ofLevel v = Gain.zero := if_pos none
    exact zero ▸ Gain.wf_zero
  · rw [Gain.ofLevel_of_pos pos]
    exact Gain.wf_normal (by norm_num) (by simpa [PowersBelow] using Nat.mod_lt _ (by norm_num))

theorem Gain.wf_ofMute (v : Value) : (Gain.ofMute v).wf := by
  unfold Gain.ofMute
  split
  · exact Gain.wf_one
  · exact Gain.wf_zero

theorem Gain.wf_ratio {n d : ℕ} (h : 0 < d) : (Gain.ratio n d).wf := by
  refine Gain.wf_normal h.ne' ?_
  split
  · exact nofun
  · simp [PowersBelow]

/-! ## Rounding (R72) -/

theorem Gain.round_of_nonneg {x : Int} (h : 0 ≤ x) (g : Gain) : Gain.round x g = Gain.roundNat x.toNat g := if_pos h

/-- R72: rounding is alike for both signs. -/
theorem Gain.round_neg (x : Int) (g : Gain) : Gain.round (-x) g = -Gain.round x g := by
  unfold Gain.round
  rcases lt_trichotomy x 0 with neg | rfl | pos
  · rw [if_pos (by omega), if_neg (by omega), neg_neg]
  · simp
  · rw [if_neg (by omega), if_pos (by omega), neg_neg]

/-- R72: a factor of 1 gives back the sample. -/
theorem Gain.round_one (x : Int) : Gain.round x Gain.one = x := by
  have nat : ∀ m : ℕ, Gain.roundNat m Gain.one = m := fun m => by
    show (2 * m * 1 + 1) / (2 * 1) = m
    omega
  unfold Gain.round
  rw [nat, nat]
  simp only [Int.ofNat_eq_natCast]
  split <;> omega

theorem Gain.round_zero_gain (x : Int) : Gain.round x Gain.zero = 0 := by
  have nat : ∀ m : ℕ, Gain.roundNat m Gain.zero = 0 := fun _ => rfl
  unfold Gain.round
  rw [nat, nat]
  split <;> rfl

/-- R72: a product with a rational factor, halves upward. -/
theorem Gain.roundNat_ratio (m n : ℕ) {d : ℕ} (h : 0 < d) : Gain.roundNat m (Gain.ratio n d) = (2 * m * n + d) / (2 * d) := by
  rcases Nat.eq_zero_or_pos n with rfl | pos
  · rw [Nat.mul_zero, Nat.zero_add, Nat.div_eq_of_lt (by omega)]
    rfl
  · have canonical : Gain.ratio n d = { den := d / Nat.gcd d n, terms := [(0, n / Nat.gcd d n)] } := by
      unfold Gain.ratio
      rw [if_neg pos.ne']
      rfl
    have common : 0 < Nat.gcd d n := Nat.gcd_pos_of_pos_left n h
    rw [canonical]
    show (2 * m * (n / Nat.gcd d n) + d / Nat.gcd d n) / (2 * (d / Nat.gcd d n)) = _
    obtain ⟨d', hd⟩ := Nat.gcd_dvd_left d n
    obtain ⟨n', hn⟩ := Nat.gcd_dvd_right d n
    generalize Nat.gcd d n = g at common hd hn ⊢
    subst hd hn
    rw [Nat.mul_div_cancel_left _ common, Nat.mul_div_cancel_left _ common, ← Nat.mul_div_mul_left _ _ common]
    congr 1 <;> ring

theorem Gain.round_ratio {x : Int} {n d : ℕ} (hx : 0 ≤ x) (hd : 0 < d) :
    Gain.round x (Gain.ratio n d) = (2 * x * n + d) / (2 * d) := by
  rw [Gain.round_of_nonneg hx, Gain.roundNat_ratio _ _ hd]
  push_cast
  rw [Int.toNat_of_nonneg hx]

/-- R72: a product is rounded to the nearest integer, for every factor the model can hold. -/
theorem Gain.round_eq_floor {x : Int} {g : Gain} (hx : 0 ≤ x) (hg : g.wf) :
    Gain.round x g = ⌊(x : ℝ) * g.toReal + 1 / 2⌋ := by
  have whole : ((x.toNat : ℕ) : ℝ) = x := by exact_mod_cast Int.toNat_of_nonneg hx
  rw [Gain.round_of_nonneg hx, Gain.roundNat_eq_floor _ _ hg, whole]

end Sys2Proof.Machine

open Sys2Proof Sys2Proof.Machine

/-- Settles O47: each value of the law, products, steps and rounding by the number the factor stands for. -/
theorem gainLaw : Obligations.GainLaw :=
  ⟨rfl, rfl, rfl, rfl, Gain.toReal_zero, Gain.toReal_one, fun _ => Gain.toReal_ofLevel, Gain.toReal_mul,
    fun _ _ _ _ => Factor.toReal_atStep, Gain.round_one, Gain.round_zero_gain, Gain.round_neg,
    fun _ _ _ => Gain.round_ratio, fun _ _ => Gain.round_eq_floor, fun v => ⟨Gain.wf_ofLevel v, Gain.wf_ofMute v⟩,
    fun _ _ => Gain.wf_ratio, fun _ _ hx hy => ⟨Gain.wf_mul hx hy, fun _ _ => Factor.wf_atStep hx hy⟩⟩
end

section
/-!
The contribution histories (R30): no operation of a sample event reaches them before its send outputs are formed.
-/

set_option Elab.async false

namespace Sys2Proof.Machine

/-- The contribution histories of every strip, of send 1 and of send 2. -/
def StripBlock.histories (b : StripBlock) : Vector (List Lane × List Lane) 32 := b.strips.map fun x => (x.hist1, x.hist2)

/-- The histories read strip by strip. -/
theorem Desk.histories_eq_iff {d d' : Desk} : d'.strip.histories = d.strip.histories ↔
    ∀ n, (d'.stripOf n).hist1 = (d.stripOf n).hist1 ∧ (d'.stripOf n).hist2 = (d.stripOf n).hist2 := by
  have entry : ∀ (d : Desk) (n : Fin 32), d.strip.histories[n] = ((d.stripOf n).hist1, (d.stripOf n).hist2) := fun d n => by
    simp [StripBlock.histories, Desk.stripOf]
  refine ⟨fun h n => Prod.mk.inj ?_, fun h => Vector.ext fun i below => ?_⟩
  · rw [← entry d' n, ← entry d n, h]
  · obtain ⟨first, second⟩ := h ⟨i, below⟩
    exact (entry d' ⟨i, below⟩).trans ((Prod.ext first second).trans (entry d ⟨i, below⟩).symm)

namespace Desk

/-- AUTO leaves the histories alone. -/
theorem AutoFrame.histories {d d' : Desk} (h : AutoFrame d d') : d'.strip.histories = d.strip.histories := by
  refine Desk.histories_eq_iff.mpr fun n => ?_
  obtain ⟨_, _, _, _, _, _, _, first, second⟩ := h.strips n
  exact ⟨first, second⟩

/-- Histories that every single action keeps, a run through a list keeps. -/
@[simp] theorem histories_each {α : Type} (l : List α) (f : α → Desk → Desk)
    (h : ∀ a d, (f a d).strip.histories = d.strip.histories) (d : Desk) :
    (d.each l f).strip.histories = d.strip.histories :=
  each_keeps (P := fun d' => d'.strip.histories = d.strip.histories) (fun a d' k => (h a d').trans k) l rfl

/-! ## AUTO (R118 to R138) -/

@[simp] theorem histories_touchControl (e : Env) (c : Fin 176) (d : Desk) :
    (d.touchControl e c).strip.histories = d.strip.histories := (frame_touchControl e c d).histories

@[simp] theorem histories_releaseControl (e : Env) (lost : Bool) (c : Fin 176) (d : Desk) :
    (d.releaseControl e lost c).strip.histories = d.strip.histories := (frame_releaseControl e lost c d).histories

@[simp] theorem histories_setSurface (e : Env) (c : Fin 176) (v : Value) (d : Desk) :
    (d.setSurface e c v).strip.histories = d.strip.histories := (frame_setSurface e c v d).histories

@[simp] theorem histories_takeEvent (e : Env) (v : PosEvent) (d : Desk) :
    (d.takeEvent e v).strip.histories = d.strip.histories := (frame_takeEvent e v d).histories

@[simp] theorem histories_takeTick (e : Env) (t : MadeTick) (d : Desk) :
    (d.takeTick e t).strip.histories = d.strip.histories := (frame_takeTick e t d).histories

/-! ## STRIP (R77 to R80) -/

@[simp] theorem histories_regate (e : Env) (d : Desk) : (d.regate e).strip.histories = d.strip.histories :=
  histories_eq_iff.mpr fun n => by
    rw [stripOf_regate]
    exact ⟨rfl, rfl⟩

@[simp] theorem histories_setZones (x : Nat) (bits : SoloBits) (d : Desk) :
    (d.setZones x bits).strip.histories = d.strip.histories := rfl

@[simp] theorem histories_stationGone (e : Env) (x : Nat) (d : Desk) :
    (d.stationGone e x).strip.histories = d.strip.histories := by simp [stationGone]

@[simp] theorem histories_stationSolo (e : Env) (x : Nat) (bits : SoloBits) (d : Desk) :
    (d.stationSolo e x bits).strip.histories = d.strip.histories := by
  unfold stationSolo
  split
  · rfl
  · simp

/-! ## HOME (R99 to R105) -/

@[simp] theorem histories_touchBoth (e : Env) (b : Fin 24) (d : Desk) :
    (d.touchBoth e b).strip.histories = d.strip.histories := by simp [touchBoth]

@[simp] theorem histories_releaseBoth (e : Env) (lost : Bool) (b : Fin 24) (d : Desk) :
    (d.releaseBoth e lost b).strip.histories = d.strip.histories := by simp [releaseBoth]

@[simp] theorem histories_setBusSurface (e : Env) (b : Fin 24) (v w : Value) (d : Desk) :
    (d.setBusSurface e b v w).strip.histories = d.strip.histories := by simp [setBusSurface]

@[simp] theorem strip_setDriver (b : Fin 24) (x : Option Nat) (d : Desk) : (d.setDriver b x).strip = d.strip := rfl

@[simp] theorem histories_homeClaim (e : Env) (b : Fin 24) (x : Nat) (d : Desk) :
    (d.homeClaim e b x).1.strip.histories = d.strip.histories := by
  unfold homeClaim
  split
  · simp
  · split <;> rfl

@[simp] theorem histories_homeDrive (e : Env) (b : Fin 24) (x : Nat) (v : Value) (m : Bool) (d : Desk) :
    (d.homeDrive e b x v m).1.strip.histories = d.strip.histories := by
  unfold homeDrive
  split
  · simp
  · rfl

@[simp] theorem histories_homeRelease (e : Env) (b : Fin 24) (x : Nat) (d : Desk) :
    (d.homeRelease e b x).1.strip.histories = d.strip.histories := by
  unfold homeRelease
  split
  · simp
  · rfl

@[simp] theorem histories_localClaim (e : Env) (b : Fin 24) (d : Desk) :
    (d.localClaim e b).strip.histories = d.strip.histories := by
  unfold localClaim
  split
  · simp
  · split <;> rfl

@[simp] theorem histories_localRelease (e : Env) (b : Fin 24) (d : Desk) :
    (d.localRelease e b).strip.histories = d.strip.histories := by
  unfold localRelease
  split
  · simp
  · rfl

@[simp] theorem histories_loseDriver (e : Env) (b : Fin 24) (d : Desk) :
    (d.loseDriver e b).strip.histories = d.strip.histories := by simp [loseDriver]

@[simp] theorem histories_leaseStep (e : Env) (b : Fin 24) (d : Desk) :
    (d.leaseStep e b).strip.histories = d.strip.histories := by
  unfold leaseStep
  dsimp only
  split
  · rfl
  split
  · rfl
  split
  · simp
  · rfl

@[simp] theorem histories_driverGone (e : Env) (x : Nat) (b : Fin 24) (d : Desk) :
    (d.driverGone e x b).strip.histories = d.strip.histories := by
  unfold driverGone
  split
  · simp
  · rfl

/-! ## The requester keeps clear of STRIP (R106 to R111) -/

@[simp] theorem strip_reqTouch (b : Fin 24) (d : Desk) : (d.reqTouch b).strip = d.strip := by
  unfold reqTouch
  dsimp only
  repeat' split
  all_goals rfl

@[simp] theorem strip_reqRelease (b : Fin 24) (d : Desk) : (d.reqRelease b).strip = d.strip := by
  unfold reqRelease
  dsimp only
  repeat' split
  all_goals rfl

@[simp] theorem strip_claimReturn (b : Fin 24) (m : Mark) (d : Desk) : (d.claimReturn b m).strip = d.strip := by
  unfold claimReturn
  dsimp only
  split <;> rfl

@[simp] theorem strip_releaseReturn (b : Fin 24) (d : Desk) : (d.releaseReturn b).strip = d.strip := by
  unfold releaseReturn
  dsimp only
  repeat' split
  all_goals rfl

@[simp] theorem strip_driveReturn (b : Fin 24) (m : Mark) (d : Desk) : (d.driveReturn b m).strip = d.strip := by
  unfold driveReturn
  split <;> rfl

@[simp] theorem strip_drivePlaced (b : Fin 24) (d : Desk) : (d.drivePlaced b).strip = d.strip := by
  unfold drivePlaced
  dsimp only
  split <;> rfl

@[simp] theorem strip_keepaliveStep (b : Fin 24) (d : Desk) : (d.keepaliveStep b).strip = d.strip := by
  unfold keepaliveStep
  dsimp only
  repeat' split
  all_goals rfl

@[simp] theorem strip_reqEcho (b : Fin 24) (v : Value) (m : Bool) (d : Desk) : (d.reqEcho b v m).strip = d.strip := by
  unfold reqEcho
  dsimp only
  split <;> rfl

@[simp] theorem strip_homeGone (e : Env) (x : Nat) (b : Fin 24) (d : Desk) : (d.homeGone e x b).strip = d.strip := by
  unfold homeGone
  split <;> rfl

/-! ## NOTE (R44 to R58) -/

@[simp] theorem histories_handRemoved (e : Env) (x : Nat) (d : Desk) :
    (d.handRemoved e x).strip.histories = d.strip.histories := by simp [handRemoved]

@[simp] theorem histories_queueHoldings (e : Env) (d : Desk) :
    (d.queueHoldings e).strip.histories = d.strip.histories := histories_each e.homedBuses queueEcho (fun _ _ => rfl) _

@[simp] theorem histories_timerStep (e : Env) (d : Desk) : (d.timerStep e).strip.histories = d.strip.histories := by
  unfold timerStep
  split
  · simp
  · rfl

@[simp] theorem histories_ageOf (e : Env) (x : Fin 24) (d : Desk) : (d.ageOf e x).strip.histories = d.strip.histories := by
  unfold ageOf
  dsimp only
  split
  · simp
  · rfl

@[simp] theorem strip_tellPlaced (x : Slot) (d : Desk) : (d.tellPlaced x).strip = d.strip := by
  unfold tellPlaced
  split
  · simp
  · rfl

@[simp] theorem strip_closeFlight (x : Slot) (k : NoticeKind) (m : Mark) (d : Desk) :
    (d.closeFlight x k m).strip = d.strip := by
  unfold closeFlight handMark
  split <;> simp

@[simp] theorem histories_answer (e : Env) (b : Fin 24) (n : Notice) (d : Desk) :
    (d.answer e b n).1.strip.histories = d.strip.histories := by
  unfold answer
  split <;> simp

/-! ## TOUCH (R82 to R86) -/

@[simp] theorem histories_deliverTouch (e : Env) (k : TouchTarget) (d : Desk) :
    (d.deliverTouch e k).strip.histories = d.strip.histories := by
  unfold deliverTouch
  split
  · simp
  split
  · simp
  · split <;> simp

@[simp] theorem histories_deliverRelease (e : Env) (k : TouchTarget) (d : Desk) :
    (d.deliverRelease e k).strip.histories = d.strip.histories := by
  unfold deliverRelease
  split
  · simp
  split
  · simp
  · split <;> simp

@[simp] theorem histories_changeTarget (e : Env) (k : TouchTarget) (f : TargetState → TargetState) (d : Desk) :
    (d.changeTarget e k f).strip.histories = d.strip.histories := by
  unfold changeTarget
  dsimp only
  split <;> simp

@[simp] theorem histories_holdTarget (e : Env) (k : Option TouchTarget) (d : Desk) :
    (d.holdTarget e k).strip.histories = d.strip.histories := by
  unfold holdTarget
  split <;> simp

@[simp] theorem histories_dropTarget (e : Env) (k : Option TouchTarget) (d : Desk) :
    (d.dropTarget e k).strip.histories = d.strip.histories := by
  unfold dropTarget
  split <;> simp

@[simp] theorem histories_lineEdge (e : Env) (f : Fin 32) (x : LineEdge) (d : Desk) :
    (d.lineEdge e f x).strip.histories = d.strip.histories := by
  unfold lineEdge
  dsimp only
  split <;> simp

@[simp] theorem histories_lineStep (e : Env) (high : Bool) (f : Fin 32) (d : Desk) :
    (d.lineStep e high f).strip.histories = d.strip.histories := by
  unfold lineStep
  dsimp only
  split <;> simp

@[simp] theorem histories_touchPhase (e : Env) (levels : BitVec 32) (d : Desk) :
    (d.touchPhase e levels).strip.histories = d.strip.histories := by simp [touchPhase]

end Desk

namespace State

/-! ## The cells of an arrival (R44 to R48) -/

@[simp] theorem histories_applyRoster (now : StationSet) (s : State) :
    (s.applyRoster now).desk.strip.histories = s.desk.strip.histories := by
  unfold applyRoster
  dsimp only
  split
  · rfl
  · simp

@[simp] theorem strip_place (s : State) : s.place.1.desk.strip = s.desk.strip := by
  unfold place
  split
  · rfl
  · simp

@[simp] theorem strip_strip (n : Notice) (s : State) : (s.strip n).desk.strip = s.desk.strip := by
  unfold State.strip
  split
  · split
    · split
      · simp
      · rfl
    · rfl
  · rfl

@[simp] theorem strip_mismatch (s : State) : s.mismatch.desk.strip = s.desk.strip := by
  rw [desk_mismatch]
  rfl

@[simp] theorem histories_actHoldings (n : Notice) (s : State) :
    (s.actHoldings n).desk.strip.histories = s.desk.strip.histories := by
  unfold actHoldings
  dsimp only
  split <;> simp

@[simp] theorem histories_actAnswered (n : Notice) (s : State) :
    (s.actAnswered n).1.desk.strip.histories = s.desk.strip.histories := by
  unfold actAnswered
  split
  · split
    · simp
    · rfl
  · rfl

@[simp] theorem strip_actEcho (n : Notice) (s : State) : (s.actEcho n).desk.strip = s.desk.strip := by
  unfold actEcho
  split
  · split
    · simp
    · rfl
  · rfl

@[simp] theorem histories_actSolo (n : Notice) (s : State) :
    (s.actSolo n).desk.strip.histories = s.desk.strip.histories := by
  unfold actSolo
  split
  · simp
  · rfl

@[simp] theorem histories_actRoster (n : Notice) (s : State) :
    (s.actRoster n).desk.strip.histories = s.desk.strip.histories := by
  unfold actRoster
  dsimp only
  split
  · simp
  · rfl

@[simp] theorem histories_act (n : Notice) (s : State) : (s.act n).1.desk.strip.histories = s.desk.strip.histories := by
  unfold act
  split
  · split <;> simp
  · rfl

@[simp] theorem histories_workCell (c : BitVec 64) (s : State) :
    (s.workCell c).1.desk.strip.histories = s.desk.strip.histories := by
  unfold workCell
  split
  · simp
  · dsimp only
    split <;> simp
  · split <;> simp

@[simp] theorem histories_workCells (cells : Vector (BitVec 64) 4) (s : State) :
    (s.workCells cells).1.desk.strip.histories = s.desk.strip.histories := by simp [workCells]

/-! ## RING (R32 to R38) -/

@[simp] theorem histories_emitterCheck (e : Nat) (s : State) :
    (s.emitterCheck e).desk.strip.histories = s.desk.strip.histories := by
  unfold emitterCheck
  split
  · rfl
  · simp

@[simp] theorem histories_goodArrival (b : Bool) (f : WireFrame) (s : State) :
    (s.goodArrival b f).state.desk.strip.histories = s.desk.strip.histories := by
  unfold goodArrival
  dsimp only
  split <;> simp

@[simp] theorem strip_countBad (s : State) : s.countBad.desk.strip = s.desk.strip := by
  unfold countBad
  dsimp only
  split <;> rfl

@[simp] theorem strip_endSilence (s : State) : s.endSilence.desk.strip = s.desk.strip := by
  unfold endSilence
  dsimp only
  split <;> rfl

@[simp] theorem strip_countSilent (s : State) : s.countSilent.desk.strip = s.desk.strip := by
  unfold countSilent
  dsimp only
  split <;> rfl

@[simp] theorem histories_arrive (b : Bool) (f : WireFrame) (s : State) :
    (s.arrive b f).state.desk.strip.histories = s.desk.strip.histories := by
  unfold arrive
  dsimp only
  split
  · simp
  · simp [badArrival, placeCells]

@[simp] theorem histories_silence (s : State) : s.silence.state.desk.strip.histories = s.desk.strip.histories := by
  simp [silence, placeCells]

@[simp] theorem histories_insert (p : StationSet) (r : JoinResult) (s : State) :
    (s.insert p r).desk.strip.histories = s.desk.strip.histories := by simp [State.insert]

@[simp] theorem strip_tapGood (f : WireFrame) (s : State) : (s.tapGood f).desk.strip = s.desk.strip := by
  unfold tapGood
  dsimp only
  split
  · rfl
  split
  · unfold listen
    dsimp only
    split <;> rfl
  · rfl

@[simp] theorem strip_tapOther (s : State) : s.tapOther.desk.strip = s.desk.strip := by
  unfold tapOther
  split <;> rfl

@[simp] theorem strip_tap (f : WireFrame) (s : State) : (s.tap f).desk.strip = s.desk.strip := by
  unfold tap
  dsimp only
  split <;> simp

@[simp] theorem histories_listenStep (b : Bool) (s : State) :
    (s.listenStep b).desk.strip.histories = s.desk.strip.histories := by
  unfold listenStep
  dsimp only
  split
  · split <;> simp
  · rfl

@[simp] theorem histories_firstInStep (s : State) : s.firstInStep.desk.strip.histories = s.desk.strip.histories := by
  unfold firstInStep
  split
  · simp
  · rfl

@[simp] theorem histories_lockingStep (rx : Option WireFrame) (s : State) :
    (s.lockingStep rx).desk.strip.histories = s.desk.strip.histories := by
  unfold lockingStep
  dsimp only
  split <;> simp

@[simp] theorem histories_ringPhase (b : Bool) (rx : Option WireFrame) (s : State) :
    (s.ringPhase b rx).state.desk.strip.histories = s.desk.strip.histories := by
  unfold ringPhase
  dsimp only
  split
  · rfl
  · simp
  all_goals split <;> simp

/-! ## The counts, POS and the phases of a sample event -/

@[simp] theorem strip_expireFlight (x : Slot) (s : State) : (s.expireFlight x).desk.strip = s.desk.strip := by
  unfold expireFlight
  split
  · split
    · simp
    · rfl
  · rfl

@[simp] theorem strip_expireFlights (s : State) : s.expireFlights.desk.strip = s.desk.strip := by
  have run : ∀ (l : List Slot) (s : State), (l.foldl (fun s x => s.expireFlight x) s).desk.strip = s.desk.strip := by
    intro l
    induction l with
    | nil => exact fun _ => rfl
    | cons x l ih => exact fun s => (ih _).trans (strip_expireFlight x s)
  exact run _ s

@[simp] theorem histories_countStep (s : State) : s.countStep.desk.strip.histories = s.desk.strip.histories := by
  unfold countStep
  dsimp only
  split <;> simp

@[simp] theorem histories_timers (s : State) : s.timers.desk.strip.histories = s.desk.strip.histories :=
  histories_countStep _

@[simp] theorem histories_takePosEvent (v : PosEvent) (s : State) :
    (s.takePosEvent v).desk.strip.histories = s.desk.strip.histories := by
  rw [desk_takePosEvent]
  simp

@[simp] theorem histories_takeTick (t : MadeTick) (s : State) :
    (s.takeTick t).desk.strip.histories = s.desk.strip.histories := by
  unfold takeTick
  dsimp only
  split <;> simp

@[simp] theorem histories_posPhase (edge : Option FrameNo) (s : State) :
    (s.posPhase edge).desk.strip.histories = s.desk.strip.histories := by
  have run : ∀ (l : List PosEvent) (s : State),
      (l.foldl (fun (s : State) v => s.takePosEvent v) s).desk.strip.histories = s.desk.strip.histories := by
    intro l
    induction l with
    | nil => exact fun _ => rfl
    | cons v l ih => exact fun s => (ih _).trans (histories_takePosEvent v s)
  rcases made : (s.posOut edge).made with _ | k
  · rw [posPhase_of_no_tick made, run]
  · rw [posPhase_of_tick made, histories_takeTick, run]

theorem histories_phases (p : Period) (t : Taken) :
    (t.phases p).state.desk.strip.histories = t.state.desk.strip.histories := by
  unfold Taken.phases
  split <;> simp [Taken.pos, Taken.ring, Taken.touch]

end State

end Sys2Proof.Machine
end

section
/-!
The send outputs of a sample event (R65 to R67, R72, R30): what reaches the homes, the source sample of a strip, and the entry
that the histories take.
-/

set_option Elab.async false

namespace Sys2Proof.Machine

/-! ## What reaches the homes (R20, R28) -/

/-- RING takes the sample event on a state that the counts, POS and TOUCH left of the ring. -/
theorem Taken.arriving_phases (p : Period) (t : Taken) :
    ∃ u, t.state.BesideRing u ∧ (t.phases p).arriving = (u.ringPhase p.checkFirst p.rx).arriving := by
  have pos : ∀ t : Taken, t.state.BesideRing (t.pos p).state := fun t => .posPhase _ t.state
  have touch : ∀ t : Taken, t.state.BesideRing (t.touch p).state := fun t => .touchPhase p.levels t.state
  unfold Taken.phases
  split
  · exact ⟨(t.pos p).state, pos t, rfl⟩
  · exact ⟨((t.pos p).touch p).state, (pos t).andThen (touch (t.pos p)), rfl⟩
  · exact ⟨t.state, .same _, rfl⟩
  · exact ⟨t.state, .same _, rfl⟩
  · exact ⟨((t.touch p).pos p).state, (touch t).andThen (pos (t.touch p)), rfl⟩
  · exact ⟨(t.touch p).state, touch t, rfl⟩

theorem State.arriving_of_off_ring {s : State} (off : s.ring.state.onRing = false) (b : Bool) (rx : Option WireFrame) :
    (s.ringPhase b rx).arriving = none := by
  unfold State.ringPhase
  rcases h : s.ring.state with _ | _ | _ | _ | _
  case detached | locking => rfl
  all_goals
    rw [h] at off
    cases off

/-- The lanes that reach the homes in the period: those of a good frame, and none at a bad one, without one and off the ring. -/
structure State.Reaches (p : Period) (s : State) (l : Option (Vector Lane 128)) : Prop where
  good : ∀ f, p.rx = some f → s.ring.state.onRing = true → (s.heard f).good f = true → l = some f.lanes
  none : s.ring.state.onRing = false ∨ p.rx = none ∨ (∃ f, p.rx = some f ∧ (s.heard f).good f = false) → l = none

/-- What the phases of a sample event start from. -/
def Taken.start (s : State) : Taken := { state := s.timers, cells := Vector.replicate 4 0, arriving := none }

@[simp] theorem Taken.state_start (s : State) : (Taken.start s).state = s.timers := rfl

theorem State.sample_eq (p : Period) (s : State) : s.sample p =
    (((Taken.start s).phases p).state.audio p.samples ((Taken.start s).phases p).arriving).emit s.ring
      ((Taken.start s).phases p).cells ((Taken.start s).phases p).arriving := rfl

theorem State.reaches_phases (p : Period) (s : State) : s.Reaches p ((Taken.start s).phases p).arriving := by
  obtain ⟨u, before, phase⟩ := (Taken.start s).arriving_phases p
  rw [phase]
  rw [Taken.state_start] at before
  have ring : u.ring = { s.ring with settle := s.ring.settle - 1 } := before.ring.trans s.timers_counts.1
  have judged : ∀ f, (u.heard f).good f = (s.heard f).good f :=
    State.good_heard_congr (State.self_of_outside (s.outside_timers.andThen before.outside)) _ ring
  have state : u.ring.state = s.ring.state := by rw [ring]
  refine ⟨fun f rx on good => ?_, fun silent => ?_⟩
  · rw [rx]
    exact State.arriving_of_good _ (state ▸ on) ((judged f).trans good)
  · rcases on : s.ring.state.onRing with _ | _
    · exact State.arriving_of_off_ring (state ▸ on) _ _
    · rcases silent with off | rx | ⟨f, rx, bad⟩
      · rw [on] at off
        cases off
      · obtain ⟨arriving, _⟩ := State.ringPhase_of_silent p.checkFirst (s := u) (state ▸ on)
        rw [rx]
        exact arriving
      · obtain ⟨arriving, _⟩ := State.ringPhase_of_bad p.checkFirst (s := u) (state ▸ on) ((judged f).trans bad)
        rw [rx]
        exact arriving

/-! ## The source sample (R65 to R67) -/

section
variable {e : Env} {g : Gain} {l : Option (Vector Lane 128)} {x : Vector Sample 32} {n : Fin 32} {d : Desk}

theorem Desk.sourceSample_of_none (h : (d.stripOf n).source = .none) : d.sourceSample e g l x n = 0 := by
  unfold Desk.sourceSample
  rw [h]

theorem Desk.sourceSample_of_input (h : (d.stripOf n).source = .input) : d.sourceSample e g l x n = x[n].toInt := by
  unfold Desk.sourceSample
  rw [h]

/-- R66: a RETURN is zero where nothing reaches the homes. -/
theorem Desk.sourceSample_of_silence {b : Fin 24} {k : Nat} (h : (d.stripOf n).source = .ret b k) :
    d.sourceSample e g none x n = 0 := by
  unfold Desk.sourceSample
  rw [h]
  dsimp only
  split
  · exact Desk.laneOutput_none e g _ d
  · rfl

/-- R66: a RETURN is the home's output of its lane. -/
theorem Desk.sourceSample_of_return {b : Fin 24} {k : Nat} {y : Bus} {i : Fin 128} {lanes : Vector Lane 128}
    (h : (d.stripOf n).source = .ret b k) (home : y.home = e.self) (lane : y.first + k = i.val)
    (bus : e.busOfLane? i.val = some (b, y)) : d.sourceSample e g (some lanes) x n = d.homeOutput g b lanes[i].toInt := by
  have homes : e.homesBus b = true := by
    rw [Env.homesBus_of_lane bus, home]
    exact beq_self_eq_true _
  unfold Desk.sourceSample
  rw [h]
  dsimp only
  rw [Env.bus?_of_lane bus]
  dsimp only
  rw [lane]
  simp [Desk.laneOutput, lapOf, bus, homes]

/-- Forming the send outputs leaves sources and homes alone. -/
theorem Desk.sourceSample_formOutputs (e' : Env) (g' : Gain) (l' : Option (Vector Lane 128)) (x' : Vector Sample 32) :
    (d.formOutputs e' g' l' x').sourceSample e g l x n = d.sourceSample e g l x n := by
  have source : ((d.formOutputs e' g' l' x').stripOf n).source = (d.stripOf n).source := by
    rw [Desk.stripOf_formOutputs]
    rfl
  have output : ∀ i, (d.formOutputs e' g' l' x').laneOutput e g l i = d.laneOutput e g l i := fun i => by
    unfold Desk.laneOutput Desk.homeOutput
    simp only [Desk.homeOf_formOutputs]
  unfold Desk.sourceSample
  simp only [source, output]

end

/-! ## The entry of the histories (R72, R30) -/

/-- R72, R30: the newest entry of each history of the strip is its source sample times its five factors, rounded once, and the
47 newest of before stand behind it. -/
def Strip.Sent (before : Strip) (x : Int) (now : Strip) : Prop :=
  now.hist1 = BitVec.ofInt 32 (Gain.round x
    (((now.level.value.mul now.mute.value).mul now.fsend1.value).mul now.gate1.value)) :: before.hist1.take 47 ∧
  now.hist2 = BitVec.ofInt 32 (Gain.round x
    (((now.level.value.mul now.mute.value).mul now.fsend2.value).mul now.gate2.value)) :: before.hist2.take 47

theorem Strip.sent_form {before x : Strip} (hist1 : x.hist1 = before.hist1) (hist2 : x.hist2 = before.hist2) (source : Int) :
    before.Sent source (x.form source) := by
  unfold Strip.Sent
  rw [← hist1, ← hist2]
  exact ⟨rfl, rfl⟩

/-- R72: the audio of a sample event forms every send output from the source samples of the instant. -/
theorem State.sent_audio (x : Vector Sample 32) (l : Option (Vector Lane 128)) (n : Fin 32) (s : State) :
    (s.desk.stripOf n).Sent ((s.audio x l).desk.sourceSample s.env (settleGain s.rate96 (s.audio x l).desk.home.rise) l x n)
      ((s.audio x l).desk.stripOf n) := by
  obtain ⟨_, home⟩ := Desk.stemStream_formOutputs s.env s.env (settleGain s.rate96 s.desk.home.rise)
    (settleGain s.rate96 s.desk.home.rise) l l x (s.desk.advanceAll (rampLength s.env))
  have rise : (s.audio x l).desk.home.rise = s.desk.home.rise :=
    (congrArg HomeBlock.rise home).trans rfl
  have desk : (s.audio x l).desk = (s.desk.advanceAll (rampLength s.env)).formOutputs s.env
      (settleGain s.rate96 s.desk.home.rise) l x := rfl
  rw [rise, desk, Desk.sourceSample_formOutputs, Desk.stripOf_formOutputs, Desk.stripOf_advanceAll]
  exact Strip.sent_form rfl rfl _

theorem State.env_audio (x : Vector Sample 32) (l : Option (Vector Lane 128)) (s : State) :
    (s.audio x l).env = s.env := by
  simp only [State.audio, State.env, State.self]

theorem State.env_emit (r : Ring) (c : Vector (BitVec 64) 4) (l : Option (Vector Lane 128)) (s : State) :
    (s.emit r c l).env = s.env := by
  unfold State.emit
  split <;> rfl

/-- R30, R72: the histories of a whole sample event, from the source samples as the event leaves factors and homes. -/
theorem State.sent_sample (p : Period) (s : State) : ∃ l, s.Reaches p l ∧ ∀ n, (s.desk.stripOf n).Sent
    ((s.sample p).desk.sourceSample (s.sample p).env (settleGain s.rate96 (s.sample p).desk.home.rise) l p.samples n)
    ((s.sample p).desk.stripOf n) := by
  refine ⟨_, s.reaches_phases p, fun n => ?_⟩
  have kept := State.histories_phases p (Taken.start s)
  have outside := Taken.outside_phases p (Taken.start s)
  rw [Taken.state_start] at outside
  rw [Taken.state_start, State.histories_timers, Desk.histories_eq_iff] at kept
  obtain ⟨first, second⟩ := kept n
  obtain ⟨_, _, _, rate96, _⟩ := s.outside_timers.andThen outside
  rw [State.sample_eq]
  generalize (Taken.start s).phases p = t at first second rate96 ⊢
  have sent := t.state.sent_audio p.samples t.arriving n
  unfold Strip.Sent at sent ⊢
  rw [first, second, rate96] at sent
  rw [State.desk_emit, State.env_emit, State.env_audio]
  exact sent

end Sys2Proof.Machine

open Sys2Proof Sys2Proof.Machine

/-- Settles O25: the histories of the sample event, with the source sample of each kind of source. -/
theorem sampleEventSendOutputs : Obligations.SampleEventSendOutputs := by
  refine ⟨fun s p live => ?_, fun s f p live on good => ?_⟩
  · obtain ⟨run, _⟩ := State.exec_sampled live p
    obtain ⟨l, reaches, sent⟩ := s.sent_sample p
    refine ⟨_, run, fun n x source => ?_⟩
    have sent := sent n
    rcases source with ⟨input, rfl⟩ | ⟨none, rfl⟩ | ⟨⟨b, k, ret⟩, rfl, silent⟩
    · rw [Desk.sourceSample_of_input input] at sent
      exact sent
    · rw [Desk.sourceSample_of_none none] at sent
      exact sent
    · rw [reaches.none silent, Desk.sourceSample_of_silence ret] at sent
      exact sent
  · obtain ⟨_, run, _⟩ := State.exec_sampled live p
    obtain ⟨l, reaches, sent⟩ := s.sent_sample { p with rx := some f }
    obtain ⟨_, _, _, _, conf, _⟩ := s.outside_sample { p with rx := some f }
    have self := State.self_of_outside (s.outside_sample { p with rx := some f })
    refine ⟨_, run f, fun n b k y i x ret _ home lane bus sample => ?_⟩
    have sent := sent n
    rw [reaches.good f rfl on good, Desk.sourceSample_of_return ret (home.trans self.symm) lane
      ((congrFun (Env.busOfLane?_congr conf) i.val).trans bus)] at sent
    rw [sample]
    exact sent
end

section
/-!
What a touch or a release handed to an owner leaves (R84 to R86), whoever the owner is: settings, lines, touch targets and
what a home or a requester keeps of surface values and echoes.
-/

set_option Elab.async false

namespace Sys2Proof.Machine

/-! ## One touch target (R84) -/

@[simp] theorem Touch.target_setTarget (x : TargetState) (k : TouchTarget) (t : Touch) : (t.setTarget x k).target k = x := by
  cases k <;> simp [Touch.target, Touch.setTarget]

namespace Desk

/-- The desk with one touch target written. -/
def setTarget (k : TouchTarget) (x : TargetState) (d : Desk) : Desk := { d with touch := d.touch.setTarget x k }

/-! ## What owners leave -/

/-- What TOUCH's words to the owners leave: settings, lines, the local surface values of homes and
requesters, and the echoes of the latter. -/
structure LocalFrame (d d' : Desk) : Prop where
  settings : SameSettings d d'
  lines    : d'.touch.lines = d.touch.lines
  homes    : ∀ b, (d'.homeOf b).level = (d.homeOf b).level ∧ (d'.homeOf b).muted = (d.homeOf b).muted
  reqs     : ∀ b, (d'.reqOf b).level = (d.reqOf b).level ∧ (d'.reqOf b).muted = (d.reqOf b).muted ∧
    (d'.reqOf b).echo = (d.reqOf b).echo

/-- What an owner leaves: all that, and the touch targets. -/
structure OwnerFrame (d d' : Desk) : Prop extends LocalFrame d d' where
  targets : ∀ k, d'.touch.target k = d.touch.target k

theorem LocalFrame.andThen {a b c : Desk} (h : LocalFrame a b) (k : LocalFrame b c) : LocalFrame a c where
  settings := SameSettings.andThen h.settings k.settings
  lines := k.lines.trans h.lines
  homes j := by
    obtain ⟨level, muted⟩ := h.homes j
    obtain ⟨level', muted'⟩ := k.homes j
    exact ⟨level'.trans level, muted'.trans muted⟩
  reqs j := by
    obtain ⟨level, muted, echo⟩ := h.reqs j
    obtain ⟨level', muted', echo'⟩ := k.reqs j
    exact ⟨level'.trans level, muted'.trans muted, echo'.trans echo⟩

theorem OwnerFrame.andThen {a b c : Desk} (h : OwnerFrame a b) (k : OwnerFrame b c) : OwnerFrame a c :=
  ⟨h.toLocalFrame.andThen k.toLocalFrame, fun j => (k.targets j).trans (h.targets j)⟩

theorem AutoFrame.owner {d d' : Desk} (h : AutoFrame d d') : OwnerFrame d d' where
  settings := h.sameSettings
  lines := h.lines
  homes b := by
    obtain ⟨_, _, level, muted⟩ := h.homes b
    exact ⟨level, muted⟩
  reqs b := by
    unfold Desk.reqOf
    rw [h.reqs]
    exact ⟨rfl, rfl, rfl⟩
  targets k := by
    obtain ⟨controls, buses⟩ := h.targets
    unfold Touch.target
    rw [controls, buses]

theorem OwnerFrame.same (d : Desk) : OwnerFrame d d := (AutoFrame.same d).owner

theorem LocalFrame.same (d : Desk) : LocalFrame d d := (OwnerFrame.same d).toLocalFrame

theorem LocalFrame.lineOf {d d' : Desk} (h : LocalFrame d d') (f : Fin 32) : d'.lineOf f = d.lineOf f :=
  congrArg (·[f]) h.lines

theorem LocalFrame.map {d d' : Desk} (h : LocalFrame d d') : d'.touch.map = d.touch.map := by
  obtain ⟨_, _, map, _⟩ := h.settings
  exact map

theorem LocalFrame.echo {d d' : Desk} (h : LocalFrame d d') (b : Fin 24) : (d'.reqOf b).echo = (d.reqOf b).echo := by
  obtain ⟨_, _, echo⟩ := h.reqs b
  exact echo

/-- R84: a touch target is TOUCH's own. -/
theorem LocalFrame.setTarget (k : TouchTarget) (x : TargetState) (d : Desk) : LocalFrame d (d.setTarget k x) := by
  cases k <;> exact ⟨SameSettings.same d, rfl, fun _ => ⟨rfl, rfl⟩, fun _ => ⟨rfl, rfl, rfl⟩⟩

/-! ## The homes (R99, R103) -/

theorem OwnerFrame.setDriver (b : Fin 24) (x : Option Nat) (d : Desk) : OwnerFrame d (d.setDriver b x) where
  settings := SameSettings.same d
  lines := rfl
  homes j := by
    unfold Desk.setDriver
    rw [homeOf_setHome]
    split
    · next here => subst here; exact ⟨rfl, rfl⟩
    · exact ⟨rfl, rfl⟩
  reqs _ := ⟨rfl, rfl, rfl⟩
  targets _ := rfl

theorem owner_localClaim (e : Env) (b : Fin 24) (d : Desk) : OwnerFrame d (d.localClaim e b) := by
  unfold Desk.localClaim
  split
  · exact ((OwnerFrame.setDriver b _ d).andThen (frame_setBusSurface e b _ _ _).owner).andThen (frame_touchBoth e b _).owner
  · split
    · exact .same d
    · exact (frame_raise _ d).owner

theorem owner_localRelease (e : Env) (b : Fin 24) (d : Desk) : OwnerFrame d (d.localRelease e b) := by
  unfold Desk.localRelease
  split
  · exact (OwnerFrame.setDriver b none d).andThen (frame_releaseBoth e false b _).owner
  · exact .same d

/-! ## The requesters (R106, R107, R110) -/

/-- The requesters' local surface values and echoes are as they were. -/
def SameLocals (d d' : Desk) : Prop :=
  ∀ b, (d'.reqOf b).level = (d.reqOf b).level ∧ (d'.reqOf b).muted = (d.reqOf b).muted ∧
    (d'.reqOf b).echo = (d.reqOf b).echo

theorem SameLocals.setReq {b : Fin 24} {x : Requester} {d d' : Desk} (same : d'.home.reqs = (d.setReq b x).home.reqs)
    (h : x.level = (d.reqOf b).level ∧ x.muted = (d.reqOf b).muted ∧ x.echo = (d.reqOf b).echo) : SameLocals d d' := by
  intro j
  have at_j : d'.reqOf j = (d.setReq b x).reqOf j := congrArg (·[j]) same
  rw [at_j, reqOf_setReq]
  split
  · next here => subst here; exact h
  · exact ⟨rfl, rfl, rfl⟩

/-- A requester's own operation that leaves its local surface values and its echo. -/
theorem OwnerFrame.of_requester {d d' : Desk} (locals : SameLocals d d') (strip : d'.strip = d.strip := by rfl)
    (touch : d'.touch = d.touch := by rfl) (auto : d'.auto = d.auto := by rfl)
    (homes : d'.home.homes = d.home.homes := by rfl) : OwnerFrame d d' where
  settings := by
    refine ⟨fun n => ?_, fun f => ?_, congrArg Touch.map touch, fun c => ?_, congrArg Auto.window auto⟩
    · rw [show d'.stripOf n = d.stripOf n from congrArg (·.strips[n]) strip]
      exact ⟨rfl, rfl, rfl, rfl, rfl⟩
    · rw [show d'.lineOf f = d.lineOf f from congrArg (·.lines[f]) touch]
      exact ⟨rfl, rfl, rfl⟩
    · rw [show d'.control c = d.control c from congrArg (·.controls[c]) auto]
      exact ⟨rfl, rfl, rfl⟩
  lines := congrArg Touch.lines touch
  homes b := by
    rw [show d'.homeOf b = d.homeOf b from congrArg (·[b]) homes]
    exact ⟨rfl, rfl⟩
  reqs := locals
  targets k := congrArg (·.target k) touch

theorem owner_reqTouch (b : Fin 24) (d : Desk) : OwnerFrame d (d.reqTouch b) := by
  unfold Desk.reqTouch
  dsimp only
  repeat' split
  case h_4 | h_5 => exact .same d
  all_goals exact .of_requester (.setReq (b := b) rfl ⟨rfl, rfl, rfl⟩)

theorem owner_reqRelease (b : Fin 24) (d : Desk) : OwnerFrame d (d.reqRelease b) := by
  unfold Desk.reqRelease
  dsimp only
  repeat' split
  case h_3.isFalse | h_4 | h_5 => exact .same d
  all_goals exact .of_requester (.setReq (b := b) rfl ⟨rfl, rfl, rfl⟩)

/-! ## Delivery (R85, R86) -/

theorem owner_deliverTouch (e : Env) (k : TouchTarget) (d : Desk) : OwnerFrame d (d.deliverTouch e k) := by
  unfold Desk.deliverTouch
  split
  · exact (frame_touchControl e _ d).owner
  · split
    · exact owner_localClaim e _ d
    · split
      · exact owner_reqTouch _ d
      · exact .same d

theorem owner_deliverRelease (e : Env) (k : TouchTarget) (d : Desk) : OwnerFrame d (d.deliverRelease e k) := by
  unfold Desk.deliverRelease
  split
  · exact (frame_releaseControl e false _ d).owner
  · split
    · exact owner_localRelease e _ d
    · split
      · exact owner_reqRelease _ d
      · exact .same d

section
variable {e : Env} {k : TouchTarget} {g : TargetState → TargetState} {d : Desk}

/-- R85: a target that stays touched, or untouched, is no owner's affair. -/
theorem changeTarget_of_same (h : (g (d.touch.target k)).touched = (d.touch.target k).touched) :
    d.changeTarget e k g = d.setTarget k (g (d.touch.target k)) := by
  unfold Desk.changeTarget
  dsimp only
  rw [h]
  cases (d.touch.target k).touched <;> rfl

/-- R85: a target untouched before and touched now hands its owner a touch. -/
theorem changeTarget_of_touch (before : (d.touch.target k).touched = false) (now : (g (d.touch.target k)).touched = true) :
    d.changeTarget e k g = (d.setTarget k (g (d.touch.target k))).deliverTouch e k := by
  unfold Desk.changeTarget
  dsimp only
  rw [before, now]
  rfl

/-- R85: a target touched before and untouched now hands its owner a release. -/
theorem changeTarget_of_release (before : (d.touch.target k).touched = true)
    (now : (g (d.touch.target k)).touched = false) :
    d.changeTarget e k g = (d.setTarget k (g (d.touch.target k))).deliverRelease e k := by
  unfold Desk.changeTarget
  dsimp only
  rw [before, now]
  rfl

variable (e k g d)

/-- R85: what a change of a target can come to. -/
theorem changeTarget_cases : ∃ x, d.changeTarget e k g = d.setTarget k x ∨
    d.changeTarget e k g = (d.setTarget k x).deliverTouch e k ∨
    d.changeTarget e k g = (d.setTarget k x).deliverRelease e k := by
  refine ⟨g (d.touch.target k), ?_⟩
  rcases before : (d.touch.target k).touched <;> rcases now : (g (d.touch.target k)).touched
  · exact .inl (changeTarget_of_same (now.trans before.symm))
  · exact .inr (.inl (changeTarget_of_touch before now))
  · exact .inr (.inr (changeTarget_of_release before now))
  · exact .inl (changeTarget_of_same (now.trans before.symm))

/-- R85: the target takes its change, whoever hears of it. -/
theorem owner_changeTarget : OwnerFrame (d.setTarget k (g (d.touch.target k))) (d.changeTarget e k g) := by
  rcases before : (d.touch.target k).touched <;> rcases now : (g (d.touch.target k)).touched
  · rw [changeTarget_of_same (now.trans before.symm)]
    exact .same _
  · rw [changeTarget_of_touch before now]
    exact owner_deliverTouch e k _
  · rw [changeTarget_of_release before now]
    exact owner_deliverRelease e k _
  · rw [changeTarget_of_same (now.trans before.symm)]
    exact .same _

theorem target_changeTarget : (d.changeTarget e k g).touch.target k = g (d.touch.target k) :=
  ((owner_changeTarget e k g d).targets k).trans (Touch.target_setTarget _ k _)

theorem local_changeTarget : LocalFrame d (d.changeTarget e k g) :=
  (LocalFrame.setTarget k _ d).andThen (owner_changeTarget e k g d).toLocalFrame

end

theorem holdTarget_some (e : Env) (k : TouchTarget) (d : Desk) :
    d.holdTarget e (some k) = d.changeTarget e k fun x => { x with held := x.held + 1 } := rfl

theorem dropTarget_some (e : Env) (k : TouchTarget) (d : Desk) :
    d.dropTarget e (some k) = d.changeTarget e k fun x => { x with held := x.held - 1 } := rfl

theorem local_holdTarget (e : Env) (k : Option TouchTarget) (d : Desk) : LocalFrame d (d.holdTarget e k) := by
  cases k with
  | none => exact .same d
  | some k =>
    rw [holdTarget_some]
    exact local_changeTarget e k _ d

theorem local_dropTarget (e : Env) (k : Option TouchTarget) (d : Desk) : LocalFrame d (d.dropTarget e k) := by
  cases k with
  | none => exact .same d
  | some k =>
    rw [dropTarget_some]
    exact local_changeTarget e k _ d

theorem local_ungovern (e : Env) (k : Option TouchTarget) (d : Desk) : LocalFrame d (d.ungovern e k) := by
  unfold Desk.ungovern
  split
  · split
    · exact .same d
    · exact local_changeTarget e _ _ d
  · exact .same d

/-- R90: an indication is nothing, or a change of the target. -/
theorem indicate_cases (e : Env) (k : TouchTarget) (i : Indication) (d : Desk) :
    d.indicate e k i = d ∨ ∃ g, d.indicate e k i = d.changeTarget e k g := by
  cases i with
  | absent => exact .inl rfl
  | touched | untouched =>
    unfold Desk.indicate
    dsimp only
    split
    · exact .inl rfl
    · exact .inr ⟨_, rfl⟩

theorem local_indicate (e : Env) (k : TouchTarget) (i : Indication) (d : Desk) : LocalFrame d (d.indicate e k i) := by
  rcases indicate_cases e k i d with same | ⟨g, change⟩
  · rw [same]
    exact .same d
  · rw [change]
    exact local_changeTarget e k g d

end Desk

end Sys2Proof.Machine
end

section
/-!
DRIVES (R91, R92): the drive list as its entries in ascending fader order.
-/

set_option Elab.async false

namespace Sys2Proof.Machine

/-- R92: the entries of the drive list, in ascending fader order. -/
def Touch.entries (t : Touch) : List (Fin 32 × Value) := (List.finRange 32).filterMap fun f => t.drives[f].map fun v => (f, v)

theorem Touch.mem_entries (t : Touch) (f : Fin 32) (v : Value) : (f, v) ∈ t.entries ↔ t.drives[f] = some v := by
  simp [Touch.entries]

/-- R92: each fader has at most one entry, and the list of faders ascends. -/
theorem Touch.ascending_entries (t : Touch) : (t.entries.map (·.1)).Pairwise (· < ·) := by
  have faders : t.entries.map (·.1) = (List.finRange 32).filter fun f => t.drives[f].isSome := by
    unfold Touch.entries
    rw [List.map_filterMap, ← List.filterMap_eq_filter]
    refine List.filterMap_congr fun f _ => ?_
    cases h : t.drives[f] <;> simp [h, Option.guard]
  rw [faders]
  exact (List.pairwise_lt_finRange 32).filter _

theorem Touch.driveCount_eq (t : Touch) : t.driveCount = t.entries.length := by
  have list : t.drives.toList = (List.finRange 32).map fun f => t.drives[f] :=
    List.ext_getElem (by simp) fun i _ _ => by simp
  unfold Touch.driveCount Touch.entries
  rw [list, List.filter_map, List.length_map, ← List.countP_eq_length_filter, List.length_filterMap_eq_countP]
  exact List.countP_congr fun f _ => by simp

/-- R92, 11.3: the reply's bytes are the count and each entry in turn. -/
theorem Touch.driveBytes_eq (t : Touch) : t.driveBytes =
    bytesOf 1 t.entries.length ++ t.entries.flatMap fun x => bytesOf 1 x.1.val ++ bytesOf 2 x.2.toNat := by
  unfold Touch.driveBytes
  rw [Touch.driveCount_eq]
  refine congrArg (bytesOf 1 t.entries.length ++ ·) ?_
  unfold Touch.entries allLines
  rw [List.filterMap_eq_flatMap_toList, List.flatMap_assoc]
  refine List.flatMap_congr fun f _ => ?_
  cases t.drives[f] <;> simp

end Sys2Proof.Machine

open Sys2Proof Sys2Proof.Machine

/-- Settles O52: the reply lists the entries, and a level handed to TOUCH makes one of every fader mapped to its target. -/
theorem drivesResult : Obligations.DrivesResult := by
  refine ⟨fun tail s ready => ⟨s.desk.touch.entries, s.desk.touch.ascending_entries, s.desk.touch.mem_entries, ?_⟩,
    fun d m v f => Touch.drives_drive m v d.touch f⟩
  refine congrArg Host.Outcome.next ((State.command_of_ready ready 0 tail State.drives).trans ?_)
  rw [← Touch.driveBytes_eq]
  rfl
end

section
/-!
TOUCHSET and MAP (R87 to R89): a line disabled, a fader mapped anew, and what of it the owners leave.
-/

set_option Elab.async false

namespace Sys2Proof.Machine

namespace Desk

/-! ## TOUCHSET (R87) -/

theorem setLine_setLine (f : Fin 32) (x y : Line) (d : Desk) : (d.setLine f x).setLine f y = d.setLine f y := by
  simp [Desk.setLine]

theorem setLine_lineOf (f : Fin 32) (d : Desk) : d.setLine f (d.lineOf f) = d := by
  simp [Desk.setLine, Desk.lineOf]

end Desk

/-- R87: a line disabled: untouched, its latches clear, its captured ticks kept. -/
def Line.disabled (x : Line) : Line :=
  { x with enable := false, state := .untouched, count := 0, touchLatch := false, releaseLatch := false }

/-- R87: TOUCHSET disables an enabled line that it disables or whose polarity it changes, before it writes the settings. -/
def Line.configured (enable activeLow : Bool) (interval : Fin 5) (x : Line) : Line :=
  { (if x.enable && (!enable || activeLow != x.activeLow) then x.disabled else x) with
    enable := enable, activeLow := activeLow, interval := interval }

theorem Desk.lineOf_disableLine (e : Env) (f g : Fin 32) (d : Desk) :
    (d.disableLine e f).lineOf g = if g = f then (d.lineOf f).disabled else d.lineOf g := by
  unfold Desk.disableLine
  dsimp only
  split
  · rw [(Desk.local_dropTarget e _ _).lineOf]
    exact Desk.lineOf_setLine f g _ d
  · exact Desk.lineOf_setLine f g _ d

theorem Desk.map_disableLine (e : Env) (f : Fin 32) (d : Desk) : (d.disableLine e f).touch.map = d.touch.map := by
  unfold Desk.disableLine
  dsimp only
  split
  · exact (Desk.local_dropTarget e _ _).map
  · rfl

/-- R87: a taken TOUCHSET writes one line. -/
theorem Desk.lineOf_setLineSettings (e : Env) (f g : Fin 32) (enable activeLow : Bool) (i : Fin 5) (d : Desk) :
    (d.setLineSettings e f enable activeLow i).lineOf g =
      if g = f then (d.lineOf f).configured enable activeLow i else d.lineOf g := by
  unfold Desk.setLineSettings Line.configured
  dsimp only
  rw [Desk.lineOf_setLine]
  by_cases disables : ((d.lineOf f).enable && (!enable || activeLow != (d.lineOf f).activeLow)) = true
  · simp only [if_pos disables, Desk.lineOf_disableLine]
    split <;> rfl
  · simp only [if_neg disables]

theorem Desk.map_setLineSettings (e : Env) (f : Fin 32) (enable activeLow : Bool) (i : Fin 5) (d : Desk) :
    (d.setLineSettings e f enable activeLow i).touch.map = d.touch.map := by
  unfold Desk.setLineSettings
  dsimp only
  rw [Desk.setLine_map]
  split
  · exact Desk.map_disableLine e f d
  · rfl

/-- R87: the settings a line has already leave everything as it is. -/
theorem Desk.setLineSettings_of_same {e : Env} {f : Fin 32} {enable activeLow : Bool} {i : Fin 5} {d : Desk}
    (same_enable : (d.lineOf f).enable = enable) (same_level : (d.lineOf f).activeLow = activeLow)
    (same_interval : (d.lineOf f).interval = i) : d.setLineSettings e f enable activeLow i = d := by
  have stays : ((d.lineOf f).enable && (!enable || activeLow != (d.lineOf f).activeLow)) = false := by
    rw [same_enable, same_level]
    cases enable <;> simp
  unfold Desk.setLineSettings
  dsimp only
  rw [stays, if_neg Bool.false_ne_true, ← same_enable, ← same_level, ← same_interval]
  exact Desk.setLine_lineOf f d

section
variable {enable activeLow : Bool} {i : Fin 5} {x : Line}

theorem Line.configured_settings : (x.configured enable activeLow i).enable = enable ∧
    (x.configured enable activeLow i).activeLow = activeLow ∧ (x.configured enable activeLow i).interval = i ∧
    (x.configured enable activeLow i).lastTouch = x.lastTouch ∧
    (x.configured enable activeLow i).lastRelease = x.lastRelease := by
  unfold Line.configured
  split <;> exact ⟨rfl, rfl, rfl, rfl, rfl⟩

theorem Line.configured_of_disabled (on : x.enable = true) (off : enable = false) :
    x.configured enable activeLow i = { x.disabled with activeLow := activeLow, interval := i } := by
  subst off
  unfold Line.configured
  rw [on]
  rfl

theorem Line.configured_of_same (same_enable : x.enable = enable) (same_level : x.activeLow = activeLow) :
    (x.configured enable activeLow i).state = x.state ∧ (x.configured enable activeLow i).count = x.count := by
  subst same_enable same_level
  unfold Line.configured
  cases x.enable <;> simp

end

/-! ## MAP (R89) -/

/-- What of a MAP reaches other blocks: the steps before the drive list (R89 steps 1 to 4). -/
def Desk.mapped (e : Env) (f : Fin 32) (m : FaderTarget) (d : Desk) : Desk :=
  let held := (d.lineOf f).state.held
  let d1 := if held then d.dropTarget e (d.touch.map[f]).target? else d
  let d2 := d1.ungovern e m.target?
  let d3 := { d2 with touch := { d2.touch with map := d2.touch.map.set f m } }
  if held then d3.holdTarget e m.target? else d3

theorem Desk.remap_eq (e : Env) (f : Fin 32) (m : FaderTarget) (d : Desk) : d.remap e f m =
    { d.mapped e f m with touch := { (d.mapped e f m).touch with
        drives := (d.mapped e f m).touch.drives.set f ((d.mapped e f m).mapDrive e m) } } := rfl

/-- R89: the map gets its new target, and lines and echoes stay. -/
theorem Desk.touch_mapped (e : Env) (f : Fin 32) (m : FaderTarget) (d : Desk) :
    (d.mapped e f m).touch.map = d.touch.map.set f m ∧ (d.mapped e f m).touch.lines = d.touch.lines ∧
      ∀ b, ((d.mapped e f m).reqOf b).echo = (d.reqOf b).echo := by
  unfold Desk.mapped
  dsimp only
  have dropped : LocalFrame d (if (d.lineOf f).state.held then d.dropTarget e (d.touch.map[f]).target? else d) := by
    split
    · exact Desk.local_dropTarget e _ d
    · exact .same d
  have freed := dropped.andThen (Desk.local_ungovern e m.target? _)
  generalize Desk.ungovern e m.target? _ = d2 at freed ⊢
  rw [← freed.map, ← freed.lines]
  split
  · have held := Desk.local_holdTarget e m.target? { d2 with touch := { d2.touch with map := d2.touch.map.set f m } }
    exact ⟨held.map, held.lines, fun b => (held.echo b).trans (freed.echo b)⟩
  · exact ⟨rfl, rfl, freed.echo⟩

/-- R89: a fader mapped anew to `m`, and its place in the drive list as the desk that comes out has it. -/
theorem Desk.touch_remap (e : Env) (f : Fin 32) (m : FaderTarget) (d : Desk) :
    (d.remap e f m).touch.map = d.touch.map.set f m ∧ (d.remap e f m).touch.lines = d.touch.lines ∧
      (d.remap e f m).touch.drives[f] = (d.remap e f m).mapDrive e m ∧
      ∀ b, ((d.remap e f m).reqOf b).echo = (d.reqOf b).echo := by
  obtain ⟨map, lines, echo⟩ := d.touch_mapped e f m
  rw [Desk.remap_eq]
  generalize d.mapped e f m = u at map lines echo ⊢
  refine ⟨map, lines, ?_, echo⟩
  have driven : (u.touch.drives.set f (u.mapDrive e m))[f] = u.mapDrive e m := by simp
  refine driven.trans ?_
  cases m <;> rfl

/-! ## The commands -/

section
variable {s : State} {c : Conf} {a b i : Byte}

theorem State.exec_touchset (ready : s.ready) (conf : s.conf = some c) (tail : Nat) :
    exec (.touchset a b i tail) s = .next (State.taken 3 tail (s.touchset a b i).reply (s.touchset a b i).state) := by
  refine congrArg Host.Outcome.next ((State.command_of_ready ready _ _ _).trans ?_)
  rw [State.configured_of_some conf]

theorem State.exec_map (ready : s.ready) (conf : s.conf = some c) (tail : Nat) :
    exec (.map a b i tail) s = .next (State.taken 3 tail (s.mapFader a b i).reply (s.mapFader a b i).state) := by
  refine congrArg Host.Outcome.next ((State.command_of_ready ready _ _ _).trans ?_)
  rw [State.configured_of_some conf]

theorem State.touchset_of_range (h : 32 ≤ a.toNat ∨ 5 ≤ i.toNat) : s.touchset a b i = s.refuse 6 .range := by
  unfold State.touchset
  rcases h with line | interval
  · rw [indexOf?_of_le line]
  · rw [indexOf?_of_le interval]
    rcases indexOf? 32 a with _ | f <;> rfl

theorem State.touchset_of_line {f : Fin 32} {v : Fin 5} (line : a.toNat = f.val) (interval : i.toNat = v.val) :
    s.touchset a b i =
      State.done 6 ((s.desk.setLineSettings s.env f (b.getLsbD 0) (b.getLsbD 1) v).lineOf f).bytes
        { s with desk := s.desk.setLineSettings s.env f (b.getLsbD 0) (b.getLsbD 1) v } := by
  unfold State.touchset
  rw [indexOf?_of_toNat line, indexOf?_of_toNat interval]
  rfl

theorem State.mapFader_of_range (h : 32 ≤ a.toNat ∨ mapTarget? s.env b i = none) :
    s.mapFader a b i = s.refuse 7 .range := by
  unfold State.mapFader
  rcases h with fader | target
  · rw [indexOf?_of_le fader]
  · rw [target]
    rcases indexOf? 32 a with _ | f <;> rfl

theorem State.mapFader_of_fader {f : Fin 32} {m : FaderTarget} (fader : a.toNat = f.val)
    (target : mapTarget? s.env b i = some m) :
    s.mapFader a b i = if s.desk.touch.map[f] = m then s.done 7 []
      else State.done 7 [] { s with desk := s.desk.remap s.env f m } := by
  unfold State.mapFader
  rw [indexOf?_of_toNat fader, target]
  rfl

end

end Sys2Proof.Machine

open Sys2Proof Sys2Proof.Machine

/-- Settles O49: a taken TOUCHSET writes one line, as `Line.configured` says. -/
theorem touchsetResult : Obligations.TouchsetResult := by
  intro a flags i tail s ready conf
  obtain ⟨c, conf⟩ := Option.isSome_iff_exists.mp conf
  have exec_eq := State.exec_touchset (a := a) (b := flags) (i := i) ready conf tail
  refine ⟨fun range => ?_, fun f v line interval => ?_⟩
  · rw [exec_eq, State.touchset_of_range range]
    rfl
  rw [exec_eq, State.touchset_of_line line interval]
  have written := fun g => Desk.lineOf_setLineSettings s.env f g (flags.getLsbD 0) (flags.getLsbD 1) v s.desk
  have map := Desk.map_setLineSettings s.env f (flags.getLsbD 0) (flags.getLsbD 1) v s.desk
  have unchanged := Desk.setLineSettings_of_same (e := s.env) (f := f) (enable := flags.getLsbD 0)
    (activeLow := flags.getLsbD 1) (i := v) (d := s.desk)
  generalize s.desk.setLineSettings s.env f (flags.getLsbD 0) (flags.getLsbD 1) v = d at written map unchanged ⊢
  have own : d.lineOf f = (s.desk.lineOf f).configured (flags.getLsbD 0) (flags.getLsbD 1) v := (written f).trans (if_pos rfl)
  obtain ⟨enable, level, interval, touch, release⟩ := (s.desk.lineOf f).configured_settings (enable := flags.getLsbD 0)
    (activeLow := flags.getLsbD 1) (i := v)
  rw [← own] at enable level interval touch release
  refine ⟨_, rfl, enable, level, interval, touch, release, fun on off => ?_, fun same_enable same_level => ?_,
    fun g other => (written g).trans (if_neg other), map, rfl, rfl⟩
  · have disabled := own.trans (Line.configured_of_disabled on off)
    exact ⟨congrArg Line.state disabled, congrArg Line.count disabled, congrArg Line.touchLatch disabled,
      congrArg Line.releaseLatch disabled⟩
  · obtain ⟨state, count⟩ := Line.configured_of_same (i := v) same_enable same_level
    rw [← own] at state count
    exact ⟨state, count, unchanged same_enable same_level⟩

/-- Settles O50: a MAP to another target, and the drive value that the target applies after it. -/
theorem mapResult : Obligations.MapResult := by
  intro a form x tail s ready conf
  obtain ⟨c, conf⟩ := Option.isSome_iff_exists.mp conf
  have exec_eq := State.exec_map (a := a) (b := form) (i := x) ready conf tail
  refine ⟨fun range => ?_, fun f m fader target => ⟨fun same => ?_, fun change => ?_⟩⟩
  · rw [exec_eq, State.mapFader_of_range range]
    rfl
  · rw [exec_eq, State.mapFader_of_fader fader target, if_pos same]
    rfl
  · rw [exec_eq, State.mapFader_of_fader fader target, if_neg change]
    obtain ⟨map, lines, drive, echo⟩ := s.desk.touch_remap s.env f m
    generalize s.desk.remap s.env f m = d at map lines drive echo ⊢
    refine ⟨_, rfl, ?_, fun g other => ?_, lines, ?_, ?_, ?_, ?_, rfl, rfl⟩
    · show d.touch.map[f] = m
      rw [map]
      simp
    · show d.touch.map[g] = s.desk.touch.map[g]
      have apart : f.val ≠ g.val := fun same => other (Fin.ext same.symm)
      simp [map, Vector.getElem_set_ne, apart]
    · rintro rfl
      exact drive
    · rintro n rfl
      exact drive
    · rintro b rfl homed
      exact drive.trans (if_pos homed)
    · rintro b rfl away
      rw [← echo b]
      exact drive.trans (if_neg (by rw [away]; exact Bool.false_ne_true))
end

section
/-!
What a touch and a release do to one control (R115, R123, R124, R126 to R128, R131), and what they leave of the others.
-/

set_option Elab.async false

namespace Sys2Proof.Machine

/-! ## The value decided afresh (R120) -/

theorem Control.decided_of_taking {x : Control} (h : x.mode = .off ∨ x.mode = .write ∨
    (x.mode = .touch ∨ x.mode = .latch) ∧ (x.pass = .primed ∨ x.pass = .writing)) : x.decided = x.surface := by
  unfold Control.decided
  rcases h with mode | mode | ⟨mode | mode, pass | pass⟩ <;> simp only [mode, pass]

theorem Control.decided_of_idle {x : Control} (mode : x.mode = .touch ∨ x.mode = .latch) (pass : x.pass = .idle) :
    x.decided = x.playback := by
  unfold Control.decided
  rcases mode with mode | mode <;> rw [mode, pass]

/-- A control below 128 is a strip's (section 7.1). -/
theorem controlName_of_strip {c : Fin 176} (h : c.val < 128) (b : Fin 24) :
    controlName c ≠ .master b ∧ controlName c ≠ .masterMute b := by
  unfold controlName
  rw [dif_pos h]
  dsimp only
  split <;> exact ⟨ControlName.noConfusion, ControlName.noConfusion⟩

namespace Desk

theorem setControl_setControl (c : Fin 176) (x y : Control) (d : Desk) :
    (d.setControl c x).setControl c y = d.setControl c y := by
  simp [Desk.setControl]

theorem control_setControl_self (c : Fin 176) (x : Control) (d : Desk) : (d.setControl c x).control c = x := by
  rw [control_setControl, if_pos rfl]

theorem ev_handOn (e : Env) (c : Fin 176) (d : Desk) : (d.handOn e c).ev = d.ev := by
  unfold Desk.handOn
  dsimp only
  split
  case h_1 | h_5 => split <;> rfl
  all_goals rfl

/-- R120: a strip control is no home's affair. -/
theorem home_handOn {c : Fin 176} (h : c.val < 128) (e : Env) (d : Desk) : (d.handOn e c).home = d.home := by
  unfold Desk.handOn
  dsimp only
  split
  · split <;> rfl
  · rfl
  · rfl
  · rfl
  · next b name => exact absurd name (controlName_of_strip h b).1
  · next b name => exact absurd name (controlName_of_strip h b).2

/-- R120: an applied value decided afresh raises no flag and moves no count of AUTO's. -/
theorem rest_decideApplied (e : Env) (c : Fin 176) (d : Desk) :
    (d.decideApplied e c).ev = d.ev ∧ (d.decideApplied e c).auto.nextSerial = d.auto.nextSerial := by
  unfold Desk.decideApplied Desk.apply
  split
  · exact ⟨rfl, rfl⟩
  · obtain ⟨auto, _⟩ := auto_handOn e c (d.setControl c { d.control c with applied := (d.control c).decided })
    exact ⟨(ev_handOn e c _).trans rfl, (congrArg Auto.nextSerial auto).trans rfl⟩

/-- R120: a control written, and its applied value decided. -/
theorem control_decideApplied_setControl {e : Env} {c : Fin 176} {y : Control} {v : Value} {d : Desk} (h : y.decided = v) :
    ((d.setControl c y).decideApplied e c).control c = { y with applied := v } := by
  rw [control_decideApplied, if_pos rfl, control_setControl_self, h]

theorem home_decideApplied {c : Fin 176} (h : c.val < 128) (e : Env) (d : Desk) : (d.decideApplied e c).home = d.home := by
  unfold Desk.decideApplied Desk.apply
  split
  · rfl
  · exact home_handOn h e _

end Desk

/-! ## Moves (R125, R131) -/

theorem Take.reserved_closeOpen (t : Take) : t.closeOpen.reserved = t.reserved := by
  unfold Take.closeOpen
  split <;> rfl

theorem Take.reserved_openFor (page : Page) (m : Move) (t : Take) : (t.openFor page m).1.reserved = t.reserved := by
  unfold Take.openFor
  split <;> rfl

/-- R158: a move takes no place of the pass record queue. -/
theorem Take.reserved_accept (k : Tick) (c : Fin 176) (v : Value) (t : Take) :
    (t.accept k c v).1.reserved = t.reserved := by
  unfold Take.accept
  dsimp only
  split
  · rfl
  · split
    · split
      · split <;> rfl
      · exact (Take.reserved_openFor _ _ _).trans (Take.reserved_closeOpen _)
    · exact Take.reserved_openFor _ _ _

/-- R131: the record, DAMAGED set on its open pass where TAKE has lost a move. -/
def Control.damagedIf (lost : Bool) (x : Control) : Control :=
  { x with openPass := x.openPass.map fun p => { p with damaged := p.damaged || lost } }

theorem Control.damagedIf_false (x : Control) : x.damagedIf false = x := by
  simp [Control.damagedIf]

/-- R125: the record with a move of its applied value at the tick. -/
def Control.movedTo (t : Tick) (x : Control) : Control :=
  { x with lastMove := some { tick := t, value := x.applied, current := true } }

namespace Desk

theorem control_damaged (k : Take) (f : Flag) (j : Fin 176) (d : Desk) :
    (Desk.raise f { d with take := k, auto := d.auto.markDamaged }).control j = (d.control j).damagedIf true := by
  simp [Desk.control, Desk.raise, Auto.markDamaged, Control.damagedIf]

/-- R125, R131: a move is written into its control, and DAMAGED into every open pass where TAKE loses it. -/
theorem control_appendMove (c : Fin 176) (t : Tick) (d : Desk) : ∃ lost, ∀ j,
    (d.appendMove c t).control j = (if j = c then (d.control c).movedTo t else d.control j).damagedIf lost := by
  have moved : ∀ j, (d.setControl c ((d.control c).movedTo t)).control j =
      if j = c then (d.control c).movedTo t else d.control j := fun j => control_setControl c j _ d
  unfold Desk.appendMove
  dsimp only
  split
  · exact ⟨false, fun j => by rw [Control.damagedIf_false]; exact moved j⟩
  · exact ⟨true, fun j => by rw [control_damaged, ← moved j]; rfl⟩
  · exact ⟨true, fun j => by rw [control_damaged, ← moved j]; rfl⟩

theorem rest_appendMove (c : Fin 176) (t : Tick) (d : Desk) : (d.appendMove c t).home = d.home ∧
    (d.appendMove c t).auto.nextSerial = d.auto.nextSerial ∧ (d.appendMove c t).take.reserved = d.take.reserved := by
  have kept := Take.reserved_accept t c (d.control c).applied d.take
  unfold Desk.appendMove
  dsimp only
  split
  all_goals
    next k fate => exact ⟨rfl, rfl, (congrArg (fun x => x.1.reserved) fate).symm.trans kept⟩

/-! ## What an operation on one control leaves -/

/-- What AUTO's operations on a control leave once its surface value and its touch are written: those two of every control, all
values of the others, and the homes where it is a strip control. -/
structure ActsAt (c : Fin 176) (d d' : Desk) : Prop where
  inputs : ∀ j, (d'.control j).surface = (d.control j).surface ∧ (d'.control j).touched = (d.control j).touched
  others : ∀ j, j ≠ c → (d'.control j).applied = (d.control j).applied ∧ (d'.control j).pass = (d.control j).pass
  home   : c.val < 128 → d'.home = d.home

namespace ActsAt

variable {c : Fin 176}

/-- The controls and the homes are as they were. -/
theorem still {d d' : Desk} (controls : d'.auto.controls = d.auto.controls := by rfl) (home : d'.home = d.home := by rfl) :
    ActsAt c d d' := by
  have same : ∀ j, d'.control j = d.control j := fun j => congrArg (·[j]) controls
  exact ⟨fun j => by rw [same]; exact ⟨rfl, rfl⟩, fun j _ => by rw [same]; exact ⟨rfl, rfl⟩, fun _ => home⟩

theorem andThen {a b d : Desk} (h : ActsAt c a b) (k : ActsAt c b d) : ActsAt c a d where
  inputs j := by
    obtain ⟨surface, touched⟩ := h.inputs j
    obtain ⟨surface', touched'⟩ := k.inputs j
    exact ⟨surface'.trans surface, touched'.trans touched⟩
  others j other := by
    obtain ⟨applied, pass⟩ := h.others j other
    obtain ⟨applied', pass'⟩ := k.others j other
    exact ⟨applied'.trans applied, pass'.trans pass⟩
  home strip := (k.home strip).trans (h.home strip)

/-- One control is written, its surface value and touch as they were. -/
theorem of_control {d d' : Desk} {x : Control} (control : ∀ j, d'.control j = if j = c then x else d.control j)
    (inputs : x.surface = (d.control c).surface ∧ x.touched = (d.control c).touched)
    (home : c.val < 128 → d'.home = d.home) : ActsAt c d d' where
  inputs j := by
    rw [control]
    split
    · next here => rw [here]; exact inputs
    · exact ⟨rfl, rfl⟩
  others j other := by
    rw [control, if_neg other]
    exact ⟨rfl, rfl⟩
  home := home

theorem setControl {d : Desk} {x : Control} (surface : x.surface = (d.control c).surface := by rfl)
    (touched : x.touched = (d.control c).touched := by rfl) : ActsAt c d (d.setControl c x) :=
  .of_control (fun j => control_setControl c j x d) ⟨surface, touched⟩ fun _ => rfl

theorem decideApplied (e : Env) (d : Desk) : ActsAt c d (d.decideApplied e c) :=
  .of_control (fun j => control_decideApplied e c j d) ⟨rfl, rfl⟩ fun strip => home_decideApplied strip e d

theorem appendMove (t : Tick) (d : Desk) : ActsAt c d (d.appendMove c t) := by
  obtain ⟨lost, control⟩ := control_appendMove c t d
  obtain ⟨home, _⟩ := rest_appendMove c t d
  refine ⟨fun j => ?_, fun j other => ?_, fun _ => home⟩
  · rw [control]
    split
    · next here => rw [here]; exact ⟨rfl, rfl⟩
    · exact ⟨rfl, rfl⟩
  · rw [control, if_neg other]
    exact ⟨rfl, rfl⟩

theorem openPass (t : Tick) (d : Desk) : ActsAt c d (d.openPass c t) :=
  .andThen (b := d.setControl c { d.control c with openPass := _, pass := .writing }) .setControl .still

theorem countClosed (d : Desk) : ActsAt c d d.countClosed := by
  unfold Desk.countClosed
  dsimp only
  split <;> exact .still

theorem closePass (e : Env) (r : CloseReason) (d : Desk) : ActsAt c d (d.closePass e r c) := by
  unfold Desk.closePass
  dsimp only
  split
  · exact .still
  · next p _ =>
    have filed : ActsAt c d { d with take := d.take.file (p.record c r) } := .still
    exact ((filed.andThen .setControl).andThen (countClosed _)).andThen (decideApplied e _)

theorem prime (e : Env) (d : Desk) : ActsAt c d (d.prime e c) := .andThen .setControl (decideApplied e _)

theorem openBetween (e : Env) (t : Tick) (d : Desk) : ActsAt c d (d.openBetween e c t) := by
  unfold Desk.openBetween
  dsimp only
  refine ((openPass t d).andThen (decideApplied e _)).andThen ?_
  split
  · exact .still
  · exact appendMove t _

theorem touchIdle (e : Env) (d : Desk) : ActsAt c d (d.touchIdle e c) := by
  unfold Desk.touchIdle
  split
  · split
    · split
      · exact openBetween e _ d
      · exact .andThen (b := d.raise .passFull) .still (prime e _)
    · exact prime e d
  · exact prime e d

theorem takeBack (e : Env) (d : Desk) : ActsAt c d (d.takeBack e c) := .andThen .setControl (decideApplied e _)

theorem beginGlide (e : Env) (d : Desk) : ActsAt c d (d.beginGlide e c) := by
  unfold Desk.beginGlide
  dsimp only
  split
  · exact closePass e _ d
  · exact .setControl

end ActsAt

/-! ## A touch reaches a control (R115, R126, R128) -/

theorem actsAt_touchControl (e : Env) (c : Fin 176) (d : Desk) :
    ActsAt c (d.setControl c { d.control c with touched := true }) (d.touchControl e c) := by
  unfold Desk.touchControl
  dsimp only
  split
  case h_1 | h_2 => exact .touchIdle e _
  case h_7 => exact .still
  all_goals exact .takeBack e _

/-- R115: a touch stands at its control. -/
theorem touched_touchControl (e : Env) (c : Fin 176) (d : Desk) : ((d.touchControl e c).control c).touched = true := by
  obtain ⟨_, touched⟩ := (actsAt_touchControl e c d).inputs c
  rw [touched, control_setControl_self]

section
variable {e : Env} {c : Fin 176} {d : Desk}

/-- R126: a touch of an idle control in TOUCH or LATCH. -/
theorem touchControl_of_idle (mode : (d.control c).mode = .touch ∨ (d.control c).mode = .latch)
    (pass : (d.control c).pass = .idle) :
    d.touchControl e c = (d.setControl c { d.control c with touched := true }).touchIdle e c := by
  unfold Desk.touchControl
  dsimp only
  rw [control_setControl_self]
  dsimp only
  rcases mode with mode | mode <;> rw [mode, pass]

/-- R128: a touch of a gliding or holding control in TOUCH or LATCH. -/
theorem touchControl_of_returning (mode : (d.control c).mode = .touch ∨ (d.control c).mode = .latch)
    (pass : (d.control c).pass = .gliding ∨ (d.control c).pass = .holding) :
    d.touchControl e c = (d.setControl c { d.control c with touched := true }).takeBack e c := by
  unfold Desk.touchControl
  dsimp only
  rw [control_setControl_self]
  dsimp only
  rcases mode with mode | mode <;> rcases pass with pass | pass <;> rw [mode, pass]

/-- R115: any other touch is noted only. -/
theorem touchControl_of_noted (h : (d.control c).mode = .off ∨ (d.control c).mode = .read ∨ (d.control c).mode = .write ∨
    (d.control c).pass = .primed ∨ (d.control c).pass = .writing) :
    d.touchControl e c = d.setControl c { d.control c with touched := true } := by
  unfold Desk.touchControl
  dsimp only
  rw [control_setControl_self]
  dsimp only
  rcases h with h | h | h | h | h <;> rw [h]
  all_goals cases (d.control c).mode <;> rfl

/-- R126: the control is primed, where it may not record, and takes its surface value. -/
theorem control_prime (mode : (d.control c).mode = .touch ∨ (d.control c).mode = .latch) :
    (d.prime e c).control c = { d.control c with pass := .primed, applied := (d.control c).surface } :=
  control_decideApplied_setControl (Control.decided_of_taking (.inr (.inr ⟨mode, .inl rfl⟩)))

theorem rest_prime : (d.prime e c).take = d.take ∧ (d.prime e c).ev = d.ev := by
  obtain ⟨ev, _⟩ := rest_decideApplied e c (d.setControl c { d.control c with pass := .primed })
  exact ⟨take_decideApplied e c _, ev⟩

/-- R128: a pass taken back writes again, and its glide is over. -/
theorem control_takeBack (mode : (d.control c).mode = .touch ∨ (d.control c).mode = .latch) :
    (d.takeBack e c).control c = { d.control c with
      pass := .writing, glide := none, applied := (d.control c).surface,
      openPass := (d.control c).openPass.map fun p => { p with glideStart := none } } :=
  control_decideApplied_setControl (Control.decided_of_taking (.inr (.inr ⟨mode, .inr rfl⟩)))

theorem take_takeBack : (d.takeBack e c).take = d.take := take_decideApplied e c _

/-! ## An opening between ticks (R124) -/

/-- The pass that opens at a control at a tick (R124 step 2). -/
def openedPass (c : Fin 176) (t : Tick) (d : Desk) : OpenPass :=
  { serial := d.auto.nextSerial, mode := (d.control c).mode, punchIn := t, latest := t, glideStart := none,
    damaged := false, driverLost := false }

/-- R124: the control after the opening: it writes its surface value, its pass is open, and its last move lies at the tick. -/
structure OpensAt (c : Fin 176) (t : Tick) (d u : Desk) : Prop where
  applied  : (u.control c).applied = (d.control c).surface
  pass     : (u.control c).pass = .writing
  lastMove : (u.control c).lastMove.map (·.tick) = some t
  openPass : ∃ lost, (u.control c).openPass = some { d.openedPass c t with damaged := lost }
  serial   : u.auto.nextSerial = d.auto.nextSerial + 1
  reserved : u.take.reserved = d.take.reserved + 1

theorem opensAt_openBetween (t : Tick) (mode : (d.control c).mode = .touch ∨ (d.control c).mode = .latch) :
    OpensAt c t d (d.openBetween e c t) := by
  obtain ⟨y, hy⟩ : ∃ y, y = { d.control c with openPass := some (d.openedPass c t), pass := .writing } := ⟨_, rfl⟩
  have record : (d.openPass c t).control c = y := by
    rw [hy]
    exact control_setControl_self c _ d
  have control : ((d.openPass c t).decideApplied e c).control c = { y with applied := (d.control c).surface } := by
    have taking : y.decided = y.surface := Control.decided_of_taking (.inr (.inr (by rw [hy]; exact ⟨mode, .inr rfl⟩)))
    rw [control_decideApplied, if_pos rfl, record, taking, hy]
  have serial : ((d.openPass c t).decideApplied e c).auto.nextSerial = d.auto.nextSerial + 1 := by
    obtain ⟨_, serial⟩ := rest_decideApplied e c (d.openPass c t)
    exact serial
  have reserved : ((d.openPass c t).decideApplied e c).take.reserved = d.take.reserved + 1 :=
    congrArg Take.reserved (take_decideApplied e c _)
  unfold Desk.openBetween
  dsimp only
  generalize (d.openPass c t).decideApplied e c = u at control serial reserved ⊢
  subst hy
  split
  · next left =>
    refine ⟨by rw [control], by rw [control], ?_, ⟨false, by rw [control]; rfl⟩, serial, reserved⟩
    unfold Control.movedAt at left
    rcases move : (u.control c).lastMove with _ | m
    · rw [move] at left
      cases left
    · rw [move] at left
      obtain ⟨tick, _⟩ := (Bool.and_eq_true _ _).mp left
      exact congrArg some (eq_of_beq tick)
  · obtain ⟨lost, moved⟩ := control_appendMove c t u
    obtain ⟨_, same_serial, same_reserved⟩ := rest_appendMove c t u
    have moved := moved c
    rw [if_pos rfl, control] at moved
    refine ⟨by rw [moved]; rfl, by rw [moved]; rfl, by rw [moved]; rfl, ⟨_, by rw [moved]; rfl⟩, same_serial.trans serial,
      same_reserved.trans reserved⟩

/-! ## What becomes of a touch of an idle control (R123, R124, R126) -/

theorem touchIdle_of_open {t : Tick} (tick : e.pos.tick = some t) (may : d.mayRecord e c t = true)
    (room : d.take.queue.length + d.take.reserved < 32) : d.touchIdle e c = d.openBetween e c t := by
  have some_left : d.take.room = true := decide_eq_true room
  unfold Desk.touchIdle
  rw [tick]
  dsimp only
  rw [if_pos may, if_pos some_left]

theorem touchIdle_of_full {t : Tick} (tick : e.pos.tick = some t) (may : d.mayRecord e c t = true)
    (full : 32 ≤ d.take.queue.length + d.take.reserved) : d.touchIdle e c = (d.raise .passFull).prime e c := by
  have none_left : d.take.room = false := decide_eq_false (Nat.not_lt.mpr full)
  unfold Desk.touchIdle
  rw [tick]
  dsimp only
  rw [if_pos may, none_left, if_neg Bool.false_ne_true]

theorem touchIdle_of_not (h : e.pos.tick = none ∨ ∃ t, e.pos.tick = some t ∧ d.mayRecord e c t = false) :
    d.touchIdle e c = d.prime e c := by
  unfold Desk.touchIdle
  rcases h with tick | ⟨t, tick, may⟩
  · rw [tick]
  · rw [tick]
    dsimp only
    rw [may, if_neg Bool.false_ne_true]

/-- R126: whatever becomes of the touch, the control takes its surface value. -/
theorem applied_touchIdle (mode : (d.control c).mode = .touch ∨ (d.control c).mode = .latch) :
    ((d.touchIdle e c).control c).applied = (d.control c).surface := by
  have primed : ((d.prime e c).control c).applied = (d.control c).surface := by rw [control_prime mode]
  rcases tick : e.pos.tick with _ | t
  · rw [touchIdle_of_not (.inl tick)]
    exact primed
  · rcases may : d.mayRecord e c t
    · rw [touchIdle_of_not (.inr ⟨t, tick, may⟩)]
      exact primed
    · rcases Nat.lt_or_ge (d.take.queue.length + d.take.reserved) 32 with room | full
      · rw [touchIdle_of_open tick may room]
        exact (opensAt_openBetween t mode).applied
      · rw [touchIdle_of_full tick may full, control_prime (d := d.raise .passFull) mode]
        rfl

end

/-- R123: the recording conditions are read from POS, the punch window and the control's safe flag. -/
theorem mayRecord_iff (e : Env) (c : Fin 176) (t : Tick) (d : Desk) : d.mayRecord e c t = true ↔ e.pos.state = .rolling ∧
    (∀ i o, d.auto.window = some (i, o) → i ≤ t ∧ t < o) ∧ (d.control c).safe = false := by
  have window : d.auto.windowHolds t = true ↔ ∀ i o, d.auto.window = some (i, o) → i ≤ t ∧ t < o := by
    unfold Auto.windowHolds
    rcases d.auto.window with _ | ⟨i, o⟩
    · simp
    · simp
  unfold Desk.mayRecord
  rw [Bool.and_eq_true, Bool.and_eq_true, window, beq_iff_eq, Bool.not_eq_true', and_assoc]

end Desk

/-! ## A release reaches a control (R115, R126 to R128, R131) -/

/-- R115, R131: the record with the touch over, and DRIVER_LOST set on its open pass where a driver was lost. -/
def Control.released (lost : Bool) (x : Control) : Control :=
  { x with touched := false, openPass := x.openPass.map fun p => { p with driverLost := p.driverLost || lost } }

theorem Control.released_false (x : Control) : x.released false = { x with touched := false } := by
  simp [Control.released]

namespace Desk

theorem releaseMarked_eq (lost : Bool) (c : Fin 176) (d : Desk) :
    (if lost then (d.setControl c { d.control c with touched := false }).markDriverLost c
      else d.setControl c { d.control c with touched := false }) = d.setControl c ((d.control c).released lost) := by
  cases lost
  · rw [if_neg Bool.false_ne_true, Control.released_false]
  · rw [if_pos rfl]
    unfold Desk.markDriverLost
    dsimp only
    rw [setControl_setControl, control_setControl_self]
    simp [Control.released]

theorem actsAt_releaseControl (e : Env) (lost : Bool) (c : Fin 176) (d : Desk) :
    ActsAt c (d.setControl c ((d.control c).released lost)) (d.releaseControl e lost c) := by
  unfold Desk.releaseControl
  dsimp only
  rw [releaseMarked_eq]
  split
  · exact .beginGlide e _
  · exact .setControl
  · exact .andThen .setControl (.decideApplied e _)
  · exact .andThen .setControl (.decideApplied e _)
  · exact .still

section
variable {e : Env} {lost : Bool} {c : Fin 176} {d : Desk}

/-- R127: a release of a TOUCH control that writes returns to playback. -/
theorem releaseControl_of_touch (mode : (d.control c).mode = .touch) (pass : (d.control c).pass = .writing) :
    d.releaseControl e lost c = (d.setControl c ((d.control c).released lost)).beginGlide e c := by
  have mode : ((d.control c).released lost).mode = .touch := mode
  have pass : ((d.control c).released lost).pass = .writing := pass
  unfold Desk.releaseControl
  dsimp only
  rw [releaseMarked_eq, control_setControl_self, mode, pass]

/-- R128: a release of a LATCH control that writes holds its value. -/
theorem releaseControl_of_latch (mode : (d.control c).mode = .latch) (pass : (d.control c).pass = .writing) :
    d.releaseControl e lost c = d.setControl c { (d.control c).released lost with pass := .holding } := by
  have mode : ((d.control c).released lost).mode = .latch := mode
  have pass : ((d.control c).released lost).pass = .writing := pass
  unfold Desk.releaseControl
  dsimp only
  rw [releaseMarked_eq, control_setControl_self, mode, pass]
  exact setControl_setControl c _ _ d

/-- R126: a release of a primed control. -/
theorem releaseControl_of_primed (mode : (d.control c).mode = .touch ∨ (d.control c).mode = .latch)
    (pass : (d.control c).pass = .primed) :
    d.releaseControl e lost c =
      (d.setControl c { (d.control c).released lost with pass := .idle }).decideApplied e c := by
  have mode : ((d.control c).released lost).mode = .touch ∨ ((d.control c).released lost).mode = .latch := mode
  have pass : ((d.control c).released lost).pass = .primed := pass
  unfold Desk.releaseControl
  dsimp only
  rw [releaseMarked_eq, control_setControl_self, pass]
  rcases mode with mode | mode
  all_goals
    rw [mode]
    exact congrArg (Desk.decideApplied e c) (setControl_setControl c _ _ d)

/-- R115: any other release is noted only. -/
theorem releaseControl_of_noted (h : (d.control c).mode = .off ∨ (d.control c).mode = .read ∨ (d.control c).mode = .write ∨
    (d.control c).pass = .idle ∨ (d.control c).pass = .gliding ∨ (d.control c).pass = .holding) :
    d.releaseControl e lost c = d.setControl c ((d.control c).released lost) := by
  obtain ⟨y, hy⟩ : ∃ y, y = (d.control c).released lost := ⟨_, rfl⟩
  have h : y.mode = .off ∨ y.mode = .read ∨ y.mode = .write ∨ y.pass = .idle ∨ y.pass = .gliding ∨ y.pass = .holding := by
    rw [hy]
    exact h
  unfold Desk.releaseControl
  dsimp only
  rw [releaseMarked_eq, control_setControl_self, ← hy]
  rcases h with h | h | h | h | h | h <;> rw [h]
  all_goals cases y.mode <;> rfl

/-- R127: a glide begins where the control has a glide length. -/
theorem beginGlide_of_length (h : (d.control c).glideLength ≠ 0) : d.beginGlide e c =
    d.setControl c { d.control c with
      pass := .gliding, openPass := (d.control c).openPass.map fun p => { p with glideStart := e.pos.tick },
      glide := some { start := (d.control c).applied, length := (d.control c).glideLength.toNat, taken := 0 } } := by
  unfold Desk.beginGlide
  dsimp only
  rw [if_neg h]

/-- R127: without one the pass closes. -/
theorem beginGlide_of_zero (h : (d.control c).glideLength = 0) : d.beginGlide e c = d.closePass e .release c := by
  unfold Desk.beginGlide
  dsimp only
  rw [if_pos h]

end

/-- R132: an open pass of an untouched TOUCH or LATCH control closes, and the control plays back. -/
theorem control_closePass_of_untouched {c : Fin 176} {d : Desk} {p : OpenPass} (e : Env) (r : CloseReason)
    (mode : (d.control c).mode = .touch ∨ (d.control c).mode = .latch) (released : (d.control c).touched = false)
    (pass : (d.control c).openPass = some p) :
    (d.closePass e r c).control c = { d.control c with
      openPass := none, glide := none, pass := .idle, applied := (d.control c).playback } := by
  have rest : (d.control c).restState = .idle := by
    unfold Control.restState
    rcases mode with mode | mode <;> rw [mode, released] <;> rfl
  have plays : Control.decided { d.control c with openPass := none, glide := none, pass := .idle } =
      (d.control c).playback := Control.decided_of_idle mode rfl
  rw [control_closePass, if_pos rfl, Control.closed_of_some pass, rest, plays]

end Desk

end Sys2Proof.Machine
end

section
/-!
A qualified edge of a touch line (R82 to R86), and what the touch or the release that it hands over comes to at a control.
-/

set_option Elab.async false

namespace Sys2Proof.Machine

/-! ## The reading that qualifies (R82) -/

theorem Line.read_touch {N : Nat} {x : Line}
    (h : x.state = .untouched ∧ N = 0 ∨ x.state = .qualifyTouch ∧ N ≤ x.count + 1) :
    x.read N true = ({ x with state := .touched, count := 0 }, .touch) := by
  unfold Line.read
  rcases h with ⟨state, now⟩ | ⟨state, last⟩
  · rw [state]
    exact if_pos now
  · rw [state]
    exact if_pos last

theorem Line.read_release {N : Nat} {x : Line}
    (h : x.state = .touched ∧ N = 0 ∨ x.state = .qualifyRelease ∧ N ≤ x.count + 1) :
    x.read N false = ({ x with state := .untouched, count := 0 }, .release) := by
  unfold Line.read
  rcases h with ⟨state, now⟩ | ⟨state, last⟩
  · rw [state]
    exact if_pos now
  · rw [state]
    exact if_pos last

/-- R82, R83: the line after its touch qualifies at a current tick. -/
def Line.touchedAt (k : Option Tick) (x : Line) : Line :=
  { x with state := .touched, count := 0, touchLatch := true, lastTouch := k }

/-- R82, R83: the line after its release qualifies at a current tick. -/
def Line.releasedAt (k : Option Tick) (x : Line) : Line :=
  { x with state := .untouched, count := 0, releaseLatch := true, lastRelease := k }

/-- R99, R106: a bus with a requester here is homed elsewhere. -/
theorem Env.homesBus_of_requestsBus {e : Env} {b : Fin 24} (h : e.requestsBus b = true) : e.homesBus b = false := by
  unfold Env.requestsBus at h
  unfold Env.homesBus
  rcases bus : e.bus? b with _ | x
  · rfl
  · rw [bus] at h
    simpa using h

theorem Env.ite_of_requestsBus {α : Type} {b : Fin 24} (e : Env) (h : e.requestsBus b = true) (home requester nobody : α) :
    (if e.homesBus b then home else if e.requestsBus b then requester else nobody) = requester := by
  rw [Env.homesBus_of_requestsBus h, if_neg Bool.false_ne_true, if_pos h]

namespace Desk

/-- R83: a line reads the level that qualifies its touch. -/
theorem lineStep_touch {e : Env} {f : Fin 32} {d : Desk} (enable : (d.lineOf f).enable = true)
    (last : (d.lineOf f).state = .untouched ∧ intervalSamples e.rate96 (d.lineOf f).interval = 0 ∨
      (d.lineOf f).state = .qualifyTouch ∧ intervalSamples e.rate96 (d.lineOf f).interval ≤ (d.lineOf f).count + 1) :
    d.lineStep e (!(d.lineOf f).activeLow) f =
      (d.setLine f ((d.lineOf f).touchedAt e.pos.tick)).holdTarget e (d.touch.map[f]).target? := by
  unfold Desk.lineStep Desk.lineEdge
  dsimp only
  rw [if_pos enable, Bool.not_bne_self, Line.read_touch last]
  dsimp only
  rw [setLine_setLine, lineOf_setLine, if_pos rfl]
  rfl

/-- R83: a line reads the level that qualifies its release. -/
theorem lineStep_release {e : Env} {f : Fin 32} {d : Desk} (enable : (d.lineOf f).enable = true)
    (last : (d.lineOf f).state = .touched ∧ intervalSamples e.rate96 (d.lineOf f).interval = 0 ∨
      (d.lineOf f).state = .qualifyRelease ∧ intervalSamples e.rate96 (d.lineOf f).interval ≤ (d.lineOf f).count + 1) :
    d.lineStep e (d.lineOf f).activeLow f =
      (d.setLine f ((d.lineOf f).releasedAt e.pos.tick)).dropTarget e (d.touch.map[f]).target? := by
  unfold Desk.lineStep Desk.lineEdge
  dsimp only
  rw [if_pos enable, bne_self_eq_false, Line.read_release last]
  dsimp only
  rw [setLine_setLine, lineOf_setLine, if_pos rfl]
  rfl

/-! ## What an edge makes of the desk (R83 to R86) -/

/-- The line of the edge is `x`, the target of its fader has changed by `g`, and the target's owner has heard of it where R85
says so. -/
structure EdgeMade (e : Env) (f : Fin 32) (x : Line) (g : TargetState → TargetState) (d u : Desk) : Prop where
  settings : SameSettings d u
  lines    : u.touch.lines = (d.setLine f x).touch.lines
  changed  : ∀ k, d.touch.map[f].target? = some k → u = (d.setLine f x).changeTarget e k g
  free     : d.touch.map[f] = .none → u = d.setLine f x

/-- R84: a line written with the settings it has. -/
theorem sameSettings_setLine {f : Fin 32} {x : Line} {d : Desk} (h : x.enable = (d.lineOf f).enable ∧
    x.activeLow = (d.lineOf f).activeLow ∧ x.interval = (d.lineOf f).interval) : SameSettings d (d.setLine f x) := by
  refine ⟨fun _ => ⟨rfl, rfl, rfl, rfl, rfl⟩, fun j => ?_, rfl, fun _ => ⟨rfl, rfl, rfl⟩, rfl⟩
  rw [lineOf_setLine]
  split
  · next here => rw [here]; exact h
  · exact ⟨rfl, rfl, rfl⟩

namespace EdgeMade

variable {e : Env} {f : Fin 32} {x : Line} {g : TargetState → TargetState} {d u : Desk}

theorem hold (h : x.enable = (d.lineOf f).enable ∧ x.activeLow = (d.lineOf f).activeLow ∧
    x.interval = (d.lineOf f).interval) : EdgeMade e f x (fun y => { y with held := y.held + 1 }) d
      ((d.setLine f x).holdTarget e (d.touch.map[f]).target?) where
  settings := SameSettings.andThen (sameSettings_setLine h) (local_holdTarget e _ _).settings
  lines := (local_holdTarget e _ _).lines
  changed k mapped := by rw [mapped, holdTarget_some]
  free unmapped := by rw [unmapped]; rfl

theorem drop (h : x.enable = (d.lineOf f).enable ∧ x.activeLow = (d.lineOf f).activeLow ∧
    x.interval = (d.lineOf f).interval) : EdgeMade e f x (fun y => { y with held := y.held - 1 }) d
      ((d.setLine f x).dropTarget e (d.touch.map[f]).target?) where
  settings := SameSettings.andThen (sameSettings_setLine h) (local_dropTarget e _ _).settings
  lines := (local_dropTarget e _ _).lines
  changed k mapped := by rw [mapped, dropTarget_some]
  free unmapped := by rw [unmapped]; rfl

theorem lineOf (h : EdgeMade e f x g d u) (j : Fin 32) : u.lineOf j = if j = f then x else d.lineOf j :=
  (congrArg (·[j]) h.lines).trans (lineOf_setLine f j x d)

theorem own (h : EdgeMade e f x g d u) : u.lineOf f = x := (h.lineOf f).trans (if_pos rfl)

theorem others (h : EdgeMade e f x g d u) (j : Fin 32) (other : j ≠ f) : u.lineOf j = d.lineOf j :=
  (h.lineOf j).trans (if_neg other)

theorem target (h : EdgeMade e f x g d u) (k : TouchTarget) (mapped : d.touch.map[f].target? = some k) :
    u.touch.target k = g (d.touch.target k) := by
  rw [h.changed k mapped, target_changeTarget]
  cases k <;> rfl

/-- The desk that an owner finds: the line and the target written, and nothing handed over yet. -/
theorem found (h : EdgeMade e f x g d u) (k : TouchTarget) (y : TargetState) :
    { d with touch := Touch.setTarget y k { d.touch with lines := u.touch.lines } } = (d.setLine f x).setTarget k y := by
  rw [h.lines]
  rfl

theorem unmapped (h : EdgeMade e f x g d u) (free : d.touch.map[f] = .none) :
    u.auto = d.auto ∧ u.home = d.home := by
  rw [h.free free]
  exact ⟨rfl, rfl⟩

end EdgeMade

/-! ## Who hears of a change (R85, R86) -/

/-- R86: the owner of a target. -/
theorem deliverTouch_owner (e : Env) (k : TouchTarget) (d : Desk) :
    (∀ c, k = .control c → d.deliverTouch e k = d.touchControl e (stripControlId c)) ∧
      (∀ b, k = .bus b → e.homesBus b = true → d.deliverTouch e k = d.localClaim e b) ∧
      (∀ b, k = .bus b → e.requestsBus b = true → d.deliverTouch e k = d.reqTouch b) := by
  refine ⟨?_, ?_, ?_⟩
  · rintro c rfl
    rfl
  · rintro b rfl homed
    exact if_pos homed
  · rintro b rfl away
    exact e.ite_of_requestsBus away _ _ _

/-- R86: the owner of a target. -/
theorem deliverRelease_owner (e : Env) (k : TouchTarget) (d : Desk) :
    (∀ c, k = .control c → d.deliverRelease e k = d.releaseControl e false (stripControlId c)) ∧
      (∀ b, k = .bus b → e.homesBus b = true → d.deliverRelease e k = d.localRelease e b) ∧
      (∀ b, k = .bus b → e.requestsBus b = true → d.deliverRelease e k = d.reqRelease b) := by
  refine ⟨?_, ?_, ?_⟩
  · rintro c rfl
    rfl
  · rintro b rfl homed
    exact if_pos homed
  · rintro b rfl away
    exact e.ite_of_requestsBus away _ _ _

section
variable {e : Env} {f : Fin 32} {x : Line} {d u : Desk} {k : TouchTarget}

/-- R85: a touch of a target touched already. -/
theorem EdgeMade.touch_noted (h : EdgeMade e f x (fun y => { y with held := y.held + 1 }) d u)
    (mapped : d.touch.map[f].target? = some k) (before : 0 < (d.touch.target k).held ∨ (d.touch.target k).surfaced = true) :
    u = (d.setLine f x).setTarget k { d.touch.target k with held := (d.touch.target k).held + 1 } := by
  have same : (d.setLine f x).touch.target k = d.touch.target k := by cases k <;> rfl
  rw [h.changed k mapped, changeTarget_of_same, same]
  rw [same]
  unfold TargetState.touched
  rcases before with held | surfaced
  · simp [held]
  · simp [surfaced]

/-- R85: a touch of a target untouched so far. -/
theorem EdgeMade.touch_delivered (h : EdgeMade e f x (fun y => { y with held := y.held + 1 }) d u)
    (mapped : d.touch.map[f].target? = some k) (held : (d.touch.target k).held = 0)
    (surfaced : (d.touch.target k).surfaced = false) :
    u = ((d.setLine f x).setTarget k { d.touch.target k with held := (d.touch.target k).held + 1 }).deliverTouch e k := by
  have same : (d.setLine f x).touch.target k = d.touch.target k := by cases k <;> rfl
  rw [h.changed k mapped, changeTarget_of_touch, same]
  · rw [same]
    simp [TargetState.touched, held, surfaced]
  · simp [TargetState.touched]

/-- R85: a release of a target that stays touched, or is untouched as it was. -/
theorem EdgeMade.release_noted (h : EdgeMade e f x (fun y => { y with held := y.held - 1 }) d u)
    (mapped : d.touch.map[f].target? = some k) (before : (d.touch.target k).held ≠ 1 ∨ (d.touch.target k).surfaced = true) :
    u = (d.setLine f x).setTarget k { d.touch.target k with held := (d.touch.target k).held - 1 } := by
  have same : (d.setLine f x).touch.target k = d.touch.target k := by cases k <;> rfl
  rw [h.changed k mapped, changeTarget_of_same, same]
  rw [same]
  unfold TargetState.touched
  rcases before with held | surfaced
  · have stays : 0 < (d.touch.target k).held - 1 ↔ 0 < (d.touch.target k).held := by omega
    simp [stays]
  · simp [surfaced]

/-- R85: the release of a target that one line alone holds. -/
theorem EdgeMade.release_delivered (h : EdgeMade e f x (fun y => { y with held := y.held - 1 }) d u)
    (mapped : d.touch.map[f].target? = some k) (held : (d.touch.target k).held = 1)
    (surfaced : (d.touch.target k).surfaced = false) :
    u = ((d.setLine f x).setTarget k { d.touch.target k with held := (d.touch.target k).held - 1 }).deliverRelease e k := by
  have same : (d.setLine f x).touch.target k = d.touch.target k := by cases k <;> rfl
  rw [h.changed k mapped, changeTarget_of_release, same]
  · rw [same]
    simp [TargetState.touched, held]
  · rw [same]
    simp [TargetState.touched, held, surfaced]

end

/-! ## A touch at a control, case by case (R123, R124, R126, R128) -/

section
variable {e : Env} {c : Fin 176} {d : Desk} {t : Tick}

/-- R123: whether a control may record does not hang on its touch. -/
theorem mayRecord_setTouched : (d.setControl c { d.control c with touched := true }).mayRecord e c t =
    d.mayRecord e c t := by
  unfold Desk.mayRecord
  rw [control_setControl_self]
  rfl

variable (mode : (d.control c).mode = .touch ∨ (d.control c).mode = .latch)
include mode

theorem mode_setTouched : ((d.setControl c { d.control c with touched := true }).control c).mode = .touch ∨
    ((d.setControl c { d.control c with touched := true }).control c).mode = .latch := by
  rw [control_setControl_self]
  exact mode

/-- R124, R126: the touch opens a pass. -/
theorem opensAt_touchControl (pass : (d.control c).pass = .idle) (tick : e.pos.tick = some t)
    (may : d.mayRecord e c t = true) (room : d.take.queue.length + d.take.reserved < 32) :
    OpensAt c t (d.setControl c { d.control c with touched := true }) (d.touchControl e c) := by
  rw [touchControl_of_idle mode pass, touchIdle_of_open tick (mayRecord_setTouched.trans may) room]
  exact opensAt_openBetween t (mode_setTouched mode)

/-- R126: the touch of an idle control gives it its surface value. -/
theorem applied_touchControl_of_idle (pass : (d.control c).pass = .idle) :
    ((d.touchControl e c).control c).applied = (d.control c).surface := by
  rw [touchControl_of_idle mode pass, applied_touchIdle (mode_setTouched mode), control_setControl_self]

/-- R126: the record of a control that a touch primes. -/
theorem control_prime_setTouched : ((d.setControl c { d.control c with touched := true }).prime e c).control c =
    { d.control c with touched := true, pass := .primed, applied := (d.control c).surface } := by
  rw [control_prime (mode_setTouched mode), control_setControl_self]

/-- R126: the touch primes the control where it may not record. -/
theorem touchControl_primes (pass : (d.control c).pass = .idle)
    (h : e.pos.tick = none ∨ ∃ t, e.pos.tick = some t ∧ d.mayRecord e c t = false) :
    (d.touchControl e c).control c =
        { d.control c with touched := true, pass := .primed, applied := (d.control c).surface } ∧
      (d.touchControl e c).take = d.take ∧ (d.touchControl e c).ev = d.ev := by
  have h : e.pos.tick = none ∨ ∃ t, e.pos.tick = some t ∧
      (d.setControl c { d.control c with touched := true }).mayRecord e c t = false := by
    simpa only [mayRecord_setTouched] using h
  rw [touchControl_of_idle mode pass, touchIdle_of_not h]
  exact ⟨control_prime_setTouched mode, rest_prime⟩

/-- R124, R126: and where no pass record has room, raising PASS_FULL. -/
theorem touchControl_primes_of_full (pass : (d.control c).pass = .idle) (tick : e.pos.tick = some t)
    (may : d.mayRecord e c t = true) (full : 32 ≤ d.take.queue.length + d.take.reserved) :
    (d.touchControl e c).control c =
        { d.control c with touched := true, pass := .primed, applied := (d.control c).surface } ∧
      (d.touchControl e c).take = d.take ∧ (d.touchControl e c).flag .passFull = true := by
  rw [touchControl_of_idle mode pass, touchIdle_of_full tick (mayRecord_setTouched.trans may) full]
  obtain ⟨take, _⟩ := rest_prime (e := e) (c := c)
    (d := (d.setControl c { d.control c with touched := true }).raise .passFull)
  refine ⟨control_prime_setTouched (d := d.raise .passFull) mode, take, (frame_prime e c _).flags.stay _ ?_⟩
  rw [flag_raise]
  simp

/-- R128: the touch takes a gliding or holding pass back. -/
theorem touchControl_takesBack (pass : (d.control c).pass = .gliding ∨ (d.control c).pass = .holding) :
    (d.touchControl e c).control c = { d.control c with
        touched := true, pass := .writing, glide := none, applied := (d.control c).surface,
        openPass := (d.control c).openPass.map fun p => { p with glideStart := none } } ∧
      (d.touchControl e c).take = d.take := by
  rw [touchControl_of_returning mode pass]
  exact ⟨by rw [control_takeBack (mode_setTouched mode), control_setControl_self], take_takeBack⟩

end

/-! ## A release at a control, case by case (R126 to R128) -/

section
variable {e : Env} {lost : Bool} {c : Fin 176} {d : Desk}

/-- R127: the release begins a glide. -/
theorem releaseControl_glides (mode : (d.control c).mode = .touch) (pass : (d.control c).pass = .writing)
    (length : (d.control c).glideLength ≠ 0) : d.releaseControl e lost c = d.setControl c { (d.control c).released lost with
      pass := .gliding,
      openPass := ((d.control c).released lost).openPass.map fun p => { p with glideStart := e.pos.tick },
      glide := some { start := (d.control c).applied, length := (d.control c).glideLength.toNat, taken := 0 } } := by
  have record := control_setControl_self c ((d.control c).released lost) d
  have length : ((d.setControl c ((d.control c).released lost)).control c).glideLength ≠ 0 := by
    rw [record]
    exact length
  rw [releaseControl_of_touch mode pass, beginGlide_of_length length, record, setControl_setControl]
  rfl

/-- R127, R132: the release closes the pass of a control without a glide length. -/
theorem releaseControl_closes {p : OpenPass} (mode : (d.control c).mode = .touch) (pass : (d.control c).pass = .writing)
    (length : (d.control c).glideLength = 0) (opened : (d.control c).openPass = some p) :
    (d.releaseControl e lost c).control c = { d.control c with
        touched := false, openPass := none, glide := none, pass := .idle, applied := (d.control c).playback } ∧
      (d.releaseControl e lost c).take.queue =
        d.take.queue ++ [{ p.record c .release with driverLost := p.driverLost || lost }] := by
  have record := control_setControl_self c ((d.control c).released lost) d
  have opened : ((d.setControl c ((d.control c).released lost)).control c).openPass =
      some { p with driverLost := p.driverLost || lost } := by
    rw [record]
    exact congrArg (Option.map fun p : OpenPass => { p with driverLost := p.driverLost || lost }) opened
  rw [releaseControl_of_touch mode pass, beginGlide_of_zero (by rw [record]; exact length)]
  refine ⟨?_, ?_⟩
  · rw [control_closePass_of_untouched e .release (by rw [record]; exact .inl mode) (by rw [record]; rfl) opened, record]
    rfl
  · obtain ⟨queue, _⟩ := closePass_passes e .release c (d.setControl c ((d.control c).released lost))
    rw [queue, opened]
    rfl

/-- R126: the release of a primed control. -/
theorem releaseControl_idles (mode : (d.control c).mode = .touch ∨ (d.control c).mode = .latch)
    (pass : (d.control c).pass = .primed) :
    (d.releaseControl e lost c).control c =
        { (d.control c).released lost with pass := .idle, applied := (d.control c).playback } ∧
      (d.releaseControl e lost c).take = d.take := by
  rw [releaseControl_of_primed mode pass]
  exact ⟨control_decideApplied_setControl (Control.decided_of_idle mode rfl), take_decideApplied e c _⟩

end

end Desk

/-! ## The rows (log 1) -/

theorem State.exec_touchQualified {s : State} {f : Fin 32} (live : s.clocked) (enable : (s.desk.lineOf f).enable = true)
    (last : (s.desk.lineOf f).state = .untouched ∧ intervalSamples s.rate96 (s.desk.lineOf f).interval = 0 ∨
      (s.desk.lineOf f).state = .qualifyTouch ∧
        intervalSamples s.rate96 (s.desk.lineOf f).interval ≤ (s.desk.lineOf f).count + 1) :
    exec (.touchQualified f) s = .next { s with desk := (s.desk.setLine f
      ((s.desk.lineOf f).touchedAt s.pos.tick)).holdTarget s.env (s.desk.touch.map[f]).target? } := by
  have due : s.edgeDue f .touch = true := by
    unfold State.edgeDue
    dsimp only
    rw [enable, show (LineEdge.touch == LineEdge.touch) = true from rfl, Line.read_touch last]
    rfl
  refine congrArg Host.Outcome.next ((State.part_of_clocked live due _).trans ?_)
  exact congrArg (fun d => { s with desk := d }) (Desk.lineStep_touch (e := s.env) enable last)

theorem State.exec_releaseQualified {s : State} {f : Fin 32} (live : s.clocked) (enable : (s.desk.lineOf f).enable = true)
    (last : (s.desk.lineOf f).state = .touched ∧ intervalSamples s.rate96 (s.desk.lineOf f).interval = 0 ∨
      (s.desk.lineOf f).state = .qualifyRelease ∧
        intervalSamples s.rate96 (s.desk.lineOf f).interval ≤ (s.desk.lineOf f).count + 1) :
    exec (.releaseQualified f) s = .next { s with desk := (s.desk.setLine f
      ((s.desk.lineOf f).releasedAt s.pos.tick)).dropTarget s.env (s.desk.touch.map[f]).target? } := by
  have due : s.edgeDue f .release = true := by
    unfold State.edgeDue
    dsimp only
    rw [enable, show (LineEdge.release == LineEdge.touch) = false from rfl, Line.read_release last]
    rfl
  refine congrArg Host.Outcome.next ((State.part_of_clocked live due _).trans ?_)
  exact congrArg (fun d => { s with desk := d }) (Desk.lineStep_release (e := s.env) enable last)

end Sys2Proof.Machine

open Sys2Proof Sys2Proof.Machine

/-- Settles O48: a qualified edge as one line and one target written and their owner told, and a touch and a release of one
control by its mode and pass state. -/
theorem qualifiedEdges : Obligations.QualifiedEdges := by
  refine ⟨fun s f live enable last => ?_, fun s f live enable last => ?_, fun e c k d => Desk.mayRecord_iff e c k d, ?_, ?_⟩
  · have edge : Desk.EdgeMade s.env f _ _ s.desk _ := .hold (x := (s.desk.lineOf f).touchedAt s.pos.tick) ⟨rfl, rfl, rfl⟩
    have run := State.exec_touchQualified live enable last
    generalize (s.desk.setLine f _).holdTarget s.env _ = u at edge run
    refine ⟨_, run, edge.own, edge.others, fun k mapped => congrArg TargetState.held (edge.target k mapped), ?_,
      edge.unmapped, edge.settings, rfl⟩
    rintro k _ _ mapped rfl rfl
    rw [edge.found]
    refine ⟨edge.touch_noted mapped, fun held surfaced => ?_⟩
    have told : u = _ := edge.touch_delivered mapped held surfaced
    obtain ⟨control, home, requester⟩ := Desk.deliverTouch_owner s.env k
      ((s.desk.setLine f ((s.desk.lineOf f).touchedAt s.pos.tick)).setTarget k _)
    exact ⟨fun c name => told.trans (control c name), fun b name homed => told.trans (home b name homed),
      fun b name away => told.trans (requester b name away)⟩
  · have edge : Desk.EdgeMade s.env f _ _ s.desk _ := .drop (x := (s.desk.lineOf f).releasedAt s.pos.tick) ⟨rfl, rfl, rfl⟩
    have run := State.exec_releaseQualified live enable last
    generalize (s.desk.setLine f _).dropTarget s.env _ = u at edge run
    refine ⟨_, run, edge.own, edge.others, fun k mapped => congrArg TargetState.held (edge.target k mapped), ?_,
      edge.unmapped, edge.settings, rfl⟩
    rintro k _ _ mapped rfl rfl
    rw [edge.found]
    refine ⟨edge.release_noted mapped, fun held surfaced => ?_⟩
    have told : u = _ := edge.release_delivered mapped held surfaced
    obtain ⟨control, home, requester⟩ := Desk.deliverRelease_owner s.env k
      ((s.desk.setLine f ((s.desk.lineOf f).releasedAt s.pos.tick)).setTarget k _)
    exact ⟨fun c name => told.trans (control c name), fun b name homed => told.trans (home b name homed),
      fun b name away => told.trans (requester b name away)⟩
  · rintro e c d _ _ _ rfl rfl rfl
    refine ⟨Desk.touched_touchControl e c d, fun mode pass => ⟨Desk.applied_touchControl_of_idle mode pass,
      fun k tick may room => ?_, fun k tick may full => ?_, fun not => ?_⟩, fun mode pass => ?_, fun noted => ?_⟩
    · have opens := Desk.opensAt_touchControl mode pass tick may room
      obtain ⟨lost, opened⟩ := opens.openPass
      refine ⟨opens.pass, opens.lastMove, opens.serial, opens.reserved, _, opened, rfl, ?_, rfl, rfl, rfl, rfl⟩
      exact (congrArg Control.mode (Desk.control_setControl_self c _ d)).trans rfl
    · obtain ⟨control, take, flag⟩ := Desk.touchControl_primes_of_full mode pass tick may full
      exact ⟨by rw [control], by rw [control], take, flag⟩
    · obtain ⟨control, take, ev⟩ := Desk.touchControl_primes mode pass not
      exact ⟨by rw [control], by rw [control], take, ev⟩
    · obtain ⟨control, take⟩ := Desk.touchControl_takesBack (e := e) mode pass
      exact ⟨by rw [control], by rw [control], by rw [control], take, by rw [control]⟩
    · exact Desk.touchControl_of_noted noted
  · rintro e lost c d _ _ _ rfl rfl rfl
    have released : ((d.releaseControl e lost c).control c).touched = false :=
      (Desk.touched_releaseControl e lost c c d).trans (if_pos rfl)
    refine ⟨released, fun mode pass length => ?_, fun p mode pass length opened => ?_, fun mode pass => ?_,
      fun mode pass => ?_, fun noted kept => ?_⟩
    · rw [Desk.releaseControl_glides mode pass length, Desk.control_setControl_self]
      refine ⟨rfl, rfl, rfl, rfl, ?_⟩
      cases h : (d.control c).openPass <;> simp [Control.released, h]
    · obtain ⟨control, queue⟩ := Desk.releaseControl_closes (e := e) (lost := lost) mode pass length opened
      exact ⟨by rw [control], by rw [control], by rw [control], by rw [control], queue⟩
    · rw [Desk.releaseControl_of_latch mode pass, Desk.control_setControl_self]
      exact ⟨rfl, rfl, rfl, by simp [Control.released]⟩
    · obtain ⟨control, take⟩ := Desk.releaseControl_idles (e := e) (lost := lost) mode pass
      exact ⟨by rw [control], by rw [control], take⟩
    · rw [kept, Desk.releaseControl_of_noted noted, Control.released_false]
end

section
/-!
SURFACE (R90, R99, R108, R115, R120): the value handed to a strip control, a home or a requester, and the touched indication
that goes with it.
-/

set_option Elab.async false

namespace Sys2Proof.Machine

namespace Desk

/-! ## The indication at a strip control (R90) -/

/-- What a touch or a release of one control leaves: every surface value, all values of the other controls, the homes where it
is a strip control, and the applied value of an OFF or WRITE control. -/
structure NotedAt (c : Fin 176) (d d' : Desk) : Prop where
  surface : ∀ j, (d'.control j).surface = (d.control j).surface
  others  : ∀ j, j ≠ c → (d'.control j).applied = (d.control j).applied ∧ (d'.control j).pass = (d.control j).pass ∧
    (d'.control j).touched = (d.control j).touched
  home    : c.val < 128 → d'.home = d.home
  applied : (d.control c).mode = .off ∨ (d.control c).mode = .write →
    (d'.control c).applied = (d.control c).applied

theorem NotedAt.same (c : Fin 176) (d : Desk) : NotedAt c d d :=
  ⟨fun _ => rfl, fun _ _ => ⟨rfl, rfl, rfl⟩, fun _ => rfl, fun _ => rfl⟩

/-- A touch target is no control and no home. -/
theorem NotedAt.of_setTarget {c : Fin 176} {k : TouchTarget} {x : TargetState} {d u : Desk}
    (h : NotedAt c (d.setTarget k x) u) : NotedAt c d u := ⟨h.surface, h.others, h.home, h.applied⟩

/-- The control's touch and pass are written, and what follows acts at the control. -/
theorem ActsAt.noted {c : Fin 176} {x : Control} {d d' : Desk} (h : ActsAt c (d.setControl c x) d')
    (surface : x.surface = (d.control c).surface)
    (applied : (d.control c).mode = .off ∨ (d.control c).mode = .write → (d'.control c).applied = (d.control c).applied) :
    NotedAt c d d' where
  surface j := by
    obtain ⟨kept, _⟩ := h.inputs j
    rw [kept, control_setControl]
    split
    · next here => rw [here, surface]
    · rfl
  others j other := by
    obtain ⟨_, touched⟩ := h.inputs j
    obtain ⟨applied, pass⟩ := h.others j other
    rw [applied, pass, touched, control_setControl, if_neg other]
    exact ⟨rfl, rfl, rfl⟩
  home := h.home
  applied := applied

theorem notedAt_touchControl (e : Env) (c : Fin 176) (d : Desk) : NotedAt c d (d.touchControl e c) :=
  (actsAt_touchControl e c d).noted rfl fun mode => by
    rw [touchControl_of_noted (by tauto), control_setControl_self]

theorem notedAt_releaseControl (e : Env) (lost : Bool) (c : Fin 176) (d : Desk) : NotedAt c d (d.releaseControl e lost c) :=
  (actsAt_releaseControl e lost c d).noted rfl fun mode => by
    rw [releaseControl_of_noted (by tauto), control_setControl_self]
    rfl

/-- R90: what an indication leaves that goes with the SURFACE of a strip control. -/
theorem notedAt_indicate (e : Env) (c : Fin 128) (i : Indication) (d : Desk) :
    NotedAt (stripControlId c) d (d.indicate e (.control c) i) := by
  rcases indicate_cases e (.control c) i d with same | ⟨g, change⟩
  · rw [same]
    exact .same _ d
  · rw [change]
    obtain ⟨x, quiet | touch | release⟩ := changeTarget_cases e (.control c) g d
    · rw [quiet]
      exact NotedAt.of_setTarget (.same _ _)
    · rw [touch]
      exact NotedAt.of_setTarget (notedAt_touchControl e _ _)
    · rw [release]
      exact NotedAt.of_setTarget (notedAt_releaseControl e false _ _)

/-! ## A surface value at a control (R115, R120) -/

theorem actsAt_setSurface (e : Env) (c : Fin 176) (v : Value) (d : Desk) :
    ActsAt c (d.setControl c { d.control c with surface := v }) (d.setSurface e c v) := .decideApplied e _

/-- R115: the control has its new surface value, which acts at once in OFF and WRITE. -/
theorem control_setSurface (e : Env) (c : Fin 176) (v : Value) (d : Desk) :
    ((d.setSurface e c v).control c).surface = v ∧ ((d.setSurface e c v).control c).mode = (d.control c).mode ∧
      ((d.control c).mode = .off ∨ (d.control c).mode = .write → ((d.setSurface e c v).control c).applied = v) := by
  have control : (d.setSurface e c v).control c = { d.control c with
      surface := v, applied := Control.decided { d.control c with surface := v } } := control_decideApplied_setControl rfl
  rw [control]
  refine ⟨rfl, rfl, fun mode => ?_⟩
  refine Control.decided_of_taking (x := { d.control c with surface := v }) ?_
  rcases mode with off | write
  · exact .inl off
  · exact .inr (.inl write)

/-! ## A surface value at a home or a requester (R99, R108) -/

/-- R99: the home keeps its local surface values, whatever it hands on. -/
theorem local_homeSurface {e : Env} {b : Fin 24} {c : Fin 176} {x : Home} {v : Value} {d u : Desk}
    (h : u = if (d.setHome b x).drivenHere e b then (d.setHome b x).setSurface e c v else d.setHome b x) :
    SameSettings d u ∧ u.touch.lines = d.touch.lines ∧ (u.homeOf b).level = x.level ∧ (u.homeOf b).muted = x.muted := by
  have frame : LocalFrame (d.setHome b x) u := by
    rw [h]
    split
    · exact (frame_setSurface e c v _).owner.toLocalFrame
    · exact .same _
  obtain ⟨level, muted⟩ := frame.homes b
  have written : (d.setHome b x).homeOf b = x := (homeOf_setHome b b x d).trans (if_pos rfl)
  rw [written] at level muted
  exact ⟨SameSettings.andThen (SameSettings.same d) frame.settings, frame.lines, level, muted⟩

/-- R108: the requester keeps its local surface values, and queues a DRIVE while it drives. -/
theorem local_reqSurface {b : Fin 24} {x : Requester} {d u : Desk} {drives : Prop} [Decidable drives]
    (h : u = if drives then (d.setReq b x).queueDrive b else d.setReq b x) :
    SameSettings d u ∧ u.touch.lines = d.touch.lines ∧ (u.reqOf b).level = x.level ∧ (u.reqOf b).muted = x.muted := by
  have written : (d.setReq b x).reqOf b = x := (reqOf_setReq b b x d).trans (if_pos rfl)
  have requester : u.reqOf b = x := by
    rw [h]
    split
    · exact written
    · exact written
  rw [requester, h]
  split <;> exact ⟨SameSettings.same d, rfl, rfl, rfl⟩

/-- R99, R108: what a MASTER value makes of the home, or of the requester of a bus homed elsewhere. -/
theorem surfaceValue_level (e : Env) (b : Fin 24) (v : Value) (d : Desk) :
    SameSettings d (d.surfaceValue e (.level b) v) ∧ (d.surfaceValue e (.level b) v).touch.lines = d.touch.lines ∧
      (e.homesBus b = true → ((d.surfaceValue e (.level b) v).homeOf b).level = v) ∧
      (e.homesBus b = false → ((d.surfaceValue e (.level b) v).reqOf b).level = v) := by
  unfold Desk.surfaceValue
  dsimp only
  rcases e.homesBus b
  · obtain ⟨settings, lines, level, _⟩ := local_reqSurface (u := d.reqSurfaceLevel b v) rfl
    exact ⟨settings, lines, Bool.noConfusion, fun _ => level⟩
  · obtain ⟨settings, lines, level, _⟩ := local_homeSurface (u := d.homeSurfaceLevel e b v) rfl
    exact ⟨settings, lines, fun _ => level, Bool.noConfusion⟩

/-- R99, R108: what a MASTER MUTE value makes of the home, or of the requester of a bus homed elsewhere. -/
theorem surfaceValue_mute (e : Env) (b : Fin 24) (v : Value) (d : Desk) :
    SameSettings d (d.surfaceValue e (.mute b) v) ∧ (d.surfaceValue e (.mute b) v).touch.lines = d.touch.lines ∧
      (e.homesBus b = true → ((d.surfaceValue e (.mute b) v).homeOf b).muted = v.getLsbD 0) ∧
      (e.homesBus b = false → ((d.surfaceValue e (.mute b) v).reqOf b).muted = v.getLsbD 0) := by
  unfold Desk.surfaceValue
  dsimp only
  rcases e.homesBus b
  · obtain ⟨settings, lines, _, muted⟩ := local_reqSurface (u := d.reqSurfaceMute b (v.getLsbD 0)) rfl
    exact ⟨settings, lines, Bool.noConfusion, fun _ => muted⟩
  · obtain ⟨settings, lines, _, muted⟩ := local_homeSurface (u := d.homeSurfaceMute e b (v.getLsbD 0)) rfl
    exact ⟨settings, lines, fun _ => muted, Bool.noConfusion⟩

end Desk

/-! ## What a SURFACE names (R90) -/

/-- R90: a value of a strip control in its range. -/
theorem SurfaceName.fits_control {c : Fin 128} {v : BitVec 16} : (SurfaceName.control c).fits v = true ↔
    v.toNat ≤ 1023 ∧ (c.val % 4 = 1 → v.toNat ≤ 1) := by
  unfold SurfaceName.fits isMuteId
  dsimp only
  rw [if_pos c.isLt]
  by_cases mute : c.val % 4 = 1
  · have narrower : v.toNat ≤ 1 ↔ v.toNat ≤ 1023 ∧ v.toNat ≤ 1 := by omega
    simpa [mute] using narrower
  · simp [mute]

theorem indicationOfCode?_of_le {i : Byte} (h : i.toNat ≤ 2) : ∃ x, indicationOfCode? i = some x := by
  have codes : i.toNat = 0 ∨ i.toNat = 1 ∨ i.toNat = 2 := by omega
  unfold indicationOfCode?
  rcases codes with code | code | code <;> rw [code] <;> exact ⟨_, rfl⟩

theorem indicationOfCode?_of_gt {i : Byte} (h : 2 < i.toNat) : indicationOfCode? i = none := by
  unfold indicationOfCode?
  split
  case h_4 => rfl
  all_goals omega

/-- A value's ten low bits hold a value that fits them. -/
theorem setWidth_ten (v : BitVec 16) : v.setWidth 10 = BitVec.ofNat 10 v.toNat := by
  simp [← BitVec.ofNat_toNat]

/-- R90: the mute that a value of 0 or 1 stands for. -/
theorem getLsbD_ofNat_ten {n : Nat} (h : n ≤ 1) : (BitVec.ofNat 10 n).getLsbD 0 = decide (n = 1) := by
  interval_cases n <;> rfl

section
variable {s : State} {c : Conf} {a x i : Byte} {v : BitVec 16}

theorem State.exec_surface (ready : s.ready) (conf : s.conf = some c) (tail : Nat) :
    exec (.surface a x v i tail) s = .next (State.taken 5 tail (s.surface a x v i).reply (s.surface a x v i).state) := by
  refine congrArg Host.Outcome.next ((State.command_of_ready ready _ _ _).trans ?_)
  rw [State.configured_of_some conf]

theorem State.surface_of_range (h : 128 ≤ x.toNat ∨ 1023 < v.toNat ∨ x.toNat % 4 = 1 ∧ 1 < v.toNat ∨ 2 < i.toNat) :
    s.surface 0 x v i = s.refuse 8 .range := by
  have name : surfaceName? s.env 0 x = (indexOf? 128 x).map .control := rfl
  unfold State.surface
  rw [name]
  by_cases strip : x.toNat < 128
  · obtain ⟨k, index⟩ : ∃ k : Fin 128, x.toNat = k.val := ⟨⟨x.toNat, strip⟩, rfl⟩
    rw [indexOf?_of_toNat index]
    rcases Nat.lt_or_ge 2 i.toNat with none_such | known
    · rw [indicationOfCode?_of_gt none_such]
      rfl
    · obtain ⟨y, indication⟩ := indicationOfCode?_of_le known
      have unfit : ¬ (SurfaceName.control k).fits v = true := by
        rw [SurfaceName.fits_control, ← index]
        omega
      rw [indication]
      exact if_neg unfit
  · rw [indexOf?_of_le (Nat.not_lt.mp strip)]
    rfl

/-- R90: a taken SURFACE hands on the value, then the indication. -/
theorem State.surface_of_name {k : SurfaceName} (name : surfaceName? s.env a x = some k) (fits : k.fits v = true)
    (known : i.toNat ≤ 2) : ∃ y, s.surface a x v i = State.done 8 []
      { s with desk := (s.desk.surfaceValue s.env k (BitVec.ofNat 10 v.toNat)).indicate s.env k.target y } := by
  obtain ⟨y, indication⟩ := indicationOfCode?_of_le known
  refine ⟨y, ?_⟩
  unfold State.surface
  rw [name, indication, ← setWidth_ten]
  exact if_pos fits

end

end Sys2Proof.Machine

open Sys2Proof Sys2Proof.Machine

/-- Settles O51: the value at the control, the home or the requester that SURFACE names, and the indication that leaves it. -/
theorem surfaceResult : Obligations.SurfaceResult := by
  intro x v i tail s ready conf
  obtain ⟨c, conf⟩ := Option.isSome_iff_exists.mp conf
  refine ⟨fun range => ?_, fun k strip index value mute known => ?_, fun b form kind bus value known => ?_⟩
  · rw [State.exec_surface ready conf, State.surface_of_range range]
    rfl
  · obtain ⟨n, rfl⟩ : ∃ n : Fin 128, k = stripControlId n := ⟨⟨k.val, strip⟩, rfl⟩
    have name : surfaceName? s.env 0 x = some (.control n) := congrArg (Option.map SurfaceName.control) (indexOf?_of_toNat index)
    obtain ⟨y, taken⟩ := State.surface_of_name (v := v) (i := i) name
      (SurfaceName.fits_control.mpr ⟨value, fun h => mute (index ▸ h)⟩) known
    have frame := (Desk.frame_setSurface s.env (stripControlId n) (BitVec.ofNat 10 v.toNat) s.desk).owner.toLocalFrame.andThen
      (Desk.local_indicate s.env (.control n) y _)
    have noted := Desk.notedAt_indicate s.env n y (s.desk.setSurface s.env (stripControlId n) (BitVec.ofNat 10 v.toNat))
    have acts := Desk.actsAt_setSurface s.env (stripControlId n) (BitVec.ofNat 10 v.toNat) s.desk
    obtain ⟨surface, mode, applied⟩ := Desk.control_setSurface s.env (stripControlId n) (BitVec.ofNat 10 v.toNat) s.desk
    have run := State.exec_surface (a := 0) (x := x) (i := i) (v := v) ready conf tail
    rw [taken] at run
    refine ⟨_, run, (noted.surface _).trans surface,
      fun direct => (noted.applied (mode ▸ direct)).trans (applied direct), fun j other => ?_,
      (noted.home strip).trans (acts.home strip), frame.lines, frame.settings, rfl, rfl⟩
    obtain ⟨applied, pass, touched⟩ := noted.others j other
    obtain ⟨surface', touched'⟩ := acts.inputs j
    obtain ⟨applied', pass'⟩ := acts.others j other
    rw [Desk.control_setControl, if_neg other] at surface' touched' applied' pass'
    exact ⟨(noted.surface j).trans surface', applied.trans applied', pass.trans pass', touched.trans touched'⟩
  · have run := State.exec_surface (a := form) (x := x) (i := i) (v := v) ready conf tail
    rcases kind with rfl | rfl
    · have name : surfaceName? s.env 1 x = some (.level b) := congrArg (Option.map SurfaceName.level) bus
      obtain ⟨y, taken⟩ := State.surface_of_name (v := v) (i := i) name (decide_eq_true value) known
      obtain ⟨settings, lines, home, requester⟩ := Desk.surfaceValue_level s.env b (BitVec.ofNat 10 v.toNat) s.desk
      have frame := Desk.local_indicate s.env (.bus b) y (s.desk.surfaceValue s.env (.level b) (BitVec.ofNat 10 v.toNat))
      obtain ⟨home_level, _⟩ := frame.homes b
      obtain ⟨requester_level, _⟩ := frame.reqs b
      rw [taken] at run
      exact ⟨_, run, fun _ homed => home_level.trans (home homed), fun _ away => requester_level.trans (requester away),
        fun other => absurd other (by decide), fun other => absurd other (by decide), frame.lines.trans lines,
        SameSettings.andThen settings frame.settings, rfl, rfl⟩
    · have name : surfaceName? s.env 2 x = some (.mute b) := congrArg (Option.map SurfaceName.mute) bus
      obtain ⟨y, taken⟩ := State.surface_of_name (v := v) (i := i) name (decide_eq_true value) known
      obtain ⟨settings, lines, home, requester⟩ := Desk.surfaceValue_mute s.env b (BitVec.ofNat 10 v.toNat) s.desk
      rw [getLsbD_ofNat_ten value] at home requester
      have frame := Desk.local_indicate s.env (.bus b) y (s.desk.surfaceValue s.env (.mute b) (BitVec.ofNat 10 v.toNat))
      obtain ⟨_, home_muted⟩ := frame.homes b
      obtain ⟨_, requester_muted, _⟩ := frame.reqs b
      rw [taken] at run
      exact ⟨_, run, fun other => absurd other (by decide), fun other => absurd other (by decide),
        fun _ homed => home_muted.trans (home homed), fun _ away => requester_muted.trans (requester away),
        frame.lines.trans lines, SameSettings.andThen settings frame.settings, rfl, rfl⟩
end

section
/-!
HOME's answers by the driver entry (R100 to R103): what a drive given, a DRIVE accepted and a release do to the entry and to the
two bus controls.
-/

set_option Elab.async false

namespace Sys2Proof.Machine

theorem masterMuteId_ne_masterId (b : Fin 24) : masterMuteId b ≠ masterId b := by
  simp [masterMuteId, masterId]

namespace Desk

/-! ## The driver entry -/

theorem homeOf_setDriver_self (b : Fin 24) (x : Option Nat) (d : Desk) :
    (d.setDriver b x).homeOf b = { d.homeOf b with driver := x, lease := 0 } := by
  rw [Desk.setDriver, homeOf_setHome, if_pos rfl]

theorem control_setDriver (b : Fin 24) (x : Option Nat) (j : Fin 176) (d : Desk) :
    (d.setDriver b x).control j = d.control j := rfl

/-- A driver entry written as it stands starts its lease afresh. -/
theorem setDriver_of_driver {b : Fin 24} {x : Option Nat} {d : Desk} (h : (d.homeOf b).driver = x) :
    d.setDriver b x = d.setHome b { d.homeOf b with lease := 0 } := by
  rw [Desk.setDriver, ← h]

/-! ## Surface values for both bus controls (R100, R101, R103) -/

/-- R115: a surface value changes its control's surface and applied value, and no other control. -/
theorem control_setSurface_eq (e : Env) (c j : Fin 176) (v : Value) (d : Desk) :
    (d.setSurface e c v).control j = if j = c then { d.control c with
      surface := v, applied := Control.decided { d.control c with surface := v } } else d.control j := by
  rw [Desk.setSurface, control_decideApplied, control_setControl_self, control_setControl]
  split <;> rfl

section
variable (e : Env) (b : Fin 24) (v w : Value) (d : Desk)

theorem surface_setBusSurface : ((d.setBusSurface e b v w).control (masterId b)).surface = v ∧
    ((d.setBusSurface e b v w).control (masterMuteId b)).surface = w := by
  unfold Desk.setBusSurface
  constructor
  · rw [control_setSurface_eq, if_neg (masterMuteId_ne_masterId b).symm, control_setSurface_eq, if_pos rfl]
  · rw [control_setSurface_eq, if_pos rfl]

theorem touch_setSurface (c j : Fin 176) : ((d.setSurface e c v).control j).touched = (d.control j).touched ∧
    ((d.setSurface e c v).control j).pass = (d.control j).pass ∧
    ((d.setSurface e c v).control j).openPass = (d.control j).openPass := by
  rw [control_setSurface_eq]
  split
  · next here => rw [here]; exact ⟨rfl, rfl, rfl⟩
  · exact ⟨rfl, rfl, rfl⟩

/-- R101: surface values touch no control, and open and close no pass. -/
theorem touch_setBusSurface (j : Fin 176) : ((d.setBusSurface e b v w).control j).touched = (d.control j).touched ∧
    ((d.setBusSurface e b v w).control j).pass = (d.control j).pass ∧
    ((d.setBusSurface e b v w).control j).openPass = (d.control j).openPass := by
  obtain ⟨touched, pass, opened⟩ := touch_setSurface e v d (masterId b) j
  obtain ⟨touched', pass', opened'⟩ := touch_setSurface e w (d.setSurface e (masterId b) v) (masterMuteId b) j
  exact ⟨touched'.trans touched, pass'.trans pass, opened'.trans opened⟩

/-- R100, R103: a touch of both bus controls leaves both touched, and every surface value. -/
theorem touched_touchBoth : ((d.touchBoth e b).control (masterId b)).touched = true ∧
    ((d.touchBoth e b).control (masterMuteId b)).touched = true ∧
    ∀ j, ((d.touchBoth e b).control j).surface = (d.control j).surface := by
  have level := notedAt_touchControl e (masterId b) d
  have mute := notedAt_touchControl e (masterMuteId b) (d.touchControl e (masterId b))
  obtain ⟨_, _, kept⟩ := mute.others (masterId b) (masterMuteId_ne_masterId b).symm
  exact ⟨kept.trans (touched_touchControl e _ d), touched_touchControl e _ _,
    fun j => (mute.surface j).trans (level.surface j)⟩

end

/-! ## A drive given (R100, R103) -/

/-- The station `x` drives the bus from now on: its entry, a lease of 0, the surface values `v` and `w`, and both bus controls
touched. -/
structure Given (b : Fin 24) (x : Nat) (v w : Value) (d : Desk) : Prop where
  driver      : (d.homeOf b).driver = some x
  lease       : (d.homeOf b).lease = 0
  level       : (d.control (masterId b)).surface = v
  mute        : (d.control (masterMuteId b)).surface = w
  touched     : (d.control (masterId b)).touched = true
  muteTouched : (d.control (masterMuteId b)).touched = true

theorem Given.made (e : Env) (b : Fin 24) (x : Nat) (v w : Value) (d : Desk) :
    Given b x v w (((d.setDriver b (some x)).setBusSurface e b v w).touchBoth e b) := by
  have frame := (frame_setBusSurface e b v w (d.setDriver b (some x))).andThen (frame_touchBoth e b _)
  obtain ⟨driver, lease, _⟩ := frame.homes b
  rw [homeOf_setDriver_self] at driver lease
  obtain ⟨level, mute⟩ := surface_setBusSurface e b v w (d.setDriver b (some x))
  obtain ⟨touched, muteTouched, surface⟩ := touched_touchBoth e b ((d.setDriver b (some x)).setBusSurface e b v w)
  exact ⟨driver, lease, (surface _).trans level, (surface _).trans mute, touched, muteTouched⟩

/-! ## The end of a drive by a release (R102, R103) -/

theorem release_ends (e : Env) (b : Fin 24) (d : Desk) :
    (((d.setDriver b none).releaseBoth e false b).homeOf b).driver = none ∧
    (((d.setDriver b none).releaseBoth e false b).homeOf b).lease = 0 ∧
    (((d.setDriver b none).releaseBoth e false b).control (masterId b)).touched = false ∧
    (((d.setDriver b none).releaseBoth e false b).control (masterMuteId b)).touched = false := by
  obtain ⟨driver, lease, _⟩ := (frame_releaseBoth e false b (d.setDriver b none)).homes b
  rw [homeOf_setDriver_self] at driver lease
  exact ⟨driver, lease, by rw [touched_releaseBoth, if_pos (.inr rfl)], by rw [touched_releaseBoth, if_pos (.inl rfl)]⟩

/-! ## The answers, by the driver entry -/

section
variable {e : Env} {b : Fin 24} {x y : Nat} {d : Desk}

/-- R100: a CLAIM of a bus that none drives. -/
theorem homeClaim_of_none (h : (d.homeOf b).driver = none) : d.homeClaim e b x =
    (((d.setDriver b (some x)).setBusSurface e b (d.control (masterId b)).applied
      (d.control (masterMuteId b)).applied).touchBoth e b, .granted) := by
  unfold Desk.homeClaim
  rw [h]

/-- R100: a CLAIM of the driver itself. -/
theorem homeClaim_of_driver (h : (d.homeOf b).driver = some x) : d.homeClaim e b x = (d.setDriver b (some x), .granted) := by
  unfold Desk.homeClaim
  rw [h]
  exact if_pos rfl

/-- R100: a CLAIM of a bus that another station drives. -/
theorem homeClaim_of_other (h : (d.homeOf b).driver = some y) (other : y ≠ x) : d.homeClaim e b x = (d, .refused) := by
  unfold Desk.homeClaim
  rw [h]
  exact if_neg other

/-- R101: a DRIVE from the driver. -/
theorem homeDrive_of_driver (h : (d.homeOf b).driver = some x) (v : Value) (m : Bool) : d.homeDrive e b x v m =
    ((d.setBusSurface e b v (muteValue m)).setDriver b (some x), .accepted) := if_pos h

/-- R102: a RELEASE from the driver. -/
theorem homeRelease_of_driver (h : (d.homeOf b).driver = some x) :
    d.homeRelease e b x = ((d.setDriver b none).releaseBoth e false b, .taken) := if_pos h

/-- R103: a touch of a bus at its home that none drives. -/
theorem localClaim_of_none (h : (d.homeOf b).driver = none) : d.localClaim e b =
    ((d.setDriver b (some e.self)).setBusSurface e b (d.homeOf b).level
      (muteValue (d.homeOf b).muted)).touchBoth e b := by
  unfold Desk.localClaim
  rw [h]
  dsimp only
  rw [homeOf_setDriver_self]

/-- R103: a touch of a bus at its home that the station itself drives. -/
theorem localClaim_of_self (h : (d.homeOf b).driver = some e.self) : d.localClaim e b = d := by
  unfold Desk.localClaim
  rw [h]
  exact if_pos rfl

/-- R103: a touch of a bus at its home that another station drives. -/
theorem localClaim_of_other (h : (d.homeOf b).driver = some y) (other : y ≠ e.self) :
    d.localClaim e b = d.raise .claimRefused := by
  unfold Desk.localClaim
  rw [h]
  exact if_neg other

/-- R103: a release of a bus at its home that the station itself drives. -/
theorem localRelease_of_self (h : (d.homeOf b).driver = some e.self) :
    d.localRelease e b = (d.setDriver b none).releaseBoth e false b := if_pos h

end

end Desk

end Sys2Proof.Machine

open Sys2Proof Sys2Proof.Machine

/-- Settles O41: each answer by its driver entry, through what a drive given and a drive ended leave. -/
theorem homeAnswers : Obligations.HomeAnswers := by
  intro e b x d
  refine ⟨fun free => ?_, fun drives => ?_, fun y driven other => Desk.homeClaim_of_other driven other,
    fun drives v m => ?_, fun drives => ?_, fun not => ⟨if_neg not, fun v m => if_neg not⟩, fun free => ?_,
    fun drives => ?_, fun y driven other => Desk.localClaim_of_other driven other, fun not => if_neg not⟩
  · rw [Desk.homeClaim_of_none free]
    have given := Desk.Given.made e b x (d.control (masterId b)).applied (d.control (masterMuteId b)).applied d
    dsimp only
    exact ⟨rfl, given.driver, given.lease, given.level, given.mute, given.touched, given.muteTouched⟩
  · rw [Desk.homeClaim_of_driver drives]
    exact ⟨rfl, Desk.setDriver_of_driver drives⟩
  · rw [Desk.homeDrive_of_driver drives]
    obtain ⟨level, mute⟩ := Desk.surface_setBusSurface e b v (muteValue m) d
    have home := Desk.homeOf_setDriver_self b (some x) (d.setBusSurface e b v (muteValue m))
    dsimp only
    refine ⟨rfl, congrArg Home.driver home, congrArg Home.lease home, ?_⟩
    simp only [Desk.control_setDriver]
    exact ⟨level, mute, Desk.touch_setBusSurface e b v (muteValue m) d⟩
  · rw [Desk.homeRelease_of_driver drives]
    exact ⟨rfl, Desk.release_ends e b d⟩
  · rw [Desk.localClaim_of_none free]
    have given := Desk.Given.made e b e.self (d.homeOf b).level (muteValue (d.homeOf b).muted) d
    exact ⟨given.driver, given.level, given.mute, given.touched, given.muteTouched⟩
  · rw [Desk.localRelease_of_self drives]
    obtain ⟨driver, _, level, mute⟩ := Desk.release_ends e b d
    exact ⟨Desk.localClaim_of_self drives, driver, level, mute⟩
end

section
/-!
The lease of a remote driver (R104) and the keepalive count of a requester (R108) at their last count.
-/

set_option Elab.async false

namespace Sys2Proof.Machine

/-- R50: Queue works on the pending list alone. -/
theorem Note.queue_eq (x : Slot) (k : NoticeKind) (p : BitVec 32) (n : Note) :
    n.queue x k p = { n with pending := (n.queue x k p).pending } := by
  unfold Note.queue
  split <;> rfl

namespace Desk

theorem queue_eq (x : Slot) (k : NoticeKind) (p : BitVec 32) (d : Desk) :
    d.queue x k p = { d with note := { d.note with pending := (d.queue x k p).note.pending } } :=
  congrArg (fun n => { d with note := n }) (Note.queue_eq x k p d.note)

variable {e : Env} {b : Fin 24} {d : Desk}

/-- R104: the sample event at which the lease of a remote driver comes to 2048. -/
theorem leaseStep_of_last {x : Nat} (driven : (d.homeOf b).driver = some x) (remote : x ≠ e.self)
    (last : (d.homeOf b).lease = 2047) : d.leaseStep e b = d.loseDriver e b := by
  unfold Desk.leaseStep
  dsimp only
  rw [driven, last]
  exact (if_neg remote).trans (if_pos (by decide))

theorem sameSettings_loseDriver (e : Env) (b : Fin 24) (d : Desk) : SameSettings d (d.loseDriver e b) :=
  (SameSettings.same d).andThen (b := d.setDriver b none)
    ((frame_releaseBoth e true b _).andThen (frame_raise .driveLost _)).sameSettings

/-- R108: the sample event at which the keepalive count of a driving requester comes to 512. -/
theorem keepaliveStep_of_last (driving : (d.reqOf b).claim = .driving) (last : (d.reqOf b).keepalive = 511) :
    d.keepaliveStep b = (d.setReq b { d.reqOf b with keepalive := 512 }).queueDrive b := by
  have counts : ((d.reqOf b).claim = .driving ∨ (d.reqOf b).claim = .releasing) ∧ (d.reqOf b).keepalive < 512 :=
    ⟨.inl driving, by omega⟩
  unfold Desk.keepaliveStep
  dsimp only
  rw [if_pos counts, if_pos ⟨last, driving⟩, last]

/-- R108: a DRIVE queued behind a requester written carries that requester's local surface values. -/
theorem waiting_queueDrive_setReq (b : Fin 24) (r : Requester) (d : Desk) :
    ((d.setReq b r).queueDrive b).note.waiting? (.drive b) =
      some { slot := .drive b, kind := .drive, payload := levelPayload r.level r.muted } := by
  simp [Desk.queueDrive]

end Desk

namespace State

variable {s : State} {b : Fin 24}

theorem exec_leaseExpiry {x : Nat} (live : s.clocked) (homed : s.env.homesBus b = true)
    (driven : (s.desk.homeOf b).driver = some x) (remote : x ≠ s.self) (last : (s.desk.homeOf b).lease = 2047) :
    exec (.leaseExpiry b) s = .next { s with desk := s.desk.loseDriver s.env b } := by
  have due : s.leaseDue b = true := by
    unfold State.leaseDue
    rw [homed, last, driven]
    simpa using remote
  rw [← Desk.leaseStep_of_last (e := s.env) driven remote last]
  exact congrArg Host.Outcome.next (part_of_clocked live due _)

theorem exec_keepalive (live : s.clocked) (away : s.env.requestsBus b = true)
    (driving : (s.desk.reqOf b).claim = .driving) (last : (s.desk.reqOf b).keepalive = 511) :
    exec (.keepalive b) s = .next { s with
      desk := (s.desk.setReq b { s.desk.reqOf b with keepalive := 512 }).queueDrive b } := by
  have due : (s.env.requestsBus b && (s.desk.reqOf b).claim == .driving && (s.desk.reqOf b).keepalive == 511) = true := by
    rw [away, driving, last]
    rfl
  rw [← Desk.keepaliveStep_of_last driving last]
  exact congrArg Host.Outcome.next (part_of_clocked live due _)

end State

end Sys2Proof.Machine

open Sys2Proof Sys2Proof.Machine

/-- Settles O42: the lease's last count loses the driver, and the keepalive's last count queues a DRIVE. -/
theorem leaseAndKeepalive : Obligations.LeaseAndKeepalive := by
  refine ⟨fun s b x live homed driven remote last => ?_, fun s b live away driving last => ?_⟩
  · have lost := Desk.DriveOver.made (b := b) s.env s.desk
    obtain ⟨reqs, _⟩ := Desk.loseDriver_rest s.env b s.desk
    refine ⟨_, State.exec_leaseExpiry live homed driven remote last, lost.driver, lost.lease, lost.level, lost.mute, lost.flag,
      fun c other => ?_, reqs, Desk.sameSettings_loseDriver s.env b s.desk, rfl⟩
    obtain ⟨driver, lease, _⟩ := Desk.loseDriver_home s.env b c s.desk
    exact ⟨driver.trans (if_neg other), lease.trans (if_neg other)⟩
  · refine ⟨_, State.exec_keepalive live away driving last, (Desk.reqOf_setReq b b _ _).trans (if_pos rfl),
      fun c other => (Desk.reqOf_setReq b c _ _).trans (if_neg other), Desk.waiting_queueDrive_setReq b _ s.desk,
      fun y other => Note.waiting?_queue_of_ne other _ _ s.desk.note, ?_, rfl⟩
    exact Desk.queue_eq _ _ _ (s.desk.setReq b _)
end

section
/-!
The requester by its claim state (R106 to R110): what a touch, a release, a return and a placement make of it and of its slots.
-/

set_option Elab.async false

namespace Sys2Proof.Machine

namespace Desk

/-! ## What the requester queues -/

section
variable (b : Fin 24) (r : Requester) (d : Desk)

theorem reqOf_setReq_self : (d.setReq b r).reqOf b = r := (reqOf_setReq b b r d).trans (if_pos rfl)

/-- A DRIVE queued leaves the requester, and what waits in its CLAIM's slot. -/
theorem reqOf_queueDrive : (d.queueDrive b).reqOf b = d.reqOf b := rfl

theorem waiting_claim_queueDrive : (d.queueDrive b).note.waiting? (.claim b) = d.note.waiting? (.claim b) :=
  Note.waiting?_queue_of_ne (by simp) _ _ _

theorem kind_queueClaim : ((d.queueClaim b).note.waiting? (.claim b)).map (·.kind) = some .claim := by
  simp [Desk.queueClaim]

theorem kind_queueRelease : ((d.queueRelease b).note.waiting? (.claim b)).map (·.kind) = some .release := by
  simp [Desk.queueRelease]

end

section
variable {b : Fin 24} {d : Desk}

/-! ## The return of a CLAIM (R107) -/

/-- R107: the CLAIM is granted. -/
theorem claimReturn_of_granted (h : (d.reqOf b).claim = .claiming) : d.claimReturn b .granted =
    (d.setReq b { d.reqOf b with claim := .driving, keepalive := 0 }).queueDrive b := by
  unfold Desk.claimReturn
  dsimp only
  rw [h]
  rfl

/-- R107: the CLAIM is refused. -/
theorem claimReturn_of_refused (h : (d.reqOf b).claim = .claiming) :
    d.claimReturn b .refused = Desk.raise .claimRefused (d.setClaim b .none) := by
  unfold Desk.claimReturn
  dsimp only
  rw [h]
  rfl

/-- R107: a CLAIM that is no longer wanted is granted. -/
theorem claimReturn_of_granted_cancelling (h : (d.reqOf b).claim = .cancelling) : d.claimReturn b .granted =
    (d.queueRelease b).setReq b { d.reqOf b with claim := .releasing, deferred := false } := by
  unfold Desk.claimReturn
  dsimp only
  rw [h]
  rfl

/-- R107: a CLAIM that is no longer wanted comes to nothing. -/
theorem claimReturn_of_cancelling {m : Mark} (h : (d.reqOf b).claim = .cancelling) (not : claimAnswer m ≠ .granted) :
    d.claimReturn b m = d.setClaim b .none := by
  unfold Desk.claimReturn
  dsimp only
  rw [h]
  rcases answer : claimAnswer m
  · exact absurd answer not
  · rfl
  · rfl

/-! ## The return of a DRIVE and of a RELEASE (R109, R110) -/

theorem driveReturn_of_kept {m : Mark} (h : (d.reqOf b).claim ≠ .driving ∨ driveEnds m = false) :
    d.driveReturn b m = d := by
  refine if_neg fun ⟨driving, ends⟩ => ?_
  rcases h with idle | goes_on
  · exact idle driving
  · rw [goes_on] at ends
    cases ends

theorem driveReturn_of_ended {m : Mark} (h : (d.reqOf b).claim = .driving) (ends : driveEnds m = true) :
    d.driveReturn b m = d.dropDrive b := if_pos ⟨h, ends⟩

/-- R110: the RELEASE is over, and the CLAIM queued behind it is awaited. -/
theorem releaseReturn_of_reclaim (h : (d.reqOf b).claim = .releasing) (reclaim : (d.reqOf b).reclaim = true) :
    d.releaseReturn b = d.setReq b { d.reqOf b with claim := .claiming, reclaim := false } :=
  (if_pos h).trans (if_pos reclaim)

/-- R110: the RELEASE is over, and no CLAIM stands behind it. -/
theorem releaseReturn_of_idle (h : (d.reqOf b).claim = .releasing) (idle : (d.reqOf b).reclaim = false) :
    d.releaseReturn b = d.setClaim b .none :=
  (if_pos h).trans (if_neg (by rw [idle]; exact Bool.false_ne_true))

/-! ## A touch, by the claim state (R106) -/

theorem reqTouch_of_none (h : (d.reqOf b).claim = .none) : d.reqTouch b = (d.queueClaim b).setClaim b .claiming := by
  unfold Desk.reqTouch
  dsimp only
  rw [h]

theorem reqTouch_of_cancelling (h : (d.reqOf b).claim = .cancelling) : d.reqTouch b = d.setClaim b .claiming := by
  unfold Desk.reqTouch
  dsimp only
  rw [h]

/-- R106: the RELEASE is not yet queued. -/
theorem reqTouch_of_deferred (h : (d.reqOf b).claim = .releasing) (deferred : (d.reqOf b).deferred = true) :
    d.reqTouch b = d.driveAgain b := by
  unfold Desk.reqTouch
  dsimp only
  rw [h]
  exact if_pos deferred

/-- R106: the RELEASE waits still. -/
theorem reqTouch_of_waiting {w : Waiting} (h : (d.reqOf b).claim = .releasing) (queued : (d.reqOf b).deferred = false)
    (waits : d.note.waiting? (.claim b) = some w) (release : w.kind = .release) :
    d.reqTouch b = (d.withdraw (.claim b)).driveAgain b := by
  unfold Desk.reqTouch
  dsimp only
  rw [h, queued, waits]
  exact if_pos release

/-- R106: the RELEASE has left. -/
theorem reqTouch_of_left (h : (d.reqOf b).claim = .releasing) (queued : (d.reqOf b).deferred = false)
    (left : d.note.waiting? (.claim b) = none) :
    d.reqTouch b = (d.queueClaim b).setReq b { d.reqOf b with reclaim := true } := by
  unfold Desk.reqTouch
  dsimp only
  rw [h, queued, left]
  rfl

/-- R106: the requester drives again, and its DRIVE waits with its local surface values. -/
theorem reqOf_driveAgain : (d.driveAgain b).reqOf b = { d.reqOf b with claim := .driving, deferred := false } :=
  reqOf_setReq_self b _ d

theorem waiting_driveAgain : (d.driveAgain b).note.waiting? (.drive b) =
    some { slot := .drive b, kind := .drive, payload := levelPayload (d.reqOf b).level (d.reqOf b).muted } :=
  waiting_queueDrive_setReq b _ d

/-! ## A release, by the claim state (R107, R110) -/

theorem reqRelease_of_none (h : (d.reqOf b).claim = .none) : d.reqRelease b = d := by
  unfold Desk.reqRelease
  dsimp only
  rw [h]

/-- R107: the CLAIM waits still. -/
theorem reqRelease_of_waiting (h : (d.reqOf b).claim = .claiming) (waits : (d.note.waiting? (.claim b)).isSome = true) :
    d.reqRelease b = (d.withdraw (.claim b)).setClaim b .none := by
  unfold Desk.reqRelease
  dsimp only
  rw [h]
  exact if_pos waits

/-- R107: the CLAIM has left. -/
theorem reqRelease_of_left (h : (d.reqOf b).claim = .claiming) (left : d.note.waiting? (.claim b) = none) :
    d.reqRelease b = d.setClaim b .cancelling := by
  unfold Desk.reqRelease Desk.waits
  dsimp only
  rw [h, left]
  rfl

/-- R110: a DRIVE waits still, and the RELEASE is put off. -/
theorem reqRelease_of_changed (h : (d.reqOf b).claim = .driving) (waits : (d.note.waiting? (.drive b)).isSome = true) :
    d.reqRelease b = d.setReq b { d.reqOf b with claim := .releasing, deferred := true } := by
  unfold Desk.reqRelease
  dsimp only
  rw [h]
  exact if_pos waits

/-- R110: no DRIVE waits. -/
theorem reqRelease_of_driving (h : (d.reqOf b).claim = .driving) (told : d.note.waiting? (.drive b) = none) :
    d.reqRelease b = (d.queueRelease b).setReq b { d.reqOf b with claim := .releasing, deferred := false } := by
  unfold Desk.reqRelease Desk.waits
  dsimp only
  rw [h, told]
  rfl

/-- R110: the reclaim is taken back. -/
theorem reqRelease_of_reclaim (h : (d.reqOf b).claim = .releasing) (reclaim : (d.reqOf b).reclaim = true) :
    d.reqRelease b = (d.withdraw (.claim b)).setReq b { d.reqOf b with reclaim := false } := by
  unfold Desk.reqRelease
  dsimp only
  rw [h]
  exact if_pos reclaim

theorem reqRelease_of_releasing (h : (d.reqOf b).claim = .releasing) (idle : (d.reqOf b).reclaim = false) :
    d.reqRelease b = d := by
  unfold Desk.reqRelease
  dsimp only
  rw [h, idle]
  rfl

/-! ## The placement of a DRIVE (R108, R110) -/

theorem drivePlaced_of_deferred (h : (d.reqOf b).claim = .releasing) (deferred : (d.reqOf b).deferred = true) :
    d.drivePlaced b = ((d.setReq b { d.reqOf b with keepalive := 0 }).queueRelease b).setReq b
      { d.reqOf b with keepalive := 0, deferred := false } := if_pos ⟨h, deferred⟩

theorem keepalive_drivePlaced : ((d.drivePlaced b).reqOf b).keepalive = 0 := by
  unfold Desk.drivePlaced
  dsimp only
  split
  · rw [reqOf_setReq_self]
  · rw [reqOf_setReq_self]

end

end Desk

end Sys2Proof.Machine

open Sys2Proof Sys2Proof.Machine

/-- Settles O43: each operation of the requester by its claim state. -/
theorem requesterReturns : Obligations.RequesterReturns := by
  intro b d
  refine ⟨fun claiming => ?_, fun cancelling => ?_, fun driving => ?_, fun m idle => Desk.driveReturn_of_kept (.inl idle),
    fun releasing => ?_, fun unclaimed => ?_, Desk.reqTouch_of_cancelling, fun releasing not_left => ?_,
    fun releasing queued left => ?_, fun claiming => ⟨fun waits => ?_, Desk.reqRelease_of_left claiming⟩,
    fun driving => ⟨fun told => ?_, Desk.reqRelease_of_changed driving⟩,
    fun releasing => ⟨fun reclaim => ?_, Desk.reqRelease_of_releasing releasing⟩, Desk.keepalive_drivePlaced,
    fun releasing deferred => ?_⟩
  · rw [Desk.claimReturn_of_granted claiming, Desk.claimReturn_of_refused claiming, Desk.claimReturn_of_unanswered claiming]
    simp [Desk.waiting_queueDrive_setReq, Desk.reqOf_queueDrive, Desk.setClaim]
  · rw [Desk.claimReturn_of_granted_cancelling cancelling, Desk.claimReturn_of_cancelling cancelling (m := .refused) nofun,
      Desk.claimReturn_of_cancelling cancelling (m := .none) nofun]
    simp [Desk.kind_queueRelease, Desk.setClaim]
  · have lost := Desk.ClaimOver.made b d
    rw [Desk.driveReturn_of_ended (m := .ignored) driving rfl]
    exact ⟨Desk.driveReturn_of_kept (.inr rfl), Desk.driveReturn_of_kept (.inr rfl), lost.claim, lost.flag, lost.waiting⟩
  · rcases reclaim : (d.reqOf b).reclaim
    · rw [Desk.releaseReturn_of_idle releasing reclaim, Desk.setClaim, Desk.reqOf_setReq_self]
      exact ⟨rfl, reclaim⟩
    · rw [Desk.releaseReturn_of_reclaim releasing reclaim, Desk.reqOf_setReq_self]
      exact ⟨rfl, rfl⟩
  · rw [Desk.reqTouch_of_none unclaimed]
    exact ⟨congrArg Requester.claim (Desk.reqOf_setReq_self b _ _), Desk.kind_queueClaim b d, Desk.reqRelease_of_none unclaimed⟩
  · rcases deferred : (d.reqOf b).deferred
    · obtain ⟨w, waits, release⟩ := not_left.resolve_left (by rw [deferred]; exact Bool.false_ne_true)
      rw [Desk.reqTouch_of_waiting releasing deferred waits release, Desk.reqOf_driveAgain, Desk.waiting_driveAgain]
      exact ⟨rfl, rfl, fun _ => (Desk.waiting_claim_queueDrive b _).trans (Note.waiting?_withdraw_self _ d.note), rfl⟩
    · rw [Desk.reqTouch_of_deferred releasing deferred, Desk.reqOf_driveAgain, Desk.waiting_driveAgain]
      exact ⟨rfl, rfl, nofun, rfl⟩
  · rw [Desk.reqTouch_of_left releasing queued left, Desk.reqOf_setReq_self]
    exact ⟨releasing, rfl, Desk.kind_queueClaim b d, Note.queue_flight _ _ _ d.note⟩
  · rw [Desk.reqRelease_of_waiting claiming waits]
    exact ⟨congrArg Requester.claim (Desk.reqOf_setReq_self b _ _), Note.waiting?_withdraw_self _ d.note⟩
  · rw [Desk.reqRelease_of_driving driving told, Desk.reqOf_setReq_self]
    exact ⟨rfl, rfl, Desk.kind_queueRelease b d⟩
  · rw [Desk.reqRelease_of_reclaim releasing reclaim, Desk.reqOf_setReq_self]
    exact ⟨releasing, rfl, Note.waiting?_withdraw_self _ d.note⟩
  · rw [Desk.drivePlaced_of_deferred releasing deferred, Desk.reqOf_setReq_self]
    exact ⟨rfl, releasing, Desk.kind_queueRelease b _⟩
end

section
/-!
The pass states, the open-pass count, the reservations and the pass record queue agree (R122, R164): what each operation of AUTO
does to the four, and that every row keeps the agreement.
-/

set_option Elab.async false

namespace Sys2Proof.Machine

namespace Desk

/-! ## The open passes counted -/

theorem toList_controls (d : Desk) : d.auto.controls.toList = (List.finRange 176).map d.control := by
  refine List.ext_getElem (by simp) fun i _ _ => ?_
  simp [Desk.control]

theorem openPasses_eq (d : Desk) :
    d.auto.openPasses = (List.finRange 176).countP fun c => (d.control c).openPass.isSome := by
  unfold Auto.openPasses
  rw [toList_controls, List.countP_map]
  rfl

theorem openPasses_congr {d d' : Desk}
    (h : ∀ c, (d'.control c).openPass.isSome = (d.control c).openPass.isSome) : d'.auto.openPasses = d.auto.openPasses := by
  rw [openPasses_eq, openPasses_eq]
  exact List.countP_congr fun c _ => by rw [h c]

/-- Where one control's pass has opened or closed, the number of open passes moves by that pass. -/
theorem openPasses_change {c : Fin 176} {d d' : Desk}
    (others : ∀ j, j ≠ c → (d'.control j).openPass.isSome = (d.control j).openPass.isSome) :
    d'.auto.openPasses + (d.control c).openPass.isSome.toNat =
      d.auto.openPasses + (d'.control c).openPass.isSome.toNat := by
  have run : ∀ l : List (Fin 176), l.Nodup → c ∈ l →
      (l.countP fun j => (d'.control j).openPass.isSome) + (d.control c).openPass.isSome.toNat =
        (l.countP fun j => (d.control j).openPass.isSome) + (d'.control c).openPass.isSome.toNat := by
    intro l
    induction l with
    | nil => exact fun _ h => by cases h
    | cons j l ih =>
      intro nodup mem
      obtain ⟨fresh, nodup⟩ := List.nodup_cons.mp nodup
      rw [List.countP_cons, List.countP_cons]
      by_cases here : j = c
      · subst here
        have rest : (l.countP fun k => (d'.control k).openPass.isSome) = l.countP fun k => (d.control k).openPass.isSome :=
          List.countP_congr fun k hk => by rw [others k fun same => fresh (same ▸ hk)]
        rw [rest]
        cases (d'.control j).openPass.isSome <;> cases (d.control j).openPass.isSome <;> simp
      · have found := ih nodup ((List.mem_cons.mp mem).resolve_left (Ne.symm here))
        rw [others j here]
        omega
  rw [openPasses_eq, openPasses_eq]
  exact run _ (List.nodup_finRange 176) (List.mem_finRange c)

/-! ## Operations that neither open nor close a pass -/

/-- No pass has opened or closed, and no record has joined or left the queue. -/
structure SamePasses (d d' : Desk) : Prop where
  opened   : ∀ c, (d'.control c).openPass.isSome = (d.control c).openPass.isSome
  pass     : ∀ c, (d'.control c).pass.isOpen = (d.control c).pass.isOpen
  count    : d'.auto.openCount = d.auto.openCount
  reserved : d'.take.reserved = d.take.reserved
  queue    : d'.take.queue = d.take.queue

theorem SamePasses.andThen {a b c : Desk} (h : SamePasses a b) (k : SamePasses b c) : SamePasses a c :=
  ⟨fun j => (k.opened j).trans (h.opened j), fun j => (k.pass j).trans (h.pass j), k.count.trans h.count,
    k.reserved.trans h.reserved, k.queue.trans h.queue⟩

theorem SamePasses.passInv {d d' : Desk} (same : SamePasses d d') (h : d.passInv) : d'.passInv := by
  obtain ⟨states, count, reserved, room⟩ := h
  refine ⟨fun c => ?_, ?_, ?_, ?_⟩
  · rw [same.opened, same.pass, states]
  · rw [same.count, count, openPasses_congr same.opened]
  · rw [same.reserved, same.count, reserved]
  · rw [same.queue, same.reserved]
    exact room

theorem SamePasses.of_control {c : Fin 176} {x : Control} {d d' : Desk}
    (control : ∀ j, d'.control j = if j = c then x else d.control j)
    (opened : x.openPass.isSome = (d.control c).openPass.isSome) (pass : x.pass.isOpen = (d.control c).pass.isOpen)
    (count : d'.auto.openCount = d.auto.openCount) (reserved : d'.take.reserved = d.take.reserved)
    (queue : d'.take.queue = d.take.queue) : SamePasses d d' := by
  refine ⟨fun j => ?_, fun j => ?_, count, reserved, queue⟩
  all_goals
    rw [control]
    split
    · next here => rw [here]; assumption
    · rfl

theorem SamePasses.setControl {c : Fin 176} {x : Control} {d : Desk}
    (opened : x.openPass.isSome = (d.control c).openPass.isSome) (pass : x.pass.isOpen = (d.control c).pass.isOpen) :
    SamePasses d (d.setControl c x) :=
  .of_control (fun j => control_setControl c j x d) opened pass rfl rfl rfl

theorem passInv_setControl {c : Fin 176} {x : Control} {d : Desk} (h : d.passInv)
    (opened : x.openPass.isSome = (d.control c).openPass.isSome) (pass : x.pass.isOpen = (d.control c).pass.isOpen) :
    (d.setControl c x).passInv := (SamePasses.setControl opened pass).passInv h

theorem setControl_control (c : Fin 176) (d : Desk) : d.setControl c (d.control c) = d := by
  simp [Desk.setControl, Desk.control]

/-- R120: of AUTO an applied value changes its own control's record alone, and TAKE stays. -/
theorem auto_apply (e : Env) (c : Fin 176) (v : Value) (d : Desk) :
    (d.apply e c v).auto = (d.setControl c { d.control c with applied := v }).auto := by
  unfold Desk.apply
  split
  · next same =>
    subst same
    exact congrArg Desk.auto (setControl_control c d).symm
  · obtain ⟨auto, _⟩ := auto_handOn e c (d.setControl c { d.control c with applied := v })
    exact auto

theorem samePasses_apply (e : Env) (c : Fin 176) (v : Value) (d : Desk) : SamePasses d (d.apply e c v) := by
  obtain ⟨take, control⟩ := control_apply e c v d
  exact .of_control control rfl rfl (by rw [auto_apply]; rfl) (by rw [take]) (by rw [take])

theorem samePasses_decideApplied (e : Env) (c : Fin 176) (d : Desk) : SamePasses d (d.decideApplied e c) :=
  samePasses_apply e c _ d

/-- R125: a move handed to TAKE leaves the passes open and the counts of AUTO and TAKE. -/
theorem counts_appendMove (c : Fin 176) (t : Tick) (d : Desk) :
    (d.appendMove c t).auto.openCount = d.auto.openCount ∧ (d.appendMove c t).take.queue = d.take.queue := by
  have kept := Take.queue_accept t c (d.control c).applied d.take
  unfold Desk.appendMove
  dsimp only
  split
  all_goals
    next k fate => exact ⟨rfl, (congrArg (fun x => x.1.queue) fate).symm.trans kept⟩

theorem samePasses_appendMove (c : Fin 176) (t : Tick) (d : Desk) : SamePasses d (d.appendMove c t) := by
  obtain ⟨lost, control⟩ := control_appendMove c t d
  obtain ⟨count, queue⟩ := counts_appendMove c t d
  obtain ⟨_, _, reserved⟩ := rest_appendMove c t d
  refine ⟨fun j => ?_, fun j => ?_, count, reserved, queue⟩
  all_goals
    rw [control]
    split
    · next here => rw [here]; simp [Control.damagedIf, Control.movedTo]
    · simp [Control.damagedIf]

/-! ## A pass opens or closes -/

/-- R124, R164: a pass opens where the control has none and the queue has room. -/
theorem passInv_openPass {c : Fin 176} {t : Tick} {d : Desk} (h : d.passInv) (closed : (d.control c).pass.isOpen = false)
    (room : d.take.room = true) : (d.openPass c t).passInv := by
  obtain ⟨states, count, reserved, _⟩ := h
  have none_open : (d.control c).openPass.isSome = false := (states c).trans closed
  have control : ∀ j, (d.openPass c t).control j =
      if j = c then { d.control c with openPass := some (d.openedPass c t), pass := .writing } else d.control j :=
    fun j => control_setControl c j _ d
  have count_opened : (d.openPass c t).auto.openCount = d.auto.openCount + 1 := rfl
  have reserved_opened : (d.openPass c t).take.reserved = d.take.reserved + 1 := rfl
  have passes_opened : (d.openPass c t).auto.openPasses = d.auto.openPasses + 1 := by
    have change := openPasses_change (c := c) (d := d) (d' := d.openPass c t) fun j other => by rw [control, if_neg other]
    rw [none_open, control, if_pos rfl] at change
    exact change
  have queue_opened : (d.openPass c t).take.queue = d.take.queue := rfl
  have place : d.take.queue.length + d.take.reserved < 32 := of_decide_eq_true room
  refine ⟨fun j => ?_, ?_, ?_, ?_⟩
  · rw [control]
    split
    · rfl
    · exact states j
  · rw [count_opened, passes_opened, count]
  · rw [reserved_opened, count_opened, reserved]
  · rw [queue_opened, reserved_opened]
    omega

/-- R132, R164: a pass closed lowers the open-pass count, and gives up its place in the queue. -/
theorem closePass_of_some {e : Env} {r : CloseReason} {c : Fin 176} {d : Desk} {p : OpenPass}
    (h : (d.control c).openPass = some p) : (d.closePass e r c).auto.openCount = d.auto.openCount - 1 ∧
      (d.closePass e r c).take.reserved = d.take.reserved - 1 := by
  have counts : ∀ u : Desk, u.countClosed.auto.openCount = u.auto.openCount - 1 ∧
      u.countClosed.take.reserved = u.take.reserved := by
    intro u
    unfold Desk.countClosed
    dsimp only
    split
    · exact ⟨rfl, Take.reserved_closeOpen u.take⟩
    · exact ⟨rfl, rfl⟩
  unfold Desk.closePass
  dsimp only
  rw [h]
  dsimp only
  rw [(samePasses_decideApplied e c _).count, (samePasses_decideApplied e c _).reserved, (counts _).1, (counts _).2]
  exact ⟨rfl, rfl⟩

/-- R132: without an open pass there is nothing to close. -/
theorem closePass_of_none {e : Env} {r : CloseReason} {c : Fin 176} {d : Desk} (h : (d.control c).openPass = none) :
    d.closePass e r c = d := by
  unfold Desk.closePass
  dsimp only
  rw [h]

theorem isOpen_restState (x : Control) : x.restState.isOpen = false := by
  obtain ⟨mode, _, _, touched, _, _, _, _, _, _, _⟩ := x
  cases mode <;> cases touched <;> rfl

theorem passInv_closePass (e : Env) (r : CloseReason) (c : Fin 176) {d : Desk} (h : d.passInv) :
    (d.closePass e r c).passInv := by
  rcases open_c : (d.control c).openPass with _ | p
  · rw [closePass_of_none open_c]
    exact h
  · obtain ⟨states, count, reserved, room⟩ := h
    obtain ⟨queue_closed, opened⟩ := closePass_passes e r c d
    obtain ⟨count_closed, reserved_closed⟩ := closePass_of_some (e := e) (r := r) open_c
    have passes_closed : (d.closePass e r c).auto.openPasses + 1 = d.auto.openPasses := by
      have change := openPasses_change (c := c) (d := d) (d' := d.closePass e r c) fun j other => by
        rw [opened, if_neg other]
      rw [open_c, opened, if_pos rfl] at change
      exact change
    refine ⟨fun j => ?_, ?_, ?_, ?_⟩
    · rw [control_closePass]
      split
      · rw [Control.closed_of_some open_c]
        exact (isOpen_restState _).symm
      · exact states j
    · rw [count_closed]
      omega
    · rw [reserved_closed, count_closed, reserved]
    · rw [queue_closed, reserved_closed, open_c]
      simp only [Option.map_some, Option.toList_some, List.length_append, List.length_singleton]
      omega

theorem passInv_each {α : Type} {f : α → Desk → Desk} (h : ∀ a d, Desk.passInv d → (f a d).passInv) (l : List α)
    {d : Desk} (inv : d.passInv) : (d.each l f).passInv := each_keeps h l inv

theorem passInv_closeAll (e : Env) (r : CloseReason) {d : Desk} (h : d.passInv) : (d.closeAll e r).passInv :=
  passInv_each (fun c _ => passInv_closePass e r c) _ h

theorem passInv_takeEvent (e : Env) (v : PosEvent) {d : Desk} (h : d.passInv) : (d.takeEvent e v).passInv := by
  cases v
  case roll | framing => exact h
  all_goals exact passInv_closeAll e _ h

/-! ## Touch and release (R126 to R128) -/

theorem passInv_decideApplied (e : Env) (c : Fin 176) {d : Desk} (h : d.passInv) : (d.decideApplied e c).passInv :=
  (samePasses_decideApplied e c d).passInv h

theorem passInv_setSurface (e : Env) (c : Fin 176) (v : Value) {d : Desk} (h : d.passInv) : (d.setSurface e c v).passInv :=
  passInv_decideApplied e c (passInv_setControl h (by rfl) (by rfl))

theorem passInv_openBetween (e : Env) {c : Fin 176} (t : Tick) {d : Desk} (h : d.passInv)
    (closed : (d.control c).pass.isOpen = false) (room : d.take.room = true) : (d.openBetween e c t).passInv := by
  have opened := passInv_decideApplied e c (passInv_openPass (t := t) h closed room)
  unfold Desk.openBetween
  dsimp only
  split
  · exact opened
  · exact (samePasses_appendMove c t _).passInv opened

theorem passInv_prime (e : Env) {c : Fin 176} {d : Desk} (h : d.passInv) (closed : (d.control c).pass.isOpen = false) :
    (d.prime e c).passInv := passInv_decideApplied e c (passInv_setControl h (by rfl) (by exact closed.symm))

theorem passInv_touchIdle (e : Env) {c : Fin 176} {d : Desk} (h : d.passInv) (closed : (d.control c).pass.isOpen = false) :
    (d.touchIdle e c).passInv := by
  unfold Desk.touchIdle
  split
  · split
    · split
      · next room => exact passInv_openBetween e _ h closed room
      · exact passInv_prime (d := d.raise .passFull) e h closed
    · exact passInv_prime e h closed
  · exact passInv_prime e h closed

theorem passInv_takeBack (e : Env) {c : Fin 176} {d : Desk} (h : d.passInv) (open_c : (d.control c).pass.isOpen = true) :
    (d.takeBack e c).passInv :=
  passInv_decideApplied e c (passInv_setControl h (by simp) (by exact open_c.symm))

theorem passInv_touchControl (e : Env) (c : Fin 176) {d : Desk} (h : d.passInv) : (d.touchControl e c).passInv := by
  have touched : (d.setControl c { d.control c with touched := true }).passInv := passInv_setControl h (by rfl) (by rfl)
  unfold Desk.touchControl
  dsimp only
  split
  case h_1 pass | h_2 pass => exact passInv_touchIdle e touched (by rw [pass]; rfl)
  case h_3 pass | h_4 pass | h_5 pass | h_6 pass => exact passInv_takeBack e touched (by rw [pass]; rfl)
  case h_7 => exact touched

theorem passInv_beginGlide (e : Env) {c : Fin 176} {d : Desk} (h : d.passInv) (open_c : (d.control c).pass.isOpen = true) :
    (d.beginGlide e c).passInv := by
  unfold Desk.beginGlide
  dsimp only
  split
  · exact passInv_closePass e _ c h
  · exact passInv_setControl h (by simp) (by exact open_c.symm)

theorem passInv_releaseControl (e : Env) (lost : Bool) (c : Fin 176) {d : Desk} (h : d.passInv) :
    (d.releaseControl e lost c).passInv := by
  have released : (d.setControl c ((d.control c).released lost)).passInv :=
    passInv_setControl h (by simp [Control.released]) (by rfl)
  unfold Desk.releaseControl
  dsimp only
  rw [releaseMarked_eq]
  split
  · next pass => exact passInv_beginGlide e released (by rw [pass]; rfl)
  · next pass => exact passInv_setControl released (by rfl) (by rw [pass]; rfl)
  · next pass => exact passInv_decideApplied e c (passInv_setControl released (by rfl) (by rw [pass]; rfl))
  · next pass => exact passInv_decideApplied e c (passInv_setControl released (by rfl) (by rw [pass]; rfl))
  · exact released

/-- R122, R164: no part of a sample event but POS's breaks the agreement. -/
theorem reached_passInv : Desk.Reached fun d d' => d.passInv → d'.passInv where
  clear auto take := by
    have controls : ∀ {d d' : Desk}, d'.auto = d.auto → ∀ c, d'.control c = d.control c := fun auto c => by
      unfold Desk.control
      rw [auto]
    exact SamePasses.passInv ⟨fun c => by rw [controls auto], fun c => by rw [controls auto], by rw [auto], by rw [take],
      by rw [take]⟩
  andThen h k inv := k (h inv)
  touch e c _ := passInv_touchControl e c
  release e lost c _ := passInv_releaseControl e lost c
  surface e c v _ := passInv_setSurface e c v

/-! ## One tick (R138) -/

theorem passInv_tickAbort (e : Env) (t : MadeTick) {d : Desk} (h : d.passInv) : (d.tickAbort e t).passInv := by
  unfold Desk.tickAbort
  split
  · have closed := passInv_closeAll e .abort h
    unfold Desk.fireAbort
    dsimp only
    generalize d.closeAll e .abort = u at closed ⊢
    exact closed
  · exact h

theorem passInv_tickWindow (e : Env) (t : MadeTick) {d : Desk} (h : d.passInv) : (d.tickWindow e t).passInv := by
  unfold Desk.tickWindow
  split
  · split
    · exact passInv_closeAll e _ h
    · exact h
  · exact h

theorem samePasses_takePlayback (e : Env) (t : Tick) (c : Fin 176) (d : Desk) : SamePasses d (d.takePlayback e t c) := by
  unfold Desk.takePlayback
  split
  · exact .setControl rfl rfl
  · exact ⟨fun _ => rfl, fun _ => rfl, rfl, rfl, rfl⟩

theorem samePasses_tickGlide (c : Fin 176) (d : Desk) : SamePasses d (d.tickGlide c) := by
  unfold Desk.tickGlide
  dsimp only
  split
  · exact .setControl rfl rfl
  · exact ⟨fun _ => rfl, fun _ => rfl, rfl, rfl, rfl⟩

theorem passInv_tickPunchIn (e : Env) (t : Tick) (c : Fin 176) {d : Desk} (h : d.passInv) :
    (d.tickPunchIn e t c).passInv := by
  unfold Desk.tickPunchIn
  split
  · next primed =>
    split
    · next room => exact passInv_openPass h (by rw [primed.1]; rfl) room
    · exact h
  · exact h

theorem samePasses_tickApplied (e : Env) (c : Fin 176) (d : Desk) : SamePasses d (d.tickApplied e c) := by
  unfold Desk.tickApplied
  dsimp only
  split
  · exact samePasses_apply e c _ d
  · exact samePasses_decideApplied e c d

theorem samePasses_tickMove (e : Env) (t : Tick) (opened : Bool) (c : Fin 176) (d : Desk) :
    SamePasses d (d.tickMove e t opened c) := by
  unfold Desk.tickMove
  dsimp only
  split
  · split
    · exact (samePasses_appendMove c t d).andThen (.setControl (by simp) rfl)
    · exact .setControl (by simp) rfl
  · exact ⟨fun _ => rfl, fun _ => rfl, rfl, rfl, rfl⟩

theorem passInv_tickGlideEnd (e : Env) (c : Fin 176) {d : Desk} (h : d.passInv) : (d.tickGlideEnd e c).passInv := by
  unfold Desk.tickGlideEnd
  split
  · split
    · exact passInv_closePass e _ c h
    · exact h
  · exact h

theorem samePasses_ageMoves (d : Desk) : SamePasses d d.ageMoves := by
  have control : ∀ c, d.ageMoves.control c =
      { d.control c with lastMove := (d.control c).lastMove.map fun m => { m with current := false } } := fun c => by
    simp [Desk.control, Desk.ageMoves, Auto.ageMoves]
  exact ⟨fun c => by rw [control], fun c => by rw [control], rfl, rfl, rfl⟩

theorem passInv_takeTick (e : Env) (t : MadeTick) {d : Desk} (h : d.passInv) : (d.takeTick e t).passInv := by
  have closings := passInv_tickWindow e t (passInv_tickAbort e t ((samePasses_ageMoves d).passInv h))
  have played := passInv_each (fun c d => (samePasses_takePlayback e t.index c d).passInv) e.liveControls closings
  have counted := passInv_each (fun c d => (samePasses_tickGlide c d).passInv) e.liveControls played
  have punched := passInv_each (fun c _ => passInv_tickPunchIn e t.index c) e.liveControls counted
  have applied := passInv_each (fun c d => (samePasses_tickApplied e c d).passInv) e.liveControls punched
  exact passInv_each (fun c _ => passInv_tickGlideEnd e c) _
    (passInv_each (fun c d => (samePasses_tickMove e t.index _ c d).passInv) e.liveControls applied)

theorem passInv_catchUp (e : Env) (t : Tick) {d : Desk} (h : d.passInv) : (d.catchUp e t).passInv :=
  passInv_each (fun c _ => passInv_decideApplied e c) _
    (passInv_each (fun c d => (samePasses_takePlayback e t c d).passInv) _ h)

end Desk

/-! ## CONTROL (R117) -/

/-- R117 step 2: the record with its new settings; without an open pass they and the touch decide the pass state. -/
def Control.configured (m : Mode) (safe : Bool) (glide : BitVec 6) (x : Control) : Control :=
  let y := { x with mode := m, safe := safe, glideLength := glide }
  { y with pass := if x.openPass.isSome then x.pass else y.restState }

/-- R117 step 1: the desk with the control's pass closed where its mode or its safe flag changes. -/
def Desk.closedFor (e : Env) (c : Fin 176) (m : Mode) (safe : Bool) (d : Desk) : Desk :=
  if (d.control c).mode ≠ m ∨ (d.control c).safe ≠ safe then d.closePass e .mode c else d

/-- R117: a CONTROL closes, writes the record, and decides the applied value. -/
theorem Desk.setControlSettings_eq (e : Env) (c : Fin 176) (m : Mode) (safe : Bool) (glide : BitVec 6) (d : Desk) :
    d.setControlSettings e c m safe glide = ((d.closedFor e c m safe).setControl c
      (((d.closedFor e c m safe).control c).configured m safe glide)).decideApplied e c := by
  have same : ∀ x : Control, (if x.openPass.isSome then { x with mode := m, safe := safe, glideLength := glide }
      else { x with mode := m, safe := safe, glideLength := glide,
                    pass := Control.restState { x with mode := m, safe := safe, glideLength := glide } }) =
        x.configured m safe glide := by
    intro x
    unfold Control.configured
    dsimp only
    split <;> rfl
  unfold Desk.setControlSettings
  dsimp only
  exact congrArg (fun x => ((d.closedFor e c m safe).setControl c x).decideApplied e c)
    (same ((d.closedFor e c m safe).control c))

theorem Control.isOpen_configured {m : Mode} {safe : Bool} {glide : BitVec 6} {x : Control}
    (h : x.openPass.isSome = x.pass.isOpen) : (x.configured m safe glide).pass.isOpen = x.pass.isOpen := by
  unfold Control.configured
  dsimp only
  split
  · rfl
  · next closed =>
    rw [← h, Bool.eq_false_iff.mpr closed]
    exact Desk.isOpen_restState _

namespace Desk

/-! ## The commands of the desk's blocks -/

namespace Reached

variable {R : Desk → Desk → Prop}

theorem leaveHome (h : Reached R) (e : Env) (b : Fin 24) (d : Desk) : R d (d.leaveHome e b) := by
  unfold Desk.leaveHome
  split
  · exact h.same d
  · exact h.letGo e false b d

theorem setLineSettings (h : Reached R) (e : Env) (f : Fin 32) (enable activeLow : Bool) (i : Fin 5) (d : Desk) :
    R d (d.setLineSettings e f enable activeLow i) := by
  have disabled : R d (d.disableLine e f) := by
    unfold Desk.disableLine
    dsimp only
    split
    · exact h.andThen (h.setLine f _ d) (h.dropTarget e _ _)
    · exact h.setLine f _ d
  unfold Desk.setLineSettings
  dsimp only
  split
  · exact h.andThen disabled (h.setLine f _ _)
  · exact h.setLine f _ d

theorem ungovern (h : Reached R) (e : Env) (k : Option TouchTarget) (d : Desk) : R d (d.ungovern e k) := by
  unfold Desk.ungovern
  split
  · split
    · exact h.same d
    · exact h.changeTarget e _ _ d
  · exact h.same d

theorem remap (h : Reached R) (e : Env) (f : Fin 32) (m : FaderTarget) (d : Desk) : R d (d.remap e f m) := by
  have moved : ∀ d : Desk, R d { d with touch := { d.touch with map := d.touch.map.set f m } } := fun _ => h.clear rfl rfl
  rw [Desk.remap_eq]
  refine h.andThen (b := d.mapped e f m) ?_ (h.clear rfl rfl)
  unfold Desk.mapped
  dsimp only
  split
  · exact h.andThen (h.andThen (h.andThen (h.dropTarget e _ d) (h.ungovern e _ _)) (moved _)) (h.holdTarget e _ _)
  · exact h.andThen (h.ungovern e _ d) (moved _)

theorem indicate (h : Reached R) (e : Env) (k : TouchTarget) (i : Indication) (d : Desk) : R d (d.indicate e k i) := by
  rcases indicate_cases e k i d with same | ⟨g, change⟩
  · rw [same]
    exact h.same d
  · rw [change]
    exact h.changeTarget e k g d

/-- R99: the home keeps a local surface value, and hands it on where nobody else drives. -/
theorem homeSurface (h : Reached R) (e : Env) (b : Fin 24) (x : Home) (c : Fin 176) (v : Value) (d : Desk) :
    R d (if (d.setHome b x).drivenHere e b then (d.setHome b x).setSurface e c v else d.setHome b x) := by
  have kept : R d (d.setHome b x) := h.clear rfl rfl
  split
  · exact h.andThen kept (h.surface e c v _)
  · exact kept

theorem surfaceValue (h : Reached R) (e : Env) (k : SurfaceName) (v : Value) (d : Desk) : R d (d.surfaceValue e k v) := by
  have requester : ∀ (b : Fin 24) (x : Requester), R d (if (d.reqOf b).claim = .driving then (d.setReq b x).queueDrive b
      else d.setReq b x) := fun b x => by split <;> exact h.clear rfl rfl
  unfold Desk.surfaceValue
  split
  · exact h.surface e _ v d
  · split
    · exact h.homeSurface e _ _ _ v d
    · exact requester _ _
  · split
    · exact h.homeSurface e _ _ _ _ d
    · exact requester _ _

theorem resoloAll (h : Reached R) (e : Env) (d : Desk) : R d (d.resoloAll e) :=
  h.andThen (h.clear (resoloed_resolo e d).auto (resoloed_resolo e d).take) (h.of_clear (clear_regate e _))

end Reached

theorem passInv_setControlSettings (e : Env) (c : Fin 176) (m : Mode) (safe : Bool) (glide : BitVec 6) {d : Desk}
    (h : d.passInv) : (d.setControlSettings e c m safe glide).passInv := by
  rw [setControlSettings_eq]
  have closed : (d.closedFor e c m safe).passInv := by
    unfold Desk.closedFor
    split
    · exact passInv_closePass e .mode c h
    · exact h
  have states := closed.1
  exact passInv_decideApplied e c (passInv_setControl closed rfl (Control.isOpen_configured (states c)))

theorem passInv_abortNow (e : Env) {d : Desk} (h : d.passInv) : (d.abortNow e).passInv := by
  have closed := passInv_closeAll (d := { d with ev := { d.ev with abort := none } }) e .abort h
  unfold Desk.abortNow
  dsimp only
  generalize Desk.closeAll e .abort _ = u at closed ⊢
  split
  · exact closed
  · exact closed

theorem passInv_leave (e : Env) (locking : Bool) {d : Desk} (h : d.passInv) : (d.leave e locking).passInv := by
  obtain ⟨a, b, c, ha, hb, hc, whole⟩ := d.leave_parts e locking
  have told : a.passInv := by
    rw [ha]
    split
    · exact h
    · exact h
  have closed : b.passInv := hb ▸ passInv_closeAll e .left told
  have homes : c.passInv := hc ▸ passInv_each (fun b d => reached_passInv.leaveHome e b d) _ closed
  rw [whole]
  exact passInv_each (f := Desk.leaveReq) (fun _ _ inv => inv) _ homes

/-- R139, R168: the tables of AUTO and TAKE at reset agree. -/
theorem passInv_of_reset {d : Desk} (auto : d.auto = State.reset.desk.auto) (take : d.take = State.reset.desk.take) :
    d.passInv := reached_passInv.clear auto take passInv_reset

theorem passInv_restart (e : Env) (inserted : Bool) (d : Desk) : (d.restart e inserted).passInv := by
  have fresh : ∀ (own : SoloBits) (u : Desk), u.passInv → (u.restartSolo own).passInv := by
    intro own u inv
    unfold Desk.restartSolo
    split
    · exact inv
    · exact inv
  unfold Desk.restart
  dsimp only
  split
  · exact reached_passInv.of_clear (clear_queueHoldings e _) (fresh _ _ (passInv_of_reset rfl rfl))
  · exact fresh _ _ (passInv_of_reset rfl rfl)

end Desk

/-! ## The whole state -/

@[simp] theorem Take.reserved_leavePage (page : Page) (t : Take) : (t.leavePage page).reserved = t.reserved := by
  unfold Take.leavePage
  dsimp only
  have page1 : (match t.open? with
      | some (_, p) => if p.page = page then t else t.closeOpen
      | none => t).reserved = t.reserved := by
    split
    · split
      · rfl
      · exact Take.reserved_closeOpen t
    · rfl
  split
  · split
    · exact page1
    · exact page1
  · exact page1

/-- R122, R164: the later state's passes agree where the earlier one's do. -/
def State.PassesKept (s t : State) : Prop := s.desk.passInv → t.desk.passInv

namespace State

namespace PassesKept

/-- AUTO and TAKE are as they were. -/
theorem still {s t : State} (auto : t.desk.auto = s.desk.auto := by rfl) (take : t.desk.take = s.desk.take := by rfl) :
    PassesKept s t := Desk.reached_passInv.clear auto take

theorem andThen {a b c : State} (h : PassesKept a b) (k : PassesKept b c) : PassesKept a c := fun inv => k (h inv)

theorem onDesk {s : State} {f : Env → Desk → Desk} (h : s.desk.passInv → (f s.env s.desk).passInv) :
    PassesKept s (s.onDesk f) := h

theorem of_step {s t : State} (h : s.DeskStep (fun d d' => d.passInv → d'.passInv) t) : PassesKept s t := h.desk

end PassesKept

open PassesKept (still andThen)

theorem passesKept_takePosEvent (v : PosEvent) (s : State) : s.PassesKept (s.takePosEvent v) := by
  intro inv
  rw [desk_takePosEvent]
  exact Desk.passInv_takeEvent s.env v (d := s.desk.raise v.flag) inv

theorem passesKept_takeTick (t : MadeTick) (s : State) : s.PassesKept (s.takeTick t) := by
  intro inv
  have same : Desk.SamePasses s.desk { s.desk with take := s.desk.take.leavePage (pageOf t.index) } :=
    ⟨fun _ => rfl, fun _ => rfl, rfl, Take.reserved_leavePage _ s.desk.take, Take.queue_leavePage _ s.desk.take⟩
  have left := same.passInv inv
  unfold State.takeTick
  dsimp only
  split
  · exact Desk.passInv_takeTick _ t left
  · exact Desk.passInv_takeTick _ t left

theorem passesKept_posPhase (edge : Option FrameNo) (s : State) : s.PassesKept (s.posPhase edge) := by
  have events : ∀ (l : List PosEvent) (u : State), u.PassesKept (l.foldl (fun u v => u.takePosEvent v) u) := by
    intro l
    induction l with
    | nil => exact fun _ => still
    | cons v l ih => exact fun u => andThen (passesKept_takePosEvent v u) (ih _)
  have events : s.PassesKept ((s.posOut edge).events.foldl (fun (u : State) v => u.takePosEvent v)
      { s with pos := (s.posOut edge).pos }) := andThen (b := { s with pos := (s.posOut edge).pos }) still (events _ _)
  rcases hm : (s.posOut edge).made with _ | k
  · rw [posPhase_of_no_tick hm]
    exact events
  · rw [posPhase_of_tick hm]
    exact andThen events (passesKept_takeTick k _)

/-- Fixing ramp lengths leaves AUTO and TAKE. -/
theorem passesKept_posAlone (edge : Option FrameNo) (s : State) : s.PassesKept (s.posAlone edge) :=
  andThen (passesKept_posPhase edge s) still

theorem passesKept_sampled (p : Period) (s : State) : s.PassesKept (s.sampled p) := by
  unfold State.sampled
  split
  · obtain ⟨u, before, behind, _⟩ := sample_around_pos Desk.reached_passInv p s
    exact andThen (.of_step before.step) (andThen (passesKept_posPhase _ u) (.of_step behind.step))
  · exact still

theorem passesKept_part {comes : Bool} {act : State → State} {s : State} (h : s.PassesKept (act s)) :
    s.PassesKept (s.part comes act) := by
  unfold State.part
  split
  · exact h
  · exact still

theorem passesKept_ringAlone (b : Bool) (rx : Option WireFrame) (s : State) : s.PassesKept (s.ringAlone b rx) :=
  andThen (b := s.advanceInstant) still (.of_step (Desk.reached_passInv.ringPhase b rx s.advanceInstant))

/-! ## LINK and the word clock -/

theorem passesKept_transfer (n : Nat) (s : State) : s.PassesKept (s.transfer n) := by
  unfold State.transfer
  split <;> exact still

theorem passesKept_overrun (n : Nat) (s : State) : s.PassesKept (s.overrun n) := andThen still (passesKept_transfer n _)

theorem passesKept_emptyTransfer (n : Nat) (s : State) : s.PassesKept (s.emptyTransfer n) := by
  unfold State.emptyTransfer
  split
  · exact still
  · exact passesKept_transfer n s

theorem passesKept_formReply (s : State) : s.PassesKept s.formReply := by
  unfold State.formReply
  split
  · exact still
  · split <;> exact still

/-- R170, R171, R180: a transfer that carries a message does what its command does, or leaves AUTO and TAKE alone. -/
theorem passesKept_message {n : Nat} {body : State → Answered} {s : State} (h : s.PassesKept (body s).state) :
    s.PassesKept (s.message n body) := by
  unfold State.message
  split
  · exact still
  · split
    · exact h
    · exact passesKept_overrun n s

theorem passesKept_command {n tail : Nat} {body : State → Answered} {s : State} (h : s.PassesKept (body s).state) :
    s.PassesKept (s.command n tail body) := passesKept_message h

theorem passesKept_configured {n tail : Nat} {k : Byte} {body : Conf → State → Answered} {s : State}
    (h : ∀ c, s.PassesKept (body c s).state) : s.PassesKept (s.command n tail (State.configured k body)) := by
  refine passesKept_command ?_
  unfold State.configured
  split
  · exact h _
  · exact still

theorem passesKept_reject (ldi : List Bool) (s : State) : s.PassesKept (s.reject ldi) := by
  unfold State.reject
  split
  · exact still
  · split
    · exact passesKept_message still
    · exact still

theorem passesKept_discard (ldi : List Bool) (s : State) : s.PassesKept (s.discard ldi) := by
  unfold State.discard
  split
  · exact still
  · split
    · exact passesKept_overrun _ s
    · exact still

theorem passesKept_loseClock (s : State) : s.PassesKept s.loseClock := by
  intro inv
  unfold State.loseClock
  rw [State.onDesk_desk]
  exact Desk.passInv_takeEvent _ .clockLost (d := s.desk.raise .clockLost) inv

/-! ## The commands -/

theorem passesKept_configure (payload : List Byte) (s : State) : s.PassesKept (s.configure payload).state := by
  unfold State.configure
  split
  · exact still
  · split
    · exact still
    · split <;> exact still

theorem passesKept_join (s : State) : s.PassesKept s.join.state := by
  unfold State.join
  split <;> exact still

theorem passesKept_route (strip form bus offset bus1 offset1 bus2 offset2 : Byte) (s : State) :
    s.PassesKept (s.route strip form bus offset bus1 offset1 bus2 offset2).state := by
  unfold State.route
  split
  · exact still
  · exact .onDesk (Desk.reached_passInv.resoloAll s.env (s.desk.setStrip _ _))

theorem passesKept_solo (strip flags : Byte) (s : State) : s.PassesKept (s.solo strip flags).state := by
  unfold State.solo
  split
  · exact still
  · exact .onDesk (Desk.reached_passInv.resoloAll s.env (s.desk.setStrip _ _))

theorem passesKept_touchset (line flags interval : Byte) (s : State) : s.PassesKept (s.touchset line flags interval).state := by
  unfold State.touchset
  split
  · exact .onDesk (Desk.reached_passInv.setLineSettings _ _ _ _ _ _)
  · exact still

theorem passesKept_mapFader (fader form target : Byte) (s : State) : s.PassesKept (s.mapFader fader form target).state := by
  unfold State.mapFader
  split
  · split
    · exact still
    · exact .onDesk (Desk.reached_passInv.remap _ _ _ _)
  · exact still

theorem passesKept_surface (form target : Byte) (value : BitVec 16) (indication : Byte) (s : State) :
    s.PassesKept (s.surface form target value indication).state := by
  unfold State.surface
  split
  · split
    · exact .onDesk (Desk.reached_passInv.andThen (Desk.reached_passInv.surfaceValue _ _ _ _)
        (Desk.reached_passInv.indicate _ _ _ _))
    · exact still
  · exact still

theorem passesKept_controlCommand (id mode safe glide : Byte) (s : State) :
    s.PassesKept (s.controlCommand id mode safe glide).state := by
  unfold State.controlCommand
  split
  · exact still
  · exact .onDesk (Desk.passInv_setControlSettings _ _ _ _ _)

theorem passesKept_window (form : Byte) (inTick outTick : BitVec 32) (s : State) :
    s.PassesKept (s.window form inTick outTick).state := by
  unfold State.window
  split
  · exact id
  · exact still

theorem passesKept_abortAtPageEnd (s : State) : s.PassesKept s.abortAtPageEnd.state := by
  unfold State.abortAtPageEnd
  split
  · exact still
  · exact id

theorem passesKept_setSpan (form : Byte) (first last : BitVec 24) (s : State) :
    s.PassesKept (s.setSpan form first last).state := by
  unfold State.setSpan
  split <;> exact still

theorem passesKept_countStray (s : State) : s.PassesKept s.countStray := by
  unfold State.countStray
  split
  · exact still
  · dsimp only
    split <;> exact still

theorem passesKept_takePage (p : PlayPage) (s : State) : s.PassesKept (s.takePage p) := by
  unfold State.takePage
  dsimp only
  split
  · split
    · exact andThen still (.onDesk (Desk.passInv_catchUp _ _))
    · exact still
  · exact still

theorem passesKept_deliver (payload : List Byte) (s : State) : s.PassesKept (s.deliver payload).state := by
  have effect : ∀ r, s.PassesKept (s.deliverEffect r) := by
    intro r
    cases r
    case taken p => exact passesKept_takePage p s
    case stray => exact passesKept_countStray s
    all_goals exact andThen (b := s.raise .pageRejected) still (passesKept_countStray _)
  exact effect _

/-- R163: the collection of a take page leaves the pass record queue. -/
theorem passesKept_takeCommand (s : State) : s.PassesKept s.takeCommand.state := by
  have kept : s.desk.take.collect.2.reserved = s.desk.take.reserved ∧ s.desk.take.collect.2.queue = s.desk.take.queue := by
    unfold Take.collect
    split <;> exact ⟨rfl, rfl⟩
  exact Desk.SamePasses.passInv ⟨fun _ => rfl, fun _ => rfl, rfl, kept.1, kept.2⟩

/-- R166: records handed over make room. -/
theorem passesKept_passes (s : State) : s.PassesKept s.passes.state := by
  rintro ⟨states, count, reserved, room⟩
  refine ⟨states, count, reserved, ?_⟩
  have fewer : (s.desk.take.queue.drop 8).length ≤ s.desk.take.queue.length := by simp
  exact (Nat.add_le_add_right fewer _).trans room

end State

/-! ## Every row -/

/-- Every row answers a next state whose passes agree where those of the state before do. -/
theorem exec_keeps_passInv (i : Instr) (s : State) : ∃ t, exec i s = .next t ∧ s.PassesKept t := by
  have reached := Desk.reached_passInv
  cases i with
  | configure payload tail =>
    refine ⟨_, rfl, State.passesKept_command ?_⟩
    split
    · exact s.passesKept_configure payload
    · exact .still
  | join => exact ⟨_, rfl, State.passesKept_configured fun _ => s.passesKept_join⟩
  | leave => exact ⟨_, rfl, State.passesKept_configured fun _ => Desk.passInv_leave _ _⟩
  | route => exact ⟨_, rfl, State.passesKept_configured fun _ => s.passesKept_route _ _ _ _ _ _ _ _⟩
  | solo => exact ⟨_, rfl, State.passesKept_configured fun _ => s.passesKept_solo _ _⟩
  | touchset => exact ⟨_, rfl, State.passesKept_configured fun _ => s.passesKept_touchset _ _ _⟩
  | map => exact ⟨_, rfl, State.passesKept_configured fun _ => s.passesKept_mapFader _ _ _⟩
  | surface => exact ⟨_, rfl, State.passesKept_configured fun _ => s.passesKept_surface _ _ _ _⟩
  | control => exact ⟨_, rfl, State.passesKept_configured fun _ => s.passesKept_controlCommand _ _ _ _⟩
  | window => exact ⟨_, rfl, State.passesKept_configured fun _ => s.passesKept_window _ _ _⟩
  | abortNow => exact ⟨_, rfl, State.passesKept_configured fun _ => .onDesk (Desk.passInv_abortNow _)⟩
  | abortAtPageEnd => exact ⟨_, rfl, State.passesKept_configured fun _ => s.passesKept_abortAtPageEnd⟩
  | span => exact ⟨_, rfl, State.passesKept_configured fun _ => s.passesKept_setSpan _ _ _⟩
  | deliver payload tail =>
    refine ⟨_, rfl, State.passesKept_command ?_⟩
    split
    · unfold State.configured
      split
      · exact s.passesKept_deliver payload
      · exact .still
    · exact .still
  | take => exact ⟨_, rfl, State.passesKept_command s.passesKept_takeCommand⟩
  | passes => exact ⟨_, rfl, State.passesKept_command s.passesKept_passes⟩
  | drives | status | mask => exact ⟨_, rfl, State.passesKept_command .still⟩
  | restart => exact ⟨_, rfl, State.passesKept_command fun _ => Desk.passInv_restart _ _ _⟩
  | format ldi => exact ⟨_, rfl, s.passesKept_reject ldi⟩
  | poll n | replyRead n => exact ⟨_, rfl, s.passesKept_emptyTransfer n⟩
  | replyFormed => exact ⟨_, rfl, s.passesKept_formReply⟩
  | linkOverrun ldi => exact ⟨_, rfl, s.passesKept_discard ldi⟩
  | hardwareReset => exact ⟨_, rfl, fun _ => Desk.passInv_of_reset rfl rfl⟩
  | resetRise strap rate96 =>
    refine ⟨_, rfl, ?_⟩
    split
    · exact fun _ => Desk.passInv_of_reset rfl rfl
    · exact .still
  | clockLost =>
    refine ⟨_, rfl, ?_⟩
    split
    · exact .still
    · split
      · exact s.passesKept_loseClock
      · exact .still
  | clockReturn => exact ⟨_, rfl, .still⟩
  | sampleEvent | frameEdge | frameArrival | badFrame | silentSample | tapFrame => exact ⟨_, rfl, s.passesKept_sampled _⟩
  | flywheel | tick | abortFired | glideEnd => exact ⟨_, rfl, State.passesKept_part (s.passesKept_posAlone _)⟩
  | rampEnd r => exact ⟨_, rfl, State.passesKept_part (.still (by cases r <;> rfl) (by cases r <;> rfl))⟩
  | settleEnd | settleRiseEnd => exact ⟨_, rfl, State.passesKept_part .still⟩
  | touchQualified | releaseQualified => exact ⟨_, rfl, State.passesKept_part (.onDesk (reached.lineStep _ _ _ _))⟩
  | ringBreak | tagAdoption | relock | relockComplete | lockPhaseEnd | listenPhaseEnd | firstIn =>
    exact ⟨_, rfl, State.passesKept_part (s.passesKept_ringAlone _ _)⟩
  | noticeDeadline x =>
    exact ⟨_, rfl, State.passesKept_part
      (.andThen (b := s.advanceInstant) .still (.of_step (reached.expireFlight x s.advanceInstant)))⟩
  | holdingsTimer => exact ⟨_, rfl, State.passesKept_part (.onDesk (reached.of_clear (Desk.clear_timerStep _ _)))⟩
  | holdingsExpiry => exact ⟨_, rfl, State.passesKept_part (.onDesk (reached.of_clear (Desk.clear_ageOf _ _ _)))⟩
  | leaseExpiry => exact ⟨_, rfl, State.passesKept_part (.onDesk (reached.leaseStep _ _ _))⟩
  | keepalive => exact ⟨_, rfl, State.passesKept_part (.onDesk (reached.of_clear (Desk.clear_keepaliveStep _ _)))⟩

end Sys2Proof.Machine

open Sys2Proof Sys2Proof.Machine

/-- Settles O18: every row keeps the agreement, by `exec_keeps_passInv`, and an empty queue changes nothing. -/
theorem passInvariantKept : Obligations.PassInvariantKept := by
  intro s t inv run
  unfold step at run
  split at run
  · cases run
    exact inv
  · next c rest _ =>
    obtain ⟨u, next, kept⟩ := exec_keeps_passInv c { s with pending := rest }
    rw [next] at run
    cases run
    exact kept inv
end

section
/-!
WINDOW, CONTROL and the two ABORTs (R116, R117, R134, R136, R137): what the bytes of each name, and the desk that it leaves.
-/

set_option Elab.async false

namespace Sys2Proof.Machine

/-! ## Bytes -/

theorem flagOfCode?_of_gt {f : Byte} (h : 1 < f.toNat) : flagOfCode? f = none := by
  unfold flagOfCode?
  split
  case h_3 => rfl
  all_goals omega

theorem flagOfCode?_of_le {f : Byte} (h : f.toNat ≤ 1) : flagOfCode? f = some (decide (f.toNat = 1)) := by
  have codes : f.toNat = 0 ∨ f.toNat = 1 := by omega
  unfold flagOfCode?
  rcases codes with code | code <;> rw [code] <;> rfl

/-! ## WINDOW (R134) -/

theorem windowOf?_of_range {form : Byte} {i o : BitVec 32}
    (h : 1 < form.toNat ∨ form = 1 ∧ (o.toNat ≤ i.toNat ∨ 67108863 < o.toNat)) : windowOf? form i o = none := by
  unfold windowOf?
  rcases h with form | ⟨rfl, ticks⟩
  · rw [flagOfCode?_of_gt form]
  · exact if_neg (by omega)

theorem windowOf?_of_ticks {i o : BitVec 32} (order : i.toNat < o.toNat) (last : o.toNat ≤ 67108863) :
    windowOf? 1 i o = some (some (BitVec.ofNat 26 i.toNat, BitVec.ofNat 26 o.toNat)) := by
  rw [BitVec.ofNat_toNat, BitVec.ofNat_toNat]
  exact if_pos ⟨order, last⟩

namespace State

variable {s : State} {c : Conf}

theorem exec_window (ready : s.ready) (conf : s.conf = some c) (form : Byte) (i o : BitVec 32) (tail : Nat) :
    exec (.window form i o tail) s = .next (State.taken 9 tail (s.window form i o).reply (s.window form i o).state) := by
  refine congrArg Host.Outcome.next ((State.command_of_ready ready _ _ _).trans ?_)
  rw [State.configured_of_some conf]

theorem window_of_refused {form : Byte} {i o : BitVec 32} (h : windowOf? form i o = none) :
    s.window form i o = s.refuse 0x0B .range := by
  unfold State.window
  rw [h]

theorem window_of_taken {form : Byte} {i o : BitVec 32} {w : Option (Tick × Tick)} (h : windowOf? form i o = some w) :
    s.window form i o = State.done 0x0B [] { s with desk := { s.desk with auto := { s.desk.auto with window := w } } } := by
  unfold State.window
  rw [h]

/-! ## ABORT (R136, R137) -/

theorem exec_abortNow (ready : s.ready) (conf : s.conf = some c) (tail : Nat) :
    exec (.abortNow tail) s = .next (State.taken 0 tail (.done 0x0C (bytesOf 1 s.desk.auto.openCount))
      { s with desk := s.desk.abortNow s.env }) := by
  refine congrArg Host.Outcome.next ((State.command_of_ready ready _ _ _).trans ?_)
  rw [State.configured_of_some conf]
  rfl

theorem exec_abortAtPageEnd (ready : s.ready) (conf : s.conf = some c) (tail : Nat) :
    exec (.abortAtPageEnd tail) s =
      .next (State.taken 0 tail s.abortAtPageEnd.reply s.abortAtPageEnd.state) := by
  refine congrArg Host.Outcome.next ((State.command_of_ready ready _ _ _).trans ?_)
  rw [State.configured_of_some conf]

end State

namespace Desk

/-- R132: a pass closed raises no flag, and leaves the pending abort. -/
theorem rest_closePass (e : Env) (r : CloseReason) (c : Fin 176) (d : Desk) :
    (d.closePass e r c).ev = d.ev ∧ (d.closePass e r c).auto.pendingAbort = d.auto.pendingAbort := by
  have count : ∀ u : Desk, u.countClosed.ev = u.ev ∧ u.countClosed.auto.pendingAbort = u.auto.pendingAbort := by
    intro u
    unfold Desk.countClosed
    dsimp only
    split <;> exact ⟨rfl, rfl⟩
  have decide : ∀ u : Desk, (u.decideApplied e c).ev = u.ev ∧
      (u.decideApplied e c).auto.pendingAbort = u.auto.pendingAbort := by
    intro u
    obtain ⟨ev, _⟩ := rest_decideApplied e c u
    exact ⟨ev, by unfold Desk.decideApplied; rw [auto_apply]; rfl⟩
  unfold Desk.closePass
  dsimp only
  split
  · exact ⟨rfl, rfl⟩
  · rw [(decide _).1, (decide _).2, (count _).1, (count _).2]
    exact ⟨rfl, rfl⟩

theorem rest_closeAll (e : Env) (r : CloseReason) (d : Desk) :
    (d.closeAll e r).ev = d.ev ∧ (d.closeAll e r).auto.pendingAbort = d.auto.pendingAbort := by
  unfold Desk.closeAll
  refine each_keeps (P := fun u => u.ev = d.ev ∧ u.auto.pendingAbort = d.auto.pendingAbort) (d := d) (fun c u kept => ?_) _
    ⟨rfl, rfl⟩
  obtain ⟨ev, pending⟩ := rest_closePass e r c u
  exact ⟨ev.trans kept.1, pending.trans kept.2⟩

/-- R122: where no pass is open the open-pass count is 0. -/
theorem openCount_of_closed {d : Desk} (h : d.passInv) (closed : ∀ c, (d.control c).openPass = none) :
    d.auto.openCount = 0 := by
  obtain ⟨_, count, _⟩ := h
  rw [count, Auto.openPasses_of_none closed]

/-- What ABORT NOW leaves of the desk (R132, R136). -/
structure Aborted (d d' : Desk) : Prop where
  closed   : d.closedBy .abort d'
  pending  : d'.auto.pendingAbort = false
  abort    : d'.ev.abort = if d.auto.pendingAbort then some .superseded else none
  settings : SameSettings d d'

theorem aborted_abortNow (e : Env) (d : Desk) : Aborted d (d.abortNow e) := by
  have closed := closedBy_closeAll e .abort { d with ev := { d.ev with abort := none } }
  have settings := (frame_closeAll e .abort { d with ev := { d.ev with abort := none } }).sameSettings
  obtain ⟨ev, pending⟩ := rest_closeAll e .abort { d with ev := { d.ev with abort := none } }
  unfold Desk.abortNow
  dsimp only
  generalize Desk.closeAll e .abort _ = v at closed settings ev pending ⊢
  rcases waits : d.auto.pendingAbort
  · exact ⟨closed, pending.trans waits, by rw [waits]; exact congrArg Events.abort ev, settings⟩
  · exact ⟨closed, rfl, by rw [waits]; rfl, settings⟩

end Desk

end Sys2Proof.Machine

open Sys2Proof Sys2Proof.Machine

/-- Settles O54: the window that WINDOW's bytes name. -/
theorem windowResult : Obligations.WindowResult := by
  intro form i o tail s ready conf
  obtain ⟨c, conf⟩ := Option.isSome_iff_exists.mp conf
  have run := State.exec_window ready conf form i o tail
  refine ⟨fun range => ?_, ?_, ?_⟩
  · rw [run, State.window_of_refused (windowOf?_of_range range)]
    rfl
  · rintro rfl
    rw [run, State.window_of_taken (w := none) rfl]
    rfl
  · rintro rfl order last
    rw [run, State.window_of_taken (windowOf?_of_ticks order last)]
    rfl

/-- Settles O55: the desk that ABORT NOW leaves, its open-pass count from the agreement of the passes (R122). -/
theorem abortCommands : Obligations.AbortCommands := by
  refine ⟨fun tail s ready conf inv => ?_, fun _ _ _ => rfl, fun tail s ready conf => ?_⟩
  · obtain ⟨c, conf⟩ := Option.isSome_iff_exists.mp conf
    have left := Desk.aborted_abortNow s.env s.desk
    have kept := Desk.passInv_abortNow s.env inv
    obtain ⟨_, count, _⟩ := inv
    refine ⟨_, State.exec_abortNow ready conf tail, left.closed, Desk.openCount_of_closed kept left.closed.1, left.pending,
      left.abort, ?_, left.settings, rfl⟩
    rw [← count]
    rfl
  · obtain ⟨c, conf⟩ := Option.isSome_iff_exists.mp conf
    have run := State.exec_abortAtPageEnd ready conf tail
    refine ⟨fun waits => ?_, fun idle => ?_⟩
    · rw [run]
      unfold State.abortAtPageEnd
      rw [if_pos waits]
      rfl
    · rw [run]
      unfold State.abortAtPageEnd
      rw [if_neg (by rw [idle]; exact Bool.false_ne_true)]
end

section
/-!
CONTROL (R116, R117): the control that its bytes name, and the record that it writes.
-/

set_option Elab.async false

namespace Sys2Proof.Machine

/-! ## The controls of a bus (section 7.1) -/

theorem controlName_masterId (b : Fin 24) : controlName (masterId b) = .master b := by
  revert b
  decide

theorem controlName_masterMuteId (b : Fin 24) : controlName (masterMuteId b) = .masterMute b := by
  revert b
  decide

/-- R116: the bus that a control's id names. -/
def busOf? (c : Fin 176) : Option (Fin 24) :=
  match controlName c with
  | .master b | .masterMute b => some b
  | _ => none

theorem busOf?_of_strip {c : Fin 176} (h : c.val < 128) : busOf? c = none := by
  unfold busOf?
  split
  · next b name => exact absurd name (controlName_of_strip h b).1
  · next b name => exact absurd name (controlName_of_strip h b).2
  · rfl

theorem busOf?_of_bus {c : Fin 176} {b : Fin 24} (h : c = masterId b ∨ c = masterMuteId b) : busOf? c = some b := by
  unfold busOf?
  rcases h with rfl | rfl
  · rw [controlName_masterId]
  · rw [controlName_masterMuteId]

/-! ## The checks (R116) -/

section
variable {e : Env} {x m f g : Byte}

theorem controlChecks_of_range (h : 176 ≤ x.toNat ∨ modeOfCode? m = none ∨ 1 < f.toNat ∨ 63 < g.toNat) :
    controlChecks e x m f g = .error .range := by
  unfold controlChecks
  split
  · next c k s index mode flag =>
    have glide : ¬ g.toNat ≤ 63 := by
      rcases h with id | bad | bad | glide
      · rw [indexOf?_of_le id] at index
        cases index
      · rw [bad] at mode
        cases mode
      · rw [flagOfCode?_of_gt bad] at flag
        cases flag
      · exact Nat.not_le.mpr glide
    exact if_neg glide
  · rfl

/-- R116: with every byte in its range, checks 2 and 3 ask for the bus of a bus control. -/
theorem controlChecks_of_bytes {c : Fin 176} {k : Mode} (index : x.toNat = c.val) (mode : modeOfCode? m = some k)
    (flag : f.toNat ≤ 1) (glide : g.toNat ≤ 63) : controlChecks e x m f g =
      match busOf? c with
      | some b => if (e.bus? b).isNone then .error .range
        else if e.homesBus b then .ok (c, k, decide (f.toNat = 1), BitVec.ofNat 6 g.toNat) else .error .notHome
      | none => .ok (c, k, decide (f.toNat = 1), BitVec.ofNat 6 g.toNat) := by
  unfold controlChecks busOf?
  rw [indexOf?_of_toNat index, mode, flagOfCode?_of_le flag, BitVec.ofNat_toNat]
  dsimp only
  rw [if_pos glide]
  cases controlName c <;> rfl

end

theorem Env.bus?_of_homesBus {e : Env} {b : Fin 24} (h : e.homesBus b = true) : (e.bus? b).isNone = false := by
  unfold Env.homesBus at h
  rcases bus : e.bus? b with _ | x
  · rw [bus] at h
    cases h
  · rfl

theorem Env.bus?_of_requestsBus {e : Env} {b : Fin 24} (h : e.requestsBus b = true) : (e.bus? b).isNone = false := by
  unfold Env.requestsBus at h
  rcases bus : e.bus? b with _ | x
  · rw [bus] at h
    cases h
  · rfl

/-! ## The record written (R117) -/

namespace Desk

section
variable (e : Env) (c : Fin 176) (m : Mode) (safe : Bool) (glide : BitVec 6) (d : Desk)

/-- R117: the record after CONTROL is written over the one that R117 step 1 leaves; its applied value is decided afresh. -/
theorem control_setControlSettings (j : Fin 176) : (d.setControlSettings e c m safe glide).control j =
    if j = c then
      { ((d.closedFor e c m safe).control c).configured m safe glide with
        applied := (((d.closedFor e c m safe).control c).configured m safe glide).decided }
    else d.control j := by
  rw [setControlSettings_eq, control_decideApplied, control_setControl_self, control_setControl]
  split
  · rfl
  · next other =>
    unfold Desk.closedFor
    split
    · rw [control_closePass, if_neg other]
    · rfl

theorem take_setControlSettings : (d.setControlSettings e c m safe glide).take = (d.closedFor e c m safe).take := by
  rw [setControlSettings_eq, take_decideApplied]
  rfl

/-- R117 step 1: what closing the pass leaves. -/
theorem closedFor_frame : AutoFrame d (d.closedFor e c m safe) ∧ ActsAt c d (d.closedFor e c m safe) ∧
    ((d.closedFor e c m safe).control c).playback = (d.control c).playback := by
  unfold Desk.closedFor
  split
  · refine ⟨frame_closePass e .mode c d, .closePass e .mode d, ?_⟩
    rw [control_closePass, if_pos rfl, Control.playback_closed]
  · exact ⟨.same d, .still, rfl⟩

/-- R117: what a CONTROL leaves of homes and lines. -/
theorem frame_setControlSettings :
    (∀ b, ((d.setControlSettings e c m safe glide).homeOf b).driver = (d.homeOf b).driver ∧
      ((d.setControlSettings e c m safe glide).homeOf b).lease = (d.homeOf b).lease) ∧
      (d.setControlSettings e c m safe glide).touch.lines = d.touch.lines ∧
      (c.val < 128 → (d.setControlSettings e c m safe glide).home = d.home) := by
  obtain ⟨closing, acts, _⟩ := closedFor_frame e c m safe d
  rw [setControlSettings_eq]
  have decided := frame_decideApplied e c ((d.closedFor e c m safe).setControl c
    (((d.closedFor e c m safe).control c).configured m safe glide))
  refine ⟨fun b => ?_, decided.lines.trans closing.lines, fun strip => ?_⟩
  · obtain ⟨driver, lease, _⟩ := closing.homes b
    obtain ⟨driver', lease', _⟩ := decided.homes b
    exact ⟨driver'.trans driver, lease'.trans lease⟩
  · rw [home_decideApplied strip]
    exact acts.home strip

end

section
variable {e : Env} {c : Fin 176} {m : Mode} {safe : Bool} {d : Desk}

/-- R117 step 1: a change of mode or of safe flag closes the pass. -/
theorem closedFor_of_change (h : (d.control c).mode ≠ m ∨ (d.control c).safe ≠ safe) :
    d.closedFor e c m safe = d.closePass e .mode c := if_pos h

theorem closedFor_of_same (mode : (d.control c).mode = m) (flag : (d.control c).safe = safe) :
    d.closedFor e c m safe = d := if_neg (by rw [mode, flag]; simp)

/-- R117 step 2: a pass that is open after CONTROL was open before it, in the same pass state. -/
theorem pass_closedFor (h : ((d.closedFor e c m safe).control c).openPass.isSome) :
    ((d.closedFor e c m safe).control c).pass = (d.control c).pass := by
  by_cases change : (d.control c).mode ≠ m ∨ (d.control c).safe ≠ safe
  · rw [closedFor_of_change change, (closePass_passes e .mode c d).2 c, if_pos rfl] at h
    cases h
  · unfold Desk.closedFor
    rw [if_neg change]

end

end Desk

/-- R117 step 2: without an open pass the mode and the touch decide the pass state. -/
theorem Control.pass_configured_of_closed {x : Control} (h : x.openPass = none) (k : Mode) (safe : Bool) (g : BitVec 6) :
    (k = .off ∨ k = .read → (x.configured k safe g).pass = .idle) ∧ (k = .write → (x.configured k safe g).pass = .primed) ∧
      (k = .touch ∨ k = .latch → (x.configured k safe g).pass = if x.touched then .primed else .idle) := by
  unfold Control.configured
  rw [h]
  refine ⟨?_, ?_, ?_⟩
  · rintro (rfl | rfl) <;> rfl
  · rintro rfl
    rfl
  · rintro (rfl | rfl) <;> rfl

theorem Control.pass_configured_of_open {x : Control} (h : x.openPass.isSome) (k : Mode) (safe : Bool) (g : BitVec 6) :
    (x.configured k safe g).pass = x.pass := if_pos h

namespace State

variable {s : State} {c : Conf} {x m f g : Byte}

theorem exec_control (ready : s.ready) (conf : s.conf = some c) (x m f g : Byte) (tail : Nat) :
    exec (.control x m f g tail) s =
      .next (State.taken 4 tail (s.controlCommand x m f g).reply (s.controlCommand x m f g).state) := by
  refine congrArg Host.Outcome.next ((State.command_of_ready ready _ _ _).trans ?_)
  rw [State.configured_of_some conf]

theorem controlCommand_of_refused {r : Reason} (h : controlChecks s.env x m f g = .error r) :
    s.controlCommand x m f g = s.refuse 0x0A r := by
  unfold State.controlCommand
  rw [h]

theorem controlCommand_of_taken {c : Fin 176} {k : Mode} {safe : Bool} {glide : BitVec 6}
    (h : controlChecks s.env x m f g = .ok (c, k, safe, glide)) : s.controlCommand x m f g =
      State.done 0x0A ((s.desk.setControlSettings s.env c k safe glide).control c).bytes
        { s with desk := s.desk.setControlSettings s.env c k safe glide } := by
  unfold State.controlCommand
  rw [h]
  rfl

end State

end Sys2Proof.Machine

open Sys2Proof Sys2Proof.Machine

/-- Settles O53: the checks byte by byte, and the record that `Desk.control_setControlSettings` says. -/
theorem controlCommand : Obligations.ControlCommand := by
  refine ⟨fun x m f g tail s ready conf => ⟨fun range => ?_, fun c k named index mode flag glide => ?_⟩,
    fun b x m f g tail s ready conf index mode flag glide => ?_⟩
  · obtain ⟨_, conf⟩ := Option.isSome_iff_exists.mp conf
    rw [State.exec_control ready conf, State.controlCommand_of_refused (controlChecks_of_range range)]
    rfl
  · obtain ⟨_, conf⟩ := Option.isSome_iff_exists.mp conf
    have checks : controlChecks s.env x m f g = .ok (c, k, decide (f.toNat = 1), BitVec.ofNat 6 g.toNat) := by
      rw [controlChecks_of_bytes index mode flag glide]
      rcases named with strip | ⟨b, bus, homed⟩
      · rw [busOf?_of_strip strip]
      · rw [busOf?_of_bus bus]
        dsimp only
        rw [Env.bus?_of_homesBus homed, homed]
        rfl
    have run := State.exec_control ready conf x m f g tail
    rw [State.controlCommand_of_taken checks] at run
    generalize decide (f.toNat = 1) = safe at run ⊢
    generalize BitVec.ofNat 6 g.toNat = glide at run ⊢
    obtain ⟨homes, lines, home⟩ := Desk.frame_setControlSettings s.env c k safe glide s.desk
    obtain ⟨_, acts, playback⟩ := Desk.closedFor_frame s.env c k safe s.desk
    obtain ⟨surface, touched⟩ := acts.inputs c
    have control := Desk.control_setControlSettings s.env c k safe glide s.desk
    have own := (control c).trans (if_pos rfl)
    have take := Desk.take_setControlSettings s.env c k safe glide s.desk
    have kept := Desk.pass_closedFor (e := s.env) (c := c) (m := k) (safe := safe) (d := s.desk)
    generalize s.desk.setControlSettings s.env c k safe glide = u at run homes lines home control own take
    have opened : (u.control c).openPass = ((s.desk.closedFor s.env c k safe).control c).openPass := by
      rw [own]
      rfl
    refine ⟨_, run, congrArg Control.mode own, congrArg Control.safe own, congrArg Control.glideLength own,
      fun change => ?_, fun same_mode same_safe => ?_, fun still_open => ?_, fun closed => ?_,
      (congrArg Control.touched own).trans touched, (congrArg Control.surface own).trans surface,
      (congrArg Control.playback own).trans playback, fun j other => (control j).trans (if_neg other), home, homes, lines,
      rfl, rfl⟩
    · obtain ⟨queue, passes⟩ := Desk.closePass_passes s.env .mode c s.desk
      rw [Desk.closedFor_of_change change] at opened take
      refine ⟨opened.trans ((passes c).trans (if_pos rfl)), fun p was_open => ?_⟩
      show u.take.queue = _
      rw [take, queue, was_open]
      rfl
    · rw [Desk.closedFor_of_same same_mode same_safe] at opened take
      exact ⟨opened, take⟩
    · have still_open : ((s.desk.closedFor s.env c k safe).control c).openPass.isSome := opened ▸ still_open
      exact (congrArg Control.pass own).trans ((Control.pass_configured_of_open still_open k safe glide).trans (kept still_open))
    · have decided := Control.pass_configured_of_closed (opened.symm.trans closed) k safe glide
      rw [touched, ← show (u.control c).pass = _ from congrArg Control.pass own] at decided
      exact decided
  · obtain ⟨_, conf⟩ := Option.isSome_iff_exists.mp conf
    obtain ⟨k, mode⟩ := Option.isSome_iff_exists.mp mode
    have small := b.isLt
    obtain ⟨c, bus, index⟩ : ∃ c : Fin 176, (c = masterId b ∨ c = masterMuteId b) ∧ x.toNat = c.val := by
      rcases index with index | index
      · exact ⟨masterId b, .inl rfl, index⟩
      · exact ⟨masterMuteId b, .inr rfl, index⟩
    have checks := controlChecks_of_bytes (e := s.env) index mode flag glide
    rw [busOf?_of_bus bus] at checks
    dsimp only at checks
    refine ⟨fun absent => ?_, fun away => ?_⟩
    · rw [absent] at checks
      rw [State.exec_control ready conf, State.controlCommand_of_refused checks]
      rfl
    · rw [Env.bus?_of_requestsBus away, Env.homesBus_of_requestsBus away] at checks
      rw [State.exec_control ready conf, State.controlCommand_of_refused checks]
      rfl
end

section
/-!
A tick and the passes (R123 to R127, R132, R134, R137, R138): the steps of a tick behind its closings, the one pass that a
control has through them, and the queue.
-/

set_option Elab.async false

namespace Sys2Proof.Machine

/-! ## The steps behind the closings (R138 steps 3 to 8) -/

namespace Desk

/-- R138 steps 3 and 4: playback values taken, glides counted. -/
def tickCounted (e : Env) (t : Tick) (u : Desk) : Desk :=
  (u.each e.liveControls (Desk.takePlayback e t)).each e.liveControls Desk.tickGlide

/-- R138 step 5: passes opened. -/
def tickOpened (e : Env) (t : Tick) (u : Desk) : Desk := (u.tickCounted e t).each e.liveControls (Desk.tickPunchIn e t)

/-- A pass of the control opens at step 5. -/
def opensIn (e : Env) (t : Tick) (u : Desk) (c : Fin 176) : Bool :=
  ((u.tickCounted e t).control c).openPass.isNone && ((u.tickOpened e t).control c).openPass.isSome

/-- R138 steps 3 to 7: applied values decided, moves appended. -/
def tickMoved (e : Env) (t : Tick) (u : Desk) : Desk :=
  ((u.tickOpened e t).each e.liveControls (Desk.tickApplied e)).each e.liveControls fun c d =>
    d.tickMove e t (u.opensIn e t c) c

/-- R138 steps 3 to 8. -/
def tickFrom (e : Env) (t : Tick) (u : Desk) : Desk := (u.tickMoved e t).each e.liveControls (Desk.tickGlideEnd e)

theorem takeTick_eq (e : Env) (t : MadeTick) (d : Desk) : d.takeTick e t = (d.tickClosings e t).tickFrom e t.index := rfl

end Desk

/-! ## The steps on one record -/

namespace Control

/-- R138 step 7: the record with its move, if it has one, and the tick as its pass's latest. -/
def tickMove (e : Env) (t : Tick) (opened : Bool) (x : Control) : Control :=
  if x.openPass.isSome then
    let y := if e.pos.state = .rolling ∧ (opened ∨ x.moved) then x.movedTo t else x
    { y with openPass := y.openPass.map fun p => { p with latest := t } }
  else x

variable {e : Env} {t : Tick} {opened : Bool} {x y : Control} {p : OpenPass}

theorem tickMove_of_none (h : x.openPass = none) : x.tickMove e t opened = x := by
  unfold Control.tickMove
  rw [h]
  rfl

theorem tickMove_of_some (h : x.openPass = some p) : x.tickMove e t opened =
    { (if e.pos.state = .rolling ∧ (opened ∨ x.moved) then x.movedTo t else x) with
      openPass := some { p with latest := t } } := by
  have kept : (if e.pos.state = .rolling ∧ (opened ∨ x.moved) then x.movedTo t else x).openPass = some p := by
    split <;> exact h
  unfold Control.tickMove
  dsimp only
  rw [kept, h]
  rfl

/-- A lost move of another control and the move of this one come in either order (R131). -/
theorem tickMove_damagedIf (lost : Bool) (x : Control) :
    (x.damagedIf lost).tickMove e t opened = (x.tickMove e t opened).damagedIf lost := by
  rcases pass : x.openPass with _ | p
  · rw [tickMove_of_none pass, tickMove_of_none (by simp [damagedIf, pass])]
  · rw [tickMove_of_some pass, tickMove_of_some (x := x.damagedIf lost) (p := { p with damaged := p.damaged || lost })
      (by simp [damagedIf, pass])]
    have moved : (x.damagedIf lost).moved = x.moved := rfl
    rw [moved]
    split <;> rfl

theorem damagedIf_damagedIf (a b : Bool) (x : Control) : (x.damagedIf a).damagedIf b = x.damagedIf (a || b) := by
  simp [damagedIf, Function.comp_def, Bool.or_assoc]

theorem PunchedIn.eq_of_not_primed (h : x.PunchedIn y) (pass : x.pass ≠ .primed) : y = x :=
  h.resolve_right fun ⟨primed, _⟩ => pass primed

theorem passes_countGlide (x : Control) : x.countGlide.openPass = x.openPass ∧ x.countGlide.pass = x.pass := by
  unfold Control.countGlide
  split <;> exact ⟨rfl, rfl⟩

theorem passes_applyTick (x : Control) : x.applyTick.openPass = x.openPass ∧ x.applyTick.pass = x.pass := by
  unfold Control.applyTick
  split <;> exact ⟨rfl, rfl⟩

/-- R127: of the records that are not gliding the last step of a tick closes no pass. -/
theorem endGlide_of_pass (h : x.pass ≠ .gliding) : x.endGlide = x := endGlide_of_not fun _ gliding _ => h gliding

end Control

namespace Desk

/-- R138 step 7, R131: one control's record takes its move; where TAKE loses it every open pass is damaged. -/
theorem control_tickMove (e : Env) (t : Tick) (opened : Bool) (c : Fin 176) (d : Desk) : ∃ lost, ∀ j,
    (d.tickMove e t opened c).control j =
      (if j = c then (d.control c).tickMove e t opened else d.control j).damagedIf lost := by
  rcases pass : (d.control c).openPass with _ | p
  · refine ⟨false, fun j => ?_⟩
    have same : d.tickMove e t opened c = d := if_neg (by rw [pass]; exact Bool.false_ne_true)
    rw [same, Control.damagedIf_false, Control.tickMove_of_none pass]
    exact control_eq_ite rfl
  · obtain ⟨lost, moved⟩ := control_appendMove c t d
    have is_open : (d.control c).openPass.isSome = true := by rw [pass]; rfl
    rw [Control.tickMove_of_some pass]
    unfold Desk.tickMove
    dsimp only
    rw [if_pos is_open]
    split
    · refine ⟨lost, fun j => ?_⟩
      rw [control_setControl, moved, moved, if_pos rfl]
      split
      · simp [Control.damagedIf, Control.movedTo, pass]
      · rfl
    · refine ⟨false, fun j => ?_⟩
      rw [control_setControl, Control.damagedIf_false, pass]
      rfl

/-- R138 step 7 through a list of controls. -/
theorem control_each_tickMove (e : Env) (t : Tick) (opened : Fin 176 → Bool) {l : List (Fin 176)} (nodup : l.Nodup)
    (d : Desk) (j : Fin 176) : ∃ lost, (d.each l fun c d => d.tickMove e t (opened c) c).control j =
      (if j ∈ l then (d.control j).tickMove e t (opened j) else d.control j).damagedIf lost := by
  unfold Desk.each
  induction l generalizing d with
  | nil => exact ⟨false, by rw [Control.damagedIf_false]; simp⟩
  | cons c l ih =>
    obtain ⟨fresh, nodup⟩ := List.nodup_cons.mp nodup
    obtain ⟨here, step⟩ := control_tickMove e t (opened c) c d
    obtain ⟨later, rest⟩ := ih nodup (d.tickMove e t (opened c) c)
    refine ⟨here || later, ?_⟩
    rw [List.foldl_cons, rest, step, ← Control.damagedIf_damagedIf]
    by_cases same : j = c
    · subst same
      simp [fresh]
    · rw [if_neg same, Control.tickMove_damagedIf]
      simp only [List.mem_cons, same, false_or]
      split <;> rfl

section
variable {e : Env} {c : Fin 176}

/-- R138 steps 3 and 4: the record of a live control. -/
theorem control_tickCounted (live : e.live c = true) (t : Tick) (u : Desk) :
    (u.tickCounted e t).control c = ((u.control c).play (e.play.inForce t c)).countGlide := by
  have inside : c ∈ e.liveControls := by simp [live]
  unfold tickCounted
  rw [control_each (g := fun _ => Control.countGlide) control_tickGlide e.nodup_liveControls, if_pos inside,
    control_each (g := fun k => Control.play (e.play.inForce t k)) (control_takePlayback e t) e.nodup_liveControls,
    if_pos inside]

/-- R138 step 7: the record of a live control. -/
theorem control_tickMoved (live : e.live c = true) (t : Tick) (u : Desk) : ∃ lost, (u.tickMoved e t).control c =
    (((u.tickOpened e t).control c).applyTick.tickMove e t (u.opensIn e t c)).damagedIf lost := by
  have inside : c ∈ e.liveControls := by simp [live]
  obtain ⟨lost, moved⟩ := control_each_tickMove e t (u.opensIn e t) e.nodup_liveControls
    ((u.tickOpened e t).each e.liveControls (Desk.tickApplied e)) c
  rw [if_pos inside, control_each (g := fun _ => Control.applyTick) (control_tickApplied e) e.nodup_liveControls,
    if_pos inside] at moved
  exact ⟨lost, moved⟩

theorem control_tickFrom (live : e.live c = true) (t : Tick) (u : Desk) :
    (u.tickFrom e t).control c = ((u.tickMoved e t).control c).endGlide := by
  have inside : c ∈ e.liveControls := by simp [live]
  unfold tickFrom
  rw [control_each (g := fun _ => Control.endGlide) (control_tickGlideEnd e) e.nodup_liveControls, if_pos inside]

/-- R123: step 5 of a tick leaves a control that is not PRIMED. -/
theorem control_tickOpened_of_not_primed {u : Desk} (pass : (u.control c).pass ≠ .primed) (live : e.live c = true) (t : Tick) :
    (u.tickOpened e t).control c = (u.tickCounted e t).control c := by
  obtain ⟨punched, _⟩ := control_each_tickPunchIn e t e.nodup_liveControls (u.tickCounted e t) c
  refine punched.eq_of_not_primed ?_
  rw [control_tickCounted live, (Control.passes_countGlide _).2]
  exact pass

end

/-- Steps 3 and 4 leave the settings, the window and the flags. -/
theorem frame_tickCounted (e : Env) (t : Tick) (d : Desk) : AutoFrame d (d.tickCounted e t) :=
  (AutoFrame.each _ _ (fun c d => frame_takePlayback e t c d) d).andThen
    (AutoFrame.each e.liveControls _ frame_tickGlide _)

/-! ## The passes open through a tick -/

/-- Every open pass is being written and has a punch-in tick of the kind, and the queue holds these records. -/
structure OpenOnly (ok : Tick → Prop) (q : List PassRecord) (d : Desk) : Prop where
  pass  : ∀ c p, (d.control c).openPass = some p → ok p.punchIn ∧ (d.control c).pass = .writing
  queue : d.take.queue = q

/-- R132: to close every pass with a reason is to leave none open, their records at the queue's newest end. -/
theorem closedBy_iff_openOnly {r : CloseReason} {d d' : Desk} :
    d.closedBy r d' ↔ OpenOnly (fun _ => False) (d.take.queue ++ d.openRecords r) d' := by
  refine ⟨fun ⟨closed, queue⟩ => ⟨fun c p h => ?_, queue⟩, fun ⟨closed, queue⟩ => ⟨fun c => ?_, queue⟩⟩
  · rw [closed c] at h
    cases h
  · exact Option.eq_none_iff_forall_ne_some.mpr fun p h => (closed c p h).1

namespace OpenOnly

variable {ok : Tick → Prop} {q : List PassRecord} {d d' : Desk}

theorem closed (h : OpenOnly (fun _ => False) q d) (c : Fin 176) : (d.control c).openPass = none :=
  Option.eq_none_iff_forall_ne_some.mpr fun p open_c => (h.pass c p open_c).1

theorem mono {ok' : Tick → Prop} (h : OpenOnly ok q d) (k : ∀ t, ok t → ok' t) : OpenOnly ok' q d :=
  ⟨fun c p open_c => ⟨k _ (h.pass c p open_c).1, (h.pass c p open_c).2⟩, h.queue⟩

/-- No punch-in tick, no pass state and no record has changed. -/
theorem of_same (h : OpenOnly ok q d)
    (opened : ∀ c, (d'.control c).openPass.map (·.punchIn) = (d.control c).openPass.map (·.punchIn))
    (pass : ∀ c, (d'.control c).pass = (d.control c).pass) (queue : d'.take.queue = d.take.queue) : OpenOnly ok q d' := by
  refine ⟨fun c p' open' => ?_, queue.trans h.queue⟩
  have both := opened c
  rw [open', Option.map_some] at both
  obtain ⟨p, open_c, same⟩ := Option.map_eq_some_iff.mp both.symm
  obtain ⟨kind, writing⟩ := h.pass c p open_c
  exact ⟨same ▸ kind, (pass c).trans writing⟩

theorem each {f : Fin 176 → Desk → Desk} (h : OpenOnly ok q d) (keeps : ∀ c u, OpenOnly ok q u → OpenOnly ok q (f c u))
    (l : List (Fin 176)) : OpenOnly ok q (d.each l f) := each_keeps keeps l h

theorem takePlayback (h : OpenOnly ok q d) (e : Env) (t : Tick) (c : Fin 176) : OpenOnly ok q (d.takePlayback e t c) := by
  refine h.of_same (fun j => ?_) (fun j => ?_) (samePasses_takePlayback e t c d).queue
  all_goals
    rw [control_takePlayback]
    split
    · next here => rw [here]; rfl
    · rfl

theorem tickGlide (h : OpenOnly ok q d) (c : Fin 176) : OpenOnly ok q (d.tickGlide c) := by
  obtain ⟨opened, pass⟩ := (d.control c).passes_countGlide
  refine h.of_same (fun j => ?_) (fun j => ?_) (samePasses_tickGlide c d).queue
  all_goals
    rw [control_tickGlide]
    split
    · next here => simp [here, opened, pass]
    · rfl

theorem tickApplied (h : OpenOnly ok q d) (e : Env) (c : Fin 176) : OpenOnly ok q (d.tickApplied e c) := by
  obtain ⟨opened, pass⟩ := (d.control c).passes_applyTick
  refine h.of_same (fun j => ?_) (fun j => ?_) (samePasses_tickApplied e c d).queue
  all_goals
    rw [control_tickApplied]
    split
    · next here => simp [here, opened, pass]
    · rfl

theorem tickMove (h : OpenOnly ok q d) (e : Env) (t : Tick) (opened : Bool) (c : Fin 176) :
    OpenOnly ok q (d.tickMove e t opened c) := by
  obtain ⟨lost, control⟩ := control_tickMove e t opened c d
  have values := fun j => values_tickMove e t opened c j d
  refine h.of_same (fun j => ?_) (fun j => (values j).pass) (samePasses_tickMove e t opened c d).queue
  have kept : ((d.control c).tickMove e t opened).openPass.map (·.punchIn) = (d.control c).openPass.map (·.punchIn) := by
    rcases pass : (d.control c).openPass with _ | p
    · rw [Control.tickMove_of_none pass, pass]
    · rw [Control.tickMove_of_some pass]
      rfl
  have damaged : ∀ x : Control, (x.damagedIf lost).openPass.map (·.punchIn) = x.openPass.map (·.punchIn) := fun x => by
    simp [Control.damagedIf, Function.comp_def]
  rw [control, damaged]
  split
  · next here => rw [here, kept]
  · rfl

/-- R127: no pass that is being written ends a glide. -/
theorem tickGlideEnd (h : OpenOnly ok q d) (e : Env) (c : Fin 176) : OpenOnly ok q (d.tickGlideEnd e c) := by
  have same : d.tickGlideEnd e c = d := by
    unfold Desk.tickGlideEnd
    split
    · next gliding _ =>
      have closed : (d.control c).openPass = none := Option.eq_none_iff_forall_ne_some.mpr fun p open_c => by
        have writing := (h.pass c p open_c).2
        rw [gliding] at writing
        cases writing
      rw [closePass_of_none closed, ite_self]
    · rfl
  rwa [same]

/-- R123: at step 5 a pass opens with the tick as its punch-in tick, in ROLLING and inside the punch window. -/
theorem tickPunchIn (h : OpenOnly ok q d) {e : Env} {t : Tick}
    (opens : e.pos.state = .rolling → d.auto.windowHolds t = true → ok t) (c : Fin 176) :
    OpenOnly ok q (d.tickPunchIn e t c) := by
  unfold Desk.tickPunchIn
  split
  · next primed =>
    split
    · obtain ⟨rolling, window, _⟩ : e.pos.state = .rolling ∧ d.auto.windowHolds t = true ∧ _ := by
        simpa [Desk.mayRecord, and_assoc] using primed.2
      have control : ∀ j, (d.openPass c t).control j =
          if j = c then { d.control c with openPass := some (d.openedPass c t), pass := .writing } else d.control j :=
        fun j => control_setControl c j _ d
      refine ⟨fun j p => ?_, h.queue⟩
      rw [control]
      split
      · rintro ⟨⟩
        exact ⟨opens rolling window, rfl⟩
      · exact h.pass j p
    · exact ⟨h.pass, h.queue⟩
  · exact h

/-- R138: behind the closings no record is filed where every open pass is being written. -/
theorem tickFrom (h : OpenOnly ok q d) {e : Env} {t : Tick}
    (opens : e.pos.state = .rolling → d.auto.windowHolds t = true → ok t) : OpenOnly ok q (d.tickFrom e t) := by
  have counted : OpenOnly ok q (d.tickCounted e t) :=
    (h.each (fun c _ h => h.takePlayback e t c) e.liveControls).each (fun c _ h => h.tickGlide c) e.liveControls
  have window : (d.tickCounted e t).auto.window = d.auto.window := (frame_tickCounted e t d).window
  have punched := each_keeps (P := fun u => OpenOnly ok q u ∧ u.auto.window = d.auto.window)
    (f := Desk.tickPunchIn e t) (fun c u ⟨only, same⟩ =>
      ⟨only.tickPunchIn (fun rolling holds => opens rolling (by unfold Auto.windowHolds at holds ⊢; rwa [same] at holds)) c,
        (frame_tickPunchIn e t c u).window.trans same⟩) e.liveControls ⟨counted, window⟩
  have applied := punched.1.each (fun c _ h => h.tickApplied e c) e.liveControls
  have moved := applied.each (fun c _ h => h.tickMove e t (d.opensIn e t c) c) e.liveControls
  exact moved.each (fun c _ h => h.tickGlideEnd e c) e.liveControls

end OpenOnly

end Desk

end Sys2Proof.Machine
end

section
/-!
The closings of a tick (R134, R137), the last tick of a glide (R127), the passes that a tick opens (R123, R124) and those it
carries on (R125).
-/

set_option Elab.async false

namespace Sys2Proof.Machine

/-- R124 step 5: the record once a tick is produced: its last move is one of an earlier tick. -/
def Control.aged (x : Control) : Control :=
  { x with lastMove := x.lastMove.map fun m => { m with current := false } }

namespace Desk

theorem control_ageMoves (c : Fin 176) (d : Desk) : d.ageMoves.control c = (d.control c).aged := by
  simp [Desk.control, Desk.ageMoves, Auto.ageMoves, Control.aged]

theorem openRecords_ageMoves (r : CloseReason) (d : Desk) : d.ageMoves.openRecords r = d.openRecords r := by
  unfold Desk.openRecords
  exact List.filterMap_congr fun c _ => by rw [control_ageMoves]; rfl

/-! ## The closings (R138 steps 1 and 2) -/

namespace OpenOnly

variable {q : List PassRecord} {d : Desk}

/-- Where no pass is open there is none to close. -/
theorem closeAll_eq (h : OpenOnly (fun _ => False) q d) (e : Env) (r : CloseReason) : d.closeAll e r = d :=
  each_of_fixed fun c _ => closePass_of_none (h.closed c)

theorem tickWindow_eq (h : OpenOnly (fun _ => False) q d) (e : Env) (t : MadeTick) : d.tickWindow e t = d := by
  unfold Desk.tickWindow
  split
  · rw [h.closeAll_eq, ite_self]
  · rfl

/-- R137: the abort fired, as to the passes, is the closing of all. -/
theorem fireAbort {ok : Tick → Prop} {e : Env} (h : OpenOnly ok q (d.closeAll e .abort)) : OpenOnly ok q (d.fireAbort e) := by
  unfold Desk.fireAbort
  generalize d.closeAll e .abort = v at h ⊢
  exact ⟨h.pass, h.queue⟩

theorem tickAbort (h : OpenOnly (fun _ => False) q d) (e : Env) (t : MadeTick) :
    OpenOnly (fun _ => False) q (d.tickAbort e t) := by
  unfold Desk.tickAbort
  split
  · exact fireAbort (by rwa [h.closeAll_eq])
  · exact h

theorem ageMoves {ok : Tick → Prop} (h : OpenOnly ok q d) : OpenOnly ok q d.ageMoves :=
  h.of_same (fun c => by rw [control_ageMoves]; rfl) (fun c => by rw [control_ageMoves]; rfl) rfl

theorem tickClosings (h : OpenOnly (fun _ => False) q d) (e : Env) (t : MadeTick) :
    OpenOnly (fun _ => False) q (d.tickClosings e t) := by
  have aborted := h.ageMoves.tickAbort e t
  unfold Desk.tickClosings
  rwa [aborted.tickWindow_eq]

/-- R132, R138: a tick out of ROLLING opens no pass, so that where none is open it leaves none and files none. -/
theorem takeTick (h : OpenOnly (fun _ => False) q d) {e : Env} (still : e.pos.state ≠ .rolling) (t : MadeTick) :
    OpenOnly (fun _ => False) q (d.takeTick e t) := by
  rw [takeTick_eq]
  exact (h.tickClosings e t).tickFrom fun rolling _ => absurd rolling still

end OpenOnly

/-- R134: at a tick at or beyond the out-tick the window closes every pass, and no later step of the tick opens one. -/
theorem closedBy_takeTick_of_window {d : Desk} {t : MadeTick} {i o : Tick} (pending : d.auto.pendingAbort = false)
    (window : d.auto.window = some (i, o)) (ended : o ≤ t.index) (e : Env) : d.closedBy .window (d.takeTick e t) := by
  have closings : d.tickClosings e t = d.ageMoves.closeAll e .window := by
    have quiet : d.ageMoves.auto.pendingAbort = false := pending
    have aborted : d.ageMoves.tickAbort e t = d.ageMoves := by simp [Desk.tickAbort, quiet]
    have found : d.ageMoves.auto.window = some (i, o) := window
    unfold Desk.tickClosings Desk.tickWindow
    rw [aborted, found]
    exact if_pos ended
  have closed := closedBy_iff_openOnly.mp (closedBy_closeAll e .window d.ageMoves)
  rw [openRecords_ageMoves] at closed
  rw [closedBy_iff_openOnly, takeTick_eq, closings]
  refine closed.tickFrom fun _ holds => ?_
  have kept : (d.ageMoves.closeAll e .window).auto.window = some (i, o) :=
    (frame_closeAll e .window d.ageMoves).window.trans window
  unfold Auto.windowHolds at holds
  rw [kept] at holds
  obtain ⟨_, before⟩ := Bool.and_eq_true_iff.mp holds
  exact absurd ended (BitVec.not_le.mpr (of_decide_eq_true before))

/-! ## The abort (R137) -/

/-- The pending abort and the ABORT record are as they were. -/
structure SameAbort (d d' : Desk) : Prop where
  pending : d'.auto.pendingAbort = d.auto.pendingAbort
  abort   : d'.ev.abort = d.ev.abort

namespace SameAbort

theorem andThen {a b c : Desk} (h : SameAbort a b) (k : SameAbort b c) : SameAbort a c :=
  ⟨k.pending.trans h.pending, k.abort.trans h.abort⟩

theorem each {α : Type} {f : α → Desk → Desk} (h : ∀ a d, SameAbort d (f a d)) (l : List α) (d : Desk) :
    SameAbort d (d.each l f) :=
  each_keeps (P := SameAbort d) (fun a _ kept => kept.andThen (h a _)) l ⟨rfl, rfl⟩

theorem apply (e : Env) (c : Fin 176) (v : Value) (d : Desk) : SameAbort d (d.apply e c v) := by
  refine ⟨by rw [auto_apply]; rfl, ?_⟩
  unfold Desk.apply
  split
  · rfl
  · rw [ev_handOn]
    rfl

theorem appendMove (c : Fin 176) (t : Tick) (d : Desk) : SameAbort d (d.appendMove c t) := by
  unfold Desk.appendMove
  dsimp only
  split <;> exact ⟨rfl, rfl⟩

theorem closePass (e : Env) (r : CloseReason) (c : Fin 176) (d : Desk) : SameAbort d (d.closePass e r c) := by
  obtain ⟨ev, pending⟩ := rest_closePass e r c d
  exact ⟨pending, by rw [ev]⟩

theorem closeAll (e : Env) (r : CloseReason) (d : Desk) : SameAbort d (d.closeAll e r) := each (closePass e r) _ d

theorem takePlayback (e : Env) (t : Tick) (c : Fin 176) (d : Desk) : SameAbort d (d.takePlayback e t c) := by
  unfold Desk.takePlayback
  split <;> exact ⟨rfl, rfl⟩

theorem tickGlide (c : Fin 176) (d : Desk) : SameAbort d (d.tickGlide c) := by
  unfold Desk.tickGlide
  dsimp only
  split <;> exact ⟨rfl, rfl⟩

theorem tickPunchIn (e : Env) (t : Tick) (c : Fin 176) (d : Desk) : SameAbort d (d.tickPunchIn e t c) := by
  unfold Desk.tickPunchIn
  split
  · split <;> exact ⟨rfl, rfl⟩
  · exact ⟨rfl, rfl⟩

theorem tickApplied (e : Env) (c : Fin 176) (d : Desk) : SameAbort d (d.tickApplied e c) := by
  unfold Desk.tickApplied Desk.decideApplied
  dsimp only
  split <;> exact apply e c _ d

theorem tickMove (e : Env) (t : Tick) (opened : Bool) (c : Fin 176) (d : Desk) :
    SameAbort d (d.tickMove e t opened c) := by
  unfold Desk.tickMove
  dsimp only
  split
  · split
    · exact (appendMove c t d).andThen ⟨rfl, rfl⟩
    · exact ⟨rfl, rfl⟩
  · exact ⟨rfl, rfl⟩

theorem tickGlideEnd (e : Env) (c : Fin 176) (d : Desk) : SameAbort d (d.tickGlideEnd e c) := by
  unfold Desk.tickGlideEnd
  split
  · split
    · exact closePass e .release c d
    · exact ⟨rfl, rfl⟩
  · exact ⟨rfl, rfl⟩

theorem tickFrom (e : Env) (t : Tick) (d : Desk) : SameAbort d (d.tickFrom e t) :=
  (((((each (takePlayback e t) _ d).andThen (each tickGlide _ _)).andThen (each (tickPunchIn e t) _ _)).andThen
    (each (tickApplied e) _ _)).andThen (each (fun c d => tickMove e t _ c d) _ _)).andThen (each (tickGlideEnd e) _ _)

end SameAbort

/-- What the crossing leaves at which the pending abort fires (R137): every pass closed, and those alone open that opened at
the tick itself. -/
structure AbortFired (t : Tick) (d d' : Desk) : Prop where
  pending : d'.auto.pendingAbort = false
  abort   : d'.ev.abort = some (.fired d.auto.openCount)
  passes  : OpenOnly (· = t) (d.take.queue ++ d.openRecords .abort) d'

theorem abortFired_takeTick {d : Desk} {t : MadeTick} (pending : d.auto.pendingAbort = true) (crossing : t.crossing = true)
    (e : Env) : AbortFired t.index d (d.takeTick e t) := by
  have waits : d.ageMoves.auto.pendingAbort = true := pending
  have fires : d.ageMoves.tickAbort e t = d.ageMoves.fireAbort e := by simp [Desk.tickAbort, crossing, waits]
  have closed : OpenOnly (fun _ => False) (d.take.queue ++ d.openRecords .abort) (d.ageMoves.fireAbort e) := by
    have all := closedBy_iff_openOnly.mp (closedBy_closeAll e .abort d.ageMoves)
    rw [openRecords_ageMoves] at all
    exact all.fireAbort
  have closings : d.tickClosings e t = d.ageMoves.fireAbort e := by
    unfold Desk.tickClosings
    rw [fires, closed.tickWindow_eq]
  have fired : (d.ageMoves.fireAbort e).auto.pendingAbort = false ∧
      (d.ageMoves.fireAbort e).ev.abort = some (.fired d.auto.openCount) := by
    unfold Desk.fireAbort
    generalize d.ageMoves.closeAll e .abort = v
    exact ⟨rfl, rfl⟩
  obtain ⟨later, record⟩ := SameAbort.tickFrom e t.index (d.ageMoves.fireAbort e)
  rw [takeTick_eq, closings]
  exact ⟨later.trans fired.1, record.trans fired.2, (closed.mono fun _ => False.elim).tickFrom fun _ _ => rfl⟩

/-! ## A control with an open pass at a tick (R125, R127) -/

section
variable {e : Env} {c : Fin 176} {u : Desk} {p : OpenPass}

/-- R125, R138: the record of a live control with an open pass, before the last step of a tick. -/
theorem control_tickMoved_of_open (live : e.live c = true) (pass : (u.control c).pass ≠ .primed)
    (open_c : (u.control c).openPass = some p) (t : Tick) : ∃ (x : Control) (lost : Bool),
      x = ((u.control c).play (e.play.inForce t c)).countGlide.applyTick ∧ (u.tickMoved e t).control c =
        { (if e.pos.state = .rolling ∧ x.moved then x.movedTo t else x) with
          openPass := some { p with latest := t, damaged := p.damaged || lost } } := by
  have counted := control_tickCounted live t u
  have opened := control_tickOpened_of_not_primed pass live t
  obtain ⟨before, _⟩ := ((u.control c).play (e.play.inForce t c)).passes_countGlide
  obtain ⟨applied, _⟩ := ((u.control c).play (e.play.inForce t c)).countGlide.passes_applyTick
  have carried : u.opensIn e t c = false := by
    unfold opensIn
    rw [opened, counted, before]
    exact congrArg (fun o : Option OpenPass => o.isNone && o.isSome) open_c
  obtain ⟨lost, moved⟩ := control_tickMoved live t u
  refine ⟨_, lost, rfl, ?_⟩
  rw [opened, counted, carried, Control.tickMove_of_some ((applied.trans before).trans open_c)] at moved
  rw [moved]
  simp [Control.damagedIf]

/-- R125: what a tick makes of a control whose pass is open and not gliding. -/
theorem control_tickFrom_of_writing (live : e.live c = true) (open_c : (u.control c).openPass = some p)
    (pass : (u.control c).pass = .writing ∨ (u.control c).pass = .holding) (t : Tick) : ∃ (x : Control) (lost : Bool),
      x = { u.control c with playback := x.playback, applied := x.applied } ∧ (u.tickFrom e t).control c =
        { (if e.pos.state = .rolling ∧ x.moved then x.movedTo t else x) with
          openPass := some { p with latest := t, damaged := p.damaged || lost } } := by
  have idle : (u.control c).pass ≠ .primed ∧ (u.control c).pass ≠ .gliding := by
    rcases pass with pass | pass <;> rw [pass] <;> decide
  obtain ⟨x, lost, hx, moved⟩ := control_tickMoved_of_open live idle.1 open_c t
  have counted := Control.countGlide_of_not (x := (u.control c).play (e.play.inForce t c)) fun _ gliding _ =>
    idle.2 gliding
  have applied := Control.applyTick_of_not (x := (u.control c).play (e.play.inForce t c)) fun _ gliding _ =>
    idle.2 gliding
  rw [counted, applied] at hx
  refine ⟨x, lost, by rw [hx]; rfl, ?_⟩
  have state : ((u.tickMoved e t).control c).pass = (u.control c).pass := by
    rw [moved, hx]
    split <;> rfl
  rw [control_tickFrom live, Control.endGlide_of_pass (by rw [state]; exact idle.2), moved]

/-- R127, R132: through the last step of a tick the record of a glide that has ended comes into the queue and stays. -/
theorem queue_each_tickGlideEnd {l : List (Fin 176)} (mem : c ∈ l) {g : Glide} (gliding : (u.control c).pass = .gliding)
    (glide : (u.control c).glide = some g) (ended : g.length ≤ g.taken) (open_c : (u.control c).openPass = some p) :
    p.record c .release ∈ (u.each l (Desk.tickGlideEnd e)).take.queue := by
  have stays : ∀ (a : Fin 176) (d : Desk), p.record c .release ∈ d.take.queue →
      p.record c .release ∈ (d.tickGlideEnd e a).take.queue :=
    fun a d filed => (queue_tickGlideEnd e a d).subset filed
  have makes : ∀ d : Desk, d.control c = u.control c ∨ p.record c .release ∈ d.take.queue →
      p.record c .release ∈ (d.tickGlideEnd e c).take.queue := by
    rintro d (same | filed)
    · have closes : d.tickGlideEnd e c = d.closePass e .release c := by
        unfold Desk.tickGlideEnd
        rw [same, gliding, glide]
        exact if_pos ended
      rw [closes, (closePass_passes e .release c d).1, same, open_c]
      simp
    · exact stays c d filed
  refine each_reaches (P := fun d => d.control c = u.control c ∨ p.record c .release ∈ d.take.queue)
    (Q := fun d => p.record c .release ∈ d.take.queue) (fun a d fit => ?_) stays makes mem (.inl rfl)
  by_cases here : a = c
  · subst here
    exact .inr (makes d fit)
  · refine fit.imp (fun same => ?_) (stays a d)
    rw [control_tickGlideEnd, if_neg (Ne.symm here), same]

/-- What the last tick of a glide leaves of the control (R127). -/
structure GlideEnded (c : Fin 176) (t : Tick) (p : OpenPass) (d : Desk) : Prop where
  openPass : (d.control c).openPass = none
  glide    : (d.control c).glide = none
  record   : ∃ q, OpenPass.record { p with latest := t, damaged := q } c .release ∈ d.take.queue

theorem glideEnded_tickFrom {g : Glide} (live : e.live c = true) (gliding : (u.control c).pass = .gliding)
    (glide : (u.control c).glide = some g) (last : g.taken + 1 = g.length) (open_c : (u.control c).openPass = some p)
    (t : Tick) : GlideEnded c t p (u.tickFrom e t) := by
  obtain ⟨x, lost, hx, moved⟩ := control_tickMoved_of_open live (by rw [gliding]; decide) open_c t
  have counts := Control.countGlide_of_gliding (x := (u.control c).play (e.play.inForce t c)) gliding glide
  have applies := Control.applyTick_of_gliding gliding
    (x := { (u.control c).play (e.play.inForce t c) with glide := some { g with taken := g.taken + 1 } }) rfl
  rw [counts, applies] at hx
  have pass : ((u.tickMoved e t).control c).pass = .gliding := by
    rw [moved, hx]
    split <;> exact gliding
  have counted : ((u.tickMoved e t).control c).glide = some { g with taken := g.taken + 1 } := by
    rw [moved, hx]
    split <;> rfl
  have still_open : ((u.tickMoved e t).control c).openPass = some { p with latest := t, damaged := p.damaged || lost } := by
    rw [moved]
  have closed : (u.tickFrom e t).control c = ((u.tickMoved e t).control c).closed := by
    rw [control_tickFrom live, Control.endGlide_of_gliding pass counted, if_pos last.ge]
  rw [Control.closed_of_some still_open] at closed
  exact ⟨by rw [closed], by rw [closed], _, queue_each_tickGlideEnd (by simp [live]) pass counted last.ge still_open⟩

end

end Desk
end Sys2Proof.Machine
end

section
/-!
The passes that a tick opens (R123, R124 steps 1 to 3, R164): where the queue has room for all of them, and where it has none.
-/

set_option Elab.async false

namespace Sys2Proof.Machine

/-- R124 steps 1 and 2: the record with a pass of the serial opened at the tick. -/
def Control.opensWith (serial : BitVec 16) (t : Tick) (x : Control) : Control :=
  { x with
    pass := .writing
    openPass := some { serial := serial, mode := x.mode, punchIn := t, latest := t, glideStart := none, damaged := false,
                       driverLost := false } }

namespace Desk

/-- The control is PRIMED and not safe: in ROLLING and inside the window its recording conditions hold (R123). -/
def punchesIn (d : Desk) (c : Fin 176) : Bool := (d.control c).pass == .primed && !(d.control c).safe

theorem control_openPass (c j : Fin 176) (t : Tick) (d : Desk) : (d.openPass c t).control j =
    if j = c then (d.control c).opensWith d.auto.nextSerial t else d.control j := control_setControl c j _ d

section
variable {e : Env} {t : Tick} {c : Fin 176} {d : Desk}

theorem punchesIn_iff : d.punchesIn c = true ↔ (d.control c).pass = .primed ∧ (d.control c).safe = false := by
  simp [punchesIn]

theorem tickPunchIn_of_not (h : d.punchesIn c = false) : d.tickPunchIn e t c = d := by
  refine if_neg fun ⟨primed, records⟩ => ?_
  obtain ⟨_, _, safe⟩ := (mayRecord_iff e c t d).mp records
  rw [punchesIn_iff.mpr ⟨primed, safe⟩] at h
  cases h

theorem tickPunchIn_of_punchesIn (rolling : e.pos.state = .rolling) (holds : d.auto.windowHolds t = true)
    (h : d.punchesIn c = true) :
    d.tickPunchIn e t c = if d.take.room then d.openPass c t else d.raise .passFull := by
  obtain ⟨primed, safe⟩ := punchesIn_iff.mp h
  have records : d.mayRecord e c t = true := by simp [Desk.mayRecord, rolling, holds, safe]
  exact if_pos ⟨primed, records⟩

/-! ## Room for all (R124) -/

/-- R124, R138 step 5: with room for all of them every control whose recording conditions hold opens a pass, the serials rising
with the control ids. -/
theorem control_each_tickPunchIn_of_room (rolling : e.pos.state = .rolling) {l : List (Fin 176)}
    (sorted : l.Pairwise (· < ·)) (holds : d.auto.windowHolds t = true)
    (room : d.take.queue.length + d.take.reserved + (l.filter d.punchesIn).length ≤ 32) (mem : c ∈ l)
    (punches : d.punchesIn c = true) : (d.each l (Desk.tickPunchIn e t)).control c = (d.control c).opensWith
      (d.auto.nextSerial + BitVec.ofNat 16 ((l.filter d.punchesIn).filter (· < c)).length) t := by
  induction l generalizing d with
  | nil => cases mem
  | cons k l ih =>
    obtain ⟨above, rest⟩ := List.pairwise_cons.mp sorted
    have step : d.each (k :: l) (Desk.tickPunchIn e t) = (d.tickPunchIn e t k).each l (Desk.tickPunchIn e t) := rfl
    rw [step]
    rcases first : d.punchesIn k with _ | _
    · have later : c ∈ l := (List.mem_cons.mp mem).resolve_left fun same => by
        rw [same, first] at punches
        cases punches
      rw [List.filter_cons_of_neg (by simp [first])] at room ⊢
      rw [tickPunchIn_of_not first]
      exact ih rest holds room later punches
    · rw [List.filter_cons_of_pos first, List.length_cons] at room
      have place : d.take.room = true := decide_eq_true (by omega)
      have others : ∀ j, k < j → (d.openPass k t).control j = d.control j := fun j after => by
        rw [control_openPass, if_neg after.ne']
      have same : l.filter (d.openPass k t).punchesIn = l.filter d.punchesIn :=
        List.filter_congr fun j hj => by
          unfold punchesIn
          rw [others j (above j hj)]
      rw [tickPunchIn_of_punchesIn rolling holds first, if_pos place, List.filter_cons_of_pos first]
      rcases List.mem_cons.mp mem with rfl | later
      · have fresh : c ∉ l := fun h => absurd (above c h) (lt_irrefl c)
        have none_below : (c :: l.filter d.punchesIn).filter (· < c) = [] := by
          refine List.filter_eq_nil_iff.mpr fun j hj => ?_
          rcases List.mem_cons.mp hj with rfl | hj
          · simp
          · simpa using (above j (List.mem_filter.mp hj).1).le
        have later := (control_each_tickPunchIn e t (rest.imp fun h => h.ne) (d.openPass c t) c).2 fresh
        rw [later, control_openPass, if_pos rfl, none_below]
        simp
      · have room' : (d.openPass k t).take.queue.length + (d.openPass k t).take.reserved +
            (l.filter (d.openPass k t).punchesIn).length ≤ 32 := by
          have queue : (d.openPass k t).take.queue = d.take.queue := rfl
          have reserved : (d.openPass k t).take.reserved = d.take.reserved + 1 := rfl
          rw [same, queue, reserved]
          omega
        have still : (d.openPass k t).punchesIn c = true := by
          unfold punchesIn
          rw [others c (above c later)]
          exact punches
        have serial : (d.openPass k t).auto.nextSerial = d.auto.nextSerial + 1 := rfl
        have opened := ih (d := d.openPass k t) rest holds room' later still
        rw [others c (above c later), same, serial] at opened
        rw [opened, List.filter_cons_of_pos (by simpa using above c later), List.length_cons, Nat.add_comm _ 1,
          BitVec.ofNat_add, BitVec.add_assoc]
        rfl

/-! ## No room (R164) -/

/-- R124, R164: without room a control whose recording conditions hold raises PASS_FULL, and no control changes. -/
theorem each_tickPunchIn_of_full (full : d.take.room = false) (l : List (Fin 176)) :
    (∀ j, (d.each l (Desk.tickPunchIn e t)).control j = d.control j) ∧
      (e.pos.state = .rolling → d.auto.windowHolds t = true → c ∈ l → d.punchesIn c = true →
        (d.each l (Desk.tickPunchIn e t)).flag .passFull = true) := by
  have fit : ∀ (k : Fin 176) (u : Desk), u.take = d.take ∧ u.auto = d.auto → (u.tickPunchIn e t k).take = d.take ∧
      (u.tickPunchIn e t k).auto = d.auto := by
    intro k u ⟨take, auto⟩
    unfold Desk.tickPunchIn
    split
    · rw [if_neg (by rw [take, full]; exact Bool.false_ne_true)]
      exact ⟨take, auto⟩
    · exact ⟨take, auto⟩
  refine ⟨fun j => ?_, fun rolling holds mem punches => ?_⟩
  · have kept := each_keeps (P := fun u => u.take = d.take ∧ u.auto = d.auto) fit l ⟨rfl, rfl⟩
    exact congrArg (fun a : Auto => a.controls[j]) kept.2
  · refine each_reaches (P := fun u => u.take = d.take ∧ u.auto = d.auto) (Q := fun u => u.flag .passFull = true) fit
      (fun k u set => (frame_tickPunchIn e t k u).flags.stay _ set) (fun u ⟨take, auto⟩ => ?_) mem ⟨rfl, rfl⟩
    have same : u.control c = d.control c := congrArg (fun a : Auto => a.controls[c]) auto
    have now : u.punchesIn c = true := by
      unfold punchesIn
      rw [same]
      exact punches
    rw [tickPunchIn_of_punchesIn rolling (by rw [auto]; exact holds) now, take, full]
    simp

/-! ## The tick from its closings on -/

/-- What steps 3 and 4 leave that an opening reads. -/
theorem rest_tickCounted (e : Env) (t : Tick) (d : Desk) : (d.tickCounted e t).take = d.take ∧
    (d.tickCounted e t).auto.nextSerial = d.auto.nextSerial := by
  have played := each_keeps (P := fun u => u.take = d.take ∧ u.auto.nextSerial = d.auto.nextSerial)
    (f := Desk.takePlayback e t) (fun c u h => by unfold Desk.takePlayback; split <;> exact h) e.liveControls ⟨rfl, rfl⟩
  exact each_keeps (P := fun u => u.take = d.take ∧ u.auto.nextSerial = d.auto.nextSerial)
    (f := Desk.tickGlide) (fun c u h => by unfold Desk.tickGlide; dsimp only; split <;> exact h) e.liveControls played

theorem punchesIn_tickCounted (live : e.live c = true) : (d.tickCounted e t).punchesIn c = d.punchesIn c := by
  obtain ⟨_, safe, _⟩ := (frame_tickCounted e t d).settings c
  unfold punchesIn
  rw [safe, control_tickCounted live, (Control.passes_countGlide _).2]
  rfl

theorem filter_tickCounted (e : Env) (t : Tick) (d : Desk) :
    e.liveControls.filter (d.tickCounted e t).punchesIn = e.liveControls.filter d.punchesIn :=
  List.filter_congr fun c live => punchesIn_tickCounted ((e.mem_liveControls c).mp live)

/-- A pass that the tick opens as the `n`th of its passes, with its first move (R124). -/
structure OpenedAt (c : Fin 176) (t : Tick) (n : Nat) (d d' : Desk) : Prop where
  pass     : (d'.control c).pass = .writing
  lastMove : (d'.control c).lastMove = some { tick := t, value := (d'.control c).applied, current := true }
  openPass : ∃ lost, (d'.control c).openPass =
    some { d.openedPass c t with serial := d.auto.nextSerial + BitVec.ofNat 16 n, damaged := lost }

theorem openedAt_tickFrom (live : e.live c = true) (closed : (d.control c).openPass = none)
    (rolling : e.pos.state = .rolling) (holds : d.auto.windowHolds t = true)
    (room : d.take.queue.length + d.take.reserved + (e.liveControls.filter d.punchesIn).length ≤ 32)
    (punches : d.punchesIn c = true) :
    OpenedAt c t ((e.liveControls.filter d.punchesIn).filter (· < c)).length d (d.tickFrom e t) := by
  obtain ⟨take, serial⟩ := rest_tickCounted e t d
  have frame := frame_tickCounted e t d
  have sorted : e.liveControls.Pairwise (· < ·) := (List.sortedLT_finRange 176).pairwise.filter _
  have window : (d.tickCounted e t).auto.windowHolds t = true := by
    unfold Auto.windowHolds at holds ⊢
    rwa [frame.window]
  have opened := control_each_tickPunchIn_of_room (c := c) rolling sorted window
    (by rw [take, filter_tickCounted]; exact room) (by simp [live]) (by rw [punchesIn_tickCounted live, punches])
  rw [serial, filter_tickCounted] at opened
  change (d.tickOpened e t).control c = _ at opened
  have opens : d.opensIn e t c = true := by
    have before : ((d.tickCounted e t).control c).openPass = none := by
      rw [control_tickCounted live, (Control.passes_countGlide _).1]
      exact closed
    unfold opensIn
    rw [opened, before]
    rfl
  obtain ⟨mode, _⟩ := frame.settings c
  obtain ⟨lost, moved⟩ := control_tickMoved live t d
  rw [opened, opens, Control.applyTick_of_not (by simp [Control.opensWith]), Control.tickMove_of_some rfl,
    if_pos ⟨rolling, .inl rfl⟩] at moved
  have writing : ((d.tickMoved e t).control c).pass = .writing := by rw [moved]; rfl
  rw [← Control.endGlide_of_pass (x := (d.tickMoved e t).control c) (by rw [writing]; decide),
    ← control_tickFrom live] at moved
  refine ⟨by rw [moved]; rfl, by rw [moved]; rfl, lost, ?_⟩
  rw [moved]
  simp [Control.damagedIf, Control.movedTo, Control.opensWith, openedPass, mode]

/-- R164: without room the tick leaves a PRIMED control as it is, and PASS_FULL is raised. -/
theorem full_tickFrom (live : e.live c = true) (closed : (d.control c).openPass = none)
    (rolling : e.pos.state = .rolling) (holds : d.auto.windowHolds t = true) (full : d.take.room = false)
    (punches : d.punchesIn c = true) : ((d.tickFrom e t).control c).pass = .primed ∧
      ((d.tickFrom e t).control c).openPass = none ∧ (d.tickFrom e t).flag .passFull = true := by
  obtain ⟨take, _⟩ := rest_tickCounted e t d
  have window : (d.tickCounted e t).auto.windowHolds t = true := by
    unfold Auto.windowHolds at holds ⊢
    rwa [(frame_tickCounted e t d).window]
  obtain ⟨same, flag⟩ := each_tickPunchIn_of_full (e := e) (t := t) (c := c) (d := d.tickCounted e t)
    (by rw [take, full]) e.liveControls
  have raised := flag rolling window (by simp [live]) (by rw [punchesIn_tickCounted live, punches])
  obtain ⟨primed, _⟩ := punchesIn_iff.mp punches
  have opened : (d.tickOpened e t).control c = ((d.control c).play (e.play.inForce t c)).countGlide :=
    (same c).trans (control_tickCounted live t d)
  obtain ⟨before, state⟩ := ((d.control c).play (e.play.inForce t c)).passes_countGlide
  obtain ⟨applied, decided⟩ := ((d.control c).play (e.play.inForce t c)).countGlide.passes_applyTick
  obtain ⟨lost, moved⟩ := control_tickMoved live t d
  rw [opened, Control.tickMove_of_none ((applied.trans before).trans closed)] at moved
  have pass : ((d.tickMoved e t).control c).pass = .primed := by
    rw [moved]
    exact (decided.trans state).trans primed
  have none_open : ((d.tickMoved e t).control c).openPass = none := by
    rw [moved]
    exact congrArg (Option.map _) ((applied.trans before).trans closed)
  rw [control_tickFrom live, Control.endGlide_of_pass (by rw [pass]; decide)]
  have later : AutoFrame (d.tickOpened e t) (d.tickFrom e t) :=
    ((AutoFrame.each _ _ (fun c u => frame_tickApplied e c u) _).andThen
      (AutoFrame.each _ _ (fun c u => frame_tickMove e t (d.opensIn e t c) c u) _)).andThen
      (AutoFrame.each _ _ (fun c u => frame_tickGlideEnd e c u) _)
  exact ⟨pass, none_open, later.flags.stay _ raised⟩

end

end Desk

end Sys2Proof.Machine
end

section
/-!
A tick of POS at AUTO: the events before it (R11, R133), and the desk that it leaves (R123 to R127, R132, R134, R137).
-/

set_option Elab.async false

namespace Sys2Proof.Machine

/-! ## The events of a sample event that produces a tick (R11) -/

/-- Where a tick is produced, there is no event but those of the entry into the locked state that POS is in. -/
def PosOut.entersQuietly (o : PosOut) : Prop :=
  o.made.isSome → o.events = [] ∨ ∃ before m, o.pos.state = m.transport ∧ o.events = entryEvent before m

namespace PosOut

theorem entersQuietly_of_no_tick {p : Pos} {l : List PosEvent} :
    entersQuietly { pos := p, events := l, made := none } := fun h => by cases h

theorem entersQuietly_of_no_event {o : PosOut} (h : o.events = []) : o.entersQuietly := fun _ => .inl h

end PosOut

section
variable {rate96 : Bool} {rate : FrameRate} {p : Pos}

theorem entersQuietly_enterLocked (left entered : FrameNo) (before : Option Motion) (m : Motion) (p : Pos) :
    (enterLocked rate96 rate left entered m (entryEvent before m) p).entersQuietly := by
  rw [enterLocked_eq]
  exact fun _ => .inr ⟨before, m, rfl, rfl⟩

theorem entersQuietly_takeEdgeLocked (m : Motion) (f : FrameNo) (p : Pos) :
    (takeEdgeLocked rate96 rate m f p).entersQuietly := by
  unfold takeEdgeLocked
  split
  · exact entersQuietly_enterLocked _ _ _ _ _
  · exact PosOut.entersQuietly_of_no_tick

theorem entersQuietly_takeEdgeOffTime (m : Motion) (f : FrameNo) (p : Pos) :
    (takeEdgeOffTime m f p).entersQuietly := by
  unfold takeEdgeOffTime
  dsimp only
  split <;> exact PosOut.entersQuietly_of_no_tick

theorem entersQuietly_missEdgeLocked (m : Motion) (p : Pos) : (missEdgeLocked rate96 rate m p).entersQuietly := by
  unfold missEdgeLocked
  split
  · exact PosOut.entersQuietly_of_no_tick
  · rw [enterLocked_eq]
    exact PosOut.entersQuietly_of_no_event rfl

theorem entersQuietly_takeEdgeFresh (f : FrameNo) (p : Pos) : (takeEdgeFresh f p).entersQuietly := by
  unfold takeEdgeFresh
  dsimp only
  split <;> exact PosOut.entersQuietly_of_no_tick

theorem entersQuietly_takeEdgeChasing (x f : FrameNo) (p : Pos) :
    (takeEdgeChasing rate96 rate x f p).entersQuietly := by
  unfold takeEdgeChasing
  dsimp only
  split
  · split
    · exact entersQuietly_enterLocked _ _ _ _ _
    · exact PosOut.entersQuietly_of_no_tick
  · exact PosOut.entersQuietly_of_no_tick

theorem entersQuietly_missEdgeChasing (p : Pos) : (missEdgeChasing p).entersQuietly := by
  unfold missEdgeChasing
  split <;> exact PosOut.entersQuietly_of_no_tick

theorem Pos.entersQuietly_sample (rate96 : Bool) (rate : FrameRate) (edge : Option FrameNo) (p : Pos) :
    (p.sample rate96 rate edge).entersQuietly := by
  unfold Pos.sample
  split
  · split
    · exact entersQuietly_takeEdgeLocked _ _ p
    · exact entersQuietly_takeEdgeOffTime _ _ p
    · exact entersQuietly_missEdgeLocked _ p
    · rcases produceTick_cases (spf rate96 rate p.frame) false [] { p with offset := p.offset + 1 } with ⟨_, _, e⟩ | e
      · rw [e]
        exact PosOut.entersQuietly_of_no_event rfl
      · rw [e]
        exact PosOut.entersQuietly_of_no_tick
  · split
    · exact PosOut.entersQuietly_of_no_tick
    · exact PosOut.entersQuietly_of_no_tick
    · split
      · exact entersQuietly_takeEdgeChasing _ _ p
      · exact entersQuietly_takeEdgeFresh _ p
    · split
      · exact entersQuietly_missEdgeChasing p
      · exact PosOut.entersQuietly_of_no_tick

end

/-- R11: an entry into ROLLING raises ROLL or nothing. -/
theorem entryEvent_rolling (before : Option Motion) : entryEvent before .rolling = [] ∨ entryEvent before .rolling = [.roll] := by
  rcases before with _ | m
  · exact .inr rfl
  · cases m
    case rolling => exact .inl rfl
    all_goals exact .inr rfl

/-- R11: POS is not in ROLLING at the tick of a STOP or a REVERSE. -/
theorem State.not_rolling_of_event {s : State} {edge : Option FrameNo} {k : MadeTick} (made : (s.posOut edge).made = some k)
    (event : (s.posOut edge).events = [.stop] ∨ (s.posOut edge).events = [.reverse]) :
    (s.posOut edge).pos.state ≠ .rolling := by
  have quiet : (s.posOut edge).entersQuietly := by
    unfold State.posOut
    split
    · exact Pos.entersQuietly_sample _ _ edge s.pos
    · exact PosOut.entersQuietly_of_no_tick
  intro rolling
  have none_or_roll : (s.posOut edge).events = [] ∨ (s.posOut edge).events = [.roll] := by
    rcases quiet (by rw [made]; rfl) with none_of | ⟨before, m, state, entry⟩
    · exact .inl none_of
    · obtain rfl : m = .rolling := by
        rw [rolling] at state
        cases m <;> cases state
        rfl
      rw [entry]
      exact entryEvent_rolling before
  rcases event with e | e <;> rw [e] at none_or_roll <;> simp at none_or_roll

/-! ## The desk of the tick -/

/-- The state as the transport events of the sample event leave it, before the tick. -/
def State.beforeTick (edge : Option FrameNo) (s : State) : State :=
  (s.posOut edge).events.foldl (fun (s : State) v => s.takePosEvent v) { s with pos := (s.posOut edge).pos }

/-- POS's part of a sample event with a tick, at AUTO and TAKE: the desk at which AUTO takes the tick, and its surroundings. -/
structure State.TicksOn (edge : Option FrameNo) (k : MadeTick) (s : State) (d : Desk) (e : Env) : Prop where
  after    : ∃ n, (s.posAlone edge).desk = (d.takeTick e k).fixLengths n
  pos      : e.pos = (s.posOut edge).pos
  live     : ∀ c, e.live c = s.env.live c
  auto     : d.auto = (s.beforeTick edge).desk.auto
  queue    : d.take.queue = (s.beforeTick edge).desk.take.queue
  reserved : d.take.reserved = (s.beforeTick edge).desk.take.reserved

namespace State

variable {s : State} {edge : Option FrameNo} {k : MadeTick} {d : Desk} {e : Env}

theorem exists_ticksOn (made : (s.posOut edge).made = some k) : ∃ d e, s.TicksOn edge k d e := by
  obtain ⟨d₀, y₀, around⟩ := takePosEvents_eq (s.posOut edge).events { s with pos := (s.posOut edge).pos }
  have before : s.beforeTick edge = { s with pos := (s.posOut edge).pos, desk := d₀, play := y₀ } := around
  have phase : s.posPhase edge = (s.beforeTick edge).takeTick k := posPhase_of_tick made
  obtain ⟨d, tick, auto, queue, reserved⟩ : ∃ d : Desk, ((s.beforeTick edge).takeTick k).desk =
      d.takeTick { (s.beforeTick edge).env with play := (s.beforeTick edge).play.tick (s.beforeTick edge).pos k.index } k ∧
      d.auto = (s.beforeTick edge).desk.auto ∧ d.take.queue = (s.beforeTick edge).desk.take.queue ∧
      d.take.reserved = (s.beforeTick edge).desk.take.reserved := by
    unfold State.takeTick
    dsimp only
    split
    · exact ⟨_, rfl, rfl, Take.queue_leavePage _ _, Take.reserved_leavePage _ _⟩
    · exact ⟨_, rfl, rfl, Take.queue_leavePage _ _, Take.reserved_leavePage _ _⟩
  refine ⟨d, _, ⟨_, by rw [posAlone_desk, phase, tick]⟩, by rw [before]; rfl, fun c => by rw [before]; rfl, auto, queue, reserved⟩

/-- R133: an entry without event, or with ROLL, leaves AUTO and TAKE alone. -/
theorem beforeTick_of_quiet (quiet : (s.posOut edge).events = [] ∨ (s.posOut edge).events = [.roll]) :
    (s.beforeTick edge).desk.auto = s.desk.auto ∧ (s.beforeTick edge).desk.take = s.desk.take := by
  unfold State.beforeTick
  rcases quiet with e | e <;> rw [e]
  · exact ⟨rfl, rfl⟩
  · rw [List.foldl_cons, List.foldl_nil, passes_takePosEvent rfl]
    exact ⟨rfl, rfl⟩

theorem beforeTick_of_event {v : PosEvent} {r : CloseReason} (event : (s.posOut edge).events = [v]) (closes : v.closes = some r) :
    s.desk.closedBy r (s.beforeTick edge).desk := by
  unfold State.beforeTick
  rw [event]
  exact closedBy_takePosEvent closes { s with pos := (s.posOut edge).pos }

/-- R137: transport events leave the pending abort. -/
theorem pendingAbort_beforeTick (edge : Option FrameNo) (s : State) :
    (s.beforeTick edge).desk.auto.pendingAbort = s.desk.auto.pendingAbort := by
  have event : ∀ (v : PosEvent) (u : State), (u.takePosEvent v).desk.auto.pendingAbort = u.desk.auto.pendingAbort := by
    intro v u
    rw [desk_takePosEvent]
    unfold Desk.takeEvent
    split
    case h_6 | h_7 => rfl
    all_goals rw [(Desk.rest_closeAll u.env _ _).2]; rfl
  have run : ∀ (l : List PosEvent) (u : State), (l.foldl (fun (s : State) v => s.takePosEvent v) u).desk.auto.pendingAbort =
      u.desk.auto.pendingAbort := by
    intro l
    induction l with
    | nil => exact fun _ => rfl
    | cons v l ih => exact fun u => (ih _).trans (event v u)
  exact run _ _

end State

end Sys2Proof.Machine
end

section
/-!
The parts of a tick that end, open and carry on passes (R123 to R127, R132 to R134, R137), as the rows of the sample event show
them.
-/

set_option Elab.async false

namespace Sys2Proof.Machine

theorem Desk.openRecords_congr {d d' : Desk} (auto : d'.auto = d.auto) (r : CloseReason) :
    d'.openRecords r = d.openRecords r := by
  unfold Desk.openRecords Desk.control
  rw [auto]

/-- R123: the punch window is absent or holds the tick. -/
theorem Auto.windowHolds_of {a : Auto} {t : Tick} (h : ∀ i o, a.window = some (i, o) → i ≤ t ∧ t < o) :
    a.windowHolds t = true := by
  unfold Auto.windowHolds
  split
  · rfl
  · next i o found =>
    obtain ⟨begun, ends⟩ := h i o found
    simp [begun, ends]

/-- What a tick leaves of a control with an open pass that is not gliding (R125). -/
structure Control.CarriedOn (t : Tick) (rolling : Prop) (p : OpenPass) (x y : Control) : Prop where
  pass     : y.pass = x.pass
  openPass : ∃ q, y.openPass = some { p with latest := t, damaged := q }
  moved    : rolling → x.lastMove.map (·.value) ≠ some y.applied →
    y.lastMove = some { tick := t, value := y.applied, current := true }
  still    : ¬rolling ∨ x.lastMove.map (·.value) = some y.applied →
    y.lastMove = x.lastMove.map fun m => { m with current := false }

namespace State

variable {s : State} {edge : Option FrameNo} {k : MadeTick} {d : Desk} {e : Env}

/-! ## The rows and POS's part of the sample event -/

theorem pos_ring_posAlone (edge : Option FrameNo) (s : State) :
    (s.posAlone edge).pos = (s.posOut edge).pos ∧ (s.posAlone edge).ring = s.ring := by
  obtain ⟨d, y, same⟩ := posAlone_eq edge s
  rw [same]
  exact ⟨rfl, rfl⟩

theorem exec_abortFired (clocked : s.clocked) (pending : s.desk.auto.pendingAbort = true)
    (made : (s.posOut edge).made = some k) (crossing : k.crossing = true) :
    exec (.abortFired edge) s = .next (s.posAlone edge) := by
  have due : s.abortDue edge = true := by
    unfold State.abortDue
    rw [pending, made]
    exact crossing
  exact congrArg Host.Outcome.next (part_of_clocked clocked due _)

theorem exec_glideEnd {c : Fin 176} {g : Glide} (clocked : s.clocked) (live : s.env.live c = true)
    (made : (s.posOut edge).made = some k) (gliding : (s.desk.control c).pass = .gliding)
    (glide : (s.desk.control c).glide = some g) (last : g.taken + 1 = g.length) :
    exec (.glideEnd c edge) s = .next (s.posAlone edge) := by
  have due : s.glideDue c edge = true := by
    unfold State.glideDue
    rw [live, gliding, made, glide]
    exact decide_eq_true last.ge
  exact congrArg Host.Outcome.next (part_of_clocked clocked due _)

namespace TicksOn

/-! ## Reading the desk after the tick -/

theorem control_after (h : s.TicksOn edge k d e) (c : Fin 176) :
    (s.posAlone edge).desk.control c = (d.takeTick e k).control c := by
  obtain ⟨n, after⟩ := h.after
  rw [after, Desk.control_fixLengths]

theorem take_after (h : s.TicksOn edge k d e) : (s.posAlone edge).desk.take = (d.takeTick e k).take := by
  obtain ⟨n, after⟩ := h.after
  rw [after, Desk.fixLengths_take]

theorem openOnly_after (h : s.TicksOn edge k d e) {ok : Tick → Prop} {q : List PassRecord}
    (only : Desk.OpenOnly ok q (d.takeTick e k)) : Desk.OpenOnly ok q (s.posAlone edge).desk :=
  only.of_same (fun c => by rw [h.control_after]) (fun c => by rw [h.control_after]) (by rw [h.take_after])

/-- Without an event, and with ROLL alone, AUTO takes the tick as the row found it. -/
theorem start (h : s.TicksOn edge k d e) (quiet : (s.posOut edge).events = [] ∨ (s.posOut edge).events = [.roll]) :
    d.auto = s.desk.auto ∧ d.take.queue = s.desk.take.queue ∧ d.take.reserved = s.desk.take.reserved := by
  obtain ⟨auto, take⟩ := beforeTick_of_quiet quiet
  exact ⟨h.auto.trans auto, by rw [h.queue, take], by rw [h.reserved, take]⟩

/-! ## The passes that end -/

/-- R137: a pending abort at a crossing. -/
theorem abortFired (h : s.TicksOn edge k d e) (pending : s.desk.auto.pendingAbort = true) (crossing : k.crossing = true) :
    (s.posAlone edge).desk.auto.pendingAbort = false ∧
      (s.posAlone edge).desk.ev.abort = some (.fired d.auto.openCount) ∧
      Desk.OpenOnly (· = k.index) (d.take.queue ++ d.openRecords .abort) (s.posAlone edge).desk := by
  have waits : d.auto.pendingAbort = true := by rw [h.auto, pendingAbort_beforeTick, pending]
  have fired := Desk.abortFired_takeTick waits crossing e
  obtain ⟨n, after⟩ := h.after
  refine ⟨?_, ?_, h.openOnly_after fired.passes⟩
  · rw [after, Desk.fixLengths_auto, fired.pending]
  · rw [after, Desk.fixLengths_ev, fired.abort]

/-- R132, R133: at the tick of a STOP or a REVERSE every pass has closed with that reason, and none opens. -/
theorem closedBy_event (h : s.TicksOn edge k d e) (made : (s.posOut edge).made = some k) {r : CloseReason}
    (event : (s.posOut edge).events = [.stop] ∧ r = .stop ∨ (s.posOut edge).events = [.reverse] ∧ r = .reverse) :
    s.desk.closedBy r (s.posAlone edge).desk := by
  have still : (s.posOut edge).pos.state ≠ .rolling := not_rolling_of_event made (event.imp And.left And.left)
  have closed : s.desk.closedBy r (s.beforeTick edge).desk := by
    rcases event with ⟨event, rfl⟩ | ⟨event, rfl⟩
    · exact beforeTick_of_event event rfl
    · exact beforeTick_of_event event rfl
  have control : ∀ c, d.control c = (s.beforeTick edge).desk.control c := fun c => by
    unfold Desk.control
    rw [h.auto]
  rw [Desk.closedBy_iff_openOnly] at closed ⊢
  have before := closed.of_same (d' := d) (fun c => by rw [control]) (fun c => by rw [control]) h.queue
  exact h.openOnly_after (before.takeTick (by rw [h.pos]; exact still) k)

section
variable (h : s.TicksOn edge k d e) (quiet : (s.posOut edge).events = [] ∨ (s.posOut edge).events = [.roll])
  (pending : s.desk.auto.pendingAbort = false)
include h quiet pending

/-- R134: the out-tick is reached. -/
theorem closedBy_window {i o : Tick} (window : s.desk.auto.window = some (i, o)) (ended : o ≤ k.index) :
    s.desk.closedBy .window (s.posAlone edge).desk := by
  obtain ⟨auto, queue, _⟩ := h.start quiet
  have closed := Desk.closedBy_takeTick_of_window (by rw [auto, pending]) (by rw [auto, window]) ended e
  rw [Desk.closedBy_iff_openOnly, Desk.openRecords_congr auto, queue] at closed
  exact Desk.closedBy_iff_openOnly.mpr (h.openOnly_after closed)

/-- Neither an abort nor the window closes a pass: the tick goes on from the records of the row's start, their moves aged. -/
theorem after_of_open (window : ∀ i o, s.desk.auto.window = some (i, o) → k.index < o) :
    d.takeTick e k = d.ageMoves.tickFrom e k.index ∧ ∀ c, d.ageMoves.control c = (s.desk.control c).aged := by
  obtain ⟨auto, _, _⟩ := h.start quiet
  refine ⟨?_, fun c => ?_⟩
  · rw [Desk.takeTick_eq, Desk.tickClosings_eq_ageMoves (by rw [auto, pending]) (by rw [auto]; exact window)]
  · rw [Desk.control_ageMoves]
    unfold Desk.control
    rw [auto]

/-- R127: the last tick of a glide. -/
theorem glideEnded {c : Fin 176} {g : Glide} {p : OpenPass} (live : s.env.live c = true)
    (window : s.desk.auto.window = none) (gliding : (s.desk.control c).pass = .gliding)
    (glide : (s.desk.control c).glide = some g) (last : g.taken + 1 = g.length)
    (open_c : (s.desk.control c).openPass = some p) : Desk.GlideEnded c k.index p (s.posAlone edge).desk := by
  obtain ⟨tick, aged⟩ := h.after_of_open quiet pending fun i o found => by rw [window] at found; cases found
  have ended := Desk.glideEnded_tickFrom (u := d.ageMoves) (e := e) (c := c) (by rw [h.live, live]) (by rw [aged]; exact gliding)
    (by rw [aged]; exact glide) last (by rw [aged]; exact open_c) k.index
  rw [← tick] at ended
  exact ⟨by rw [h.control_after, ended.openPass], by rw [h.control_after, ended.glide], by rw [h.take_after]; exact ended.record⟩

/-! ## The passes that go on -/

theorem carriedOn {c : Fin 176} {p : OpenPass} (window : ∀ i o, s.desk.auto.window = some (i, o) → k.index < o)
    (live : s.env.live c = true) (open_c : (s.desk.control c).openPass = some p)
    (pass : (s.desk.control c).pass = .writing ∨ (s.desk.control c).pass = .holding) :
    Control.CarriedOn k.index ((s.posOut edge).pos.state = .rolling) p (s.desk.control c)
      ((s.posAlone edge).desk.control c) := by
  obtain ⟨tick, aged⟩ := h.after_of_open quiet pending window
  obtain ⟨x, lost, hx, after⟩ := Desk.control_tickFrom_of_writing (u := d.ageMoves) (e := e) (c := c)
    (by rw [h.live, live]) (by rw [aged]; exact open_c) (by rw [aged]; exact pass) k.index
  rw [← tick, ← h.control_after, h.pos] at after
  rw [aged] at hx
  have value : x.lastMove.map (·.value) = (s.desk.control c).lastMove.map (·.value) := by
    rw [hx]
    simp [Control.aged, Function.comp_def]
  have moved : x.moved = true ↔ (s.desk.control c).lastMove.map (·.value) ≠ some x.applied := by
    rw [← value]
    simp [Control.moved]
  have state : x.pass = (s.desk.control c).pass := by rw [hx]; rfl
  have last : x.lastMove = (s.desk.control c).lastMove.map fun m => { m with current := false } := by rw [hx]; rfl
  generalize (s.posAlone edge).desk.control c = y at after ⊢
  by_cases moves : (s.posOut edge).pos.state = .rolling ∧ x.moved = true
  · rw [if_pos moves] at after
    subst after
    refine ⟨state, ⟨_, rfl⟩, fun _ _ => rfl, ?_⟩
    rintro (stopped | same)
    · exact absurd moves.1 stopped
    · exact absurd same (moved.mp moves.2)
  · rw [if_neg moves] at after
    subst after
    exact ⟨state, ⟨_, rfl⟩, fun rolling changed => absurd ⟨rolling, moved.mpr changed⟩ moves, fun _ => last⟩

/-! ## The passes that open -/

section
variable {P : List (Fin 176)} {c : Fin 176} (inv : s.desk.passInv) (rolling : (s.posOut edge).pos.state = .rolling)
  (window : ∀ i o, s.desk.auto.window = some (i, o) → i ≤ k.index ∧ k.index < o)
  (all : P = (List.finRange 176).filter fun j =>
    s.env.live j && (s.desk.control j).pass == .primed && !(s.desk.control j).safe) (mem : c ∈ P)

include inv rolling window all mem

/-- R123: a control whose recording conditions hold, at the steps of the tick. -/
theorem punching : e.live c = true ∧ (s.desk.control c).openPass = none ∧ e.pos.state = .rolling ∧
    d.ageMoves.auto.windowHolds k.index = true ∧ d.ageMoves.punchesIn c = true ∧
    e.liveControls.filter d.ageMoves.punchesIn = P := by
  obtain ⟨auto, _, _⟩ := h.start quiet
  obtain ⟨_, aged⟩ := h.after_of_open quiet pending fun i o found => (window i o found).2
  have punches : d.ageMoves.punchesIn = fun j => (s.desk.control j).pass == .primed && !(s.desk.control j).safe := by
    funext j
    unfold Desk.punchesIn
    rw [aged]
    rfl
  obtain ⟨⟨live, primed⟩, safe⟩ : (s.env.live c = true ∧ (s.desk.control c).pass = .primed) ∧
      (s.desk.control c).safe = false := by
    rw [all] at mem
    simpa using mem
  obtain ⟨states, _⟩ := inv
  have closed : (s.desk.control c).openPass = none := by
    have state := states c
    rw [primed] at state
    exact Option.not_isSome_iff_eq_none.mp (by rw [state]; exact Bool.false_ne_true)
  refine ⟨by rw [h.live, live], closed, by rw [h.pos, rolling], ?_, by rw [punches]; simp [primed, safe], ?_⟩
  · exact Auto.windowHolds_of fun i o found => window i o (by rw [← auto]; exact found)
  · rw [punches, all]
    unfold Env.liveControls allControls
    rw [List.filter_filter]
    exact List.filter_congr fun j _ => by rw [h.live, Bool.and_comm, Bool.and_assoc]

/-- R124: with room for all of them a pass opens at the tick. -/
theorem opens (room : s.desk.take.queue.length + s.desk.take.reserved + P.length ≤ 32) :
    Desk.OpenedAt c k.index (P.filter (· < c)).length s.desk (s.posAlone edge).desk := by
  obtain ⟨auto, queue, reserved⟩ := h.start quiet
  obtain ⟨tick, aged⟩ := h.after_of_open quiet pending fun i o found => (window i o found).2
  obtain ⟨live, closed, roll, holds, punches, list⟩ := h.punching quiet pending inv rolling window all mem
  have books : d.ageMoves.take = d.take := rfl
  have serial : d.ageMoves.auto.nextSerial = s.desk.auto.nextSerial := by
    change d.auto.nextSerial = _
    rw [auto]
  have opened := Desk.openedAt_tickFrom live (by rw [aged]; exact closed) roll holds
    (by rw [list, books, queue, reserved]; exact room) punches
  rw [← tick, list] at opened
  obtain ⟨pass, lastMove, lost, openPass⟩ := opened
  refine ⟨by rw [h.control_after, pass], by rw [h.control_after, lastMove], lost, ?_⟩
  rw [h.control_after, openPass, serial]
  unfold Desk.openedPass
  rw [aged]
  rfl

/-- R164: with the queue full none opens, and PASS_FULL is raised. -/
theorem full (none_free : s.desk.take.queue.length + s.desk.take.reserved = 32) :
    ((s.posAlone edge).desk.control c).pass = .primed ∧ ((s.posAlone edge).desk.control c).openPass = none ∧
      (s.posAlone edge).flag .passFull = true := by
  obtain ⟨_, queue, reserved⟩ := h.start quiet
  obtain ⟨tick, aged⟩ := h.after_of_open quiet pending fun i o found => (window i o found).2
  obtain ⟨live, closed, roll, holds, punches, _⟩ := h.punching quiet pending inv rolling window all mem
  have no_room : d.ageMoves.take.room = false := by
    have books : d.ageMoves.take = d.take := rfl
    unfold Take.room
    rw [books, queue, reserved, none_free]
    rfl
  obtain ⟨pass, openPass, flag⟩ := Desk.full_tickFrom live (by rw [aged]; exact closed) roll holds no_room punches
  rw [← tick] at pass openPass flag
  obtain ⟨n, after⟩ := h.after
  refine ⟨by rw [h.control_after, pass], by rw [h.control_after, openPass], ?_⟩
  unfold State.flag
  rw [after, Desk.flag_fixLengths, flag]

end

end

end TicksOn

end State

end Sys2Proof.Machine

open Sys2Proof Sys2Proof.Machine

/-- Settles O56: the desk at which AUTO takes the tick, and what its steps make of the passes. -/
theorem tickEndsPasses : Obligations.TickEndsPasses := by
  refine ⟨fun s edge k clocked pending made crossing => ?_,
    fun s edge k c g p clocked live made quiet pending window gliding glide last open_c => ?_,
    fun s edge k r clocked made event => ?_, fun s edge k clocked made quiet pending => ?_⟩
  all_goals
    obtain ⟨d, e, ticks⟩ := State.exists_ticksOn made
    obtain ⟨pos, ring⟩ := State.pos_ring_posAlone edge s
    have outside := State.outside_posAlone edge s
  · obtain ⟨fired, record, passes⟩ := ticks.abortFired pending crossing
    refine ⟨_, d.auto.openCount, State.exec_abortFired clocked pending made crossing, fired, record, fun quiet => ?_,
      fun c p open_c => (passes.pass c p open_c).1, pos, ring, outside⟩
    obtain ⟨auto, queue, _⟩ := ticks.start quiet
    exact ⟨by rw [auto], by rw [passes.queue, queue, Desk.openRecords_congr auto]⟩
  · obtain ⟨closed, ended, q, filed⟩ := ticks.glideEnded quiet pending live window gliding glide last open_c
    exact ⟨_, State.exec_glideEnd clocked live made gliding glide last, closed, ended,
      ⟨_, filed, rfl, rfl, rfl, rfl, rfl, rfl⟩, pos, ring, outside⟩
  · exact ⟨_, State.tick_of_made clocked made, ticks.closedBy_event made event, ring, outside⟩
  · refine ⟨_, State.tick_of_made clocked made, fun i o => ticks.closedBy_window quiet pending,
      fun inv rolling window P c all mem => ⟨fun room => ?_, ticks.full quiet pending inv rolling window all mem⟩,
      fun window c p live open_c pass => ?_, ring, outside⟩
    · obtain ⟨writing, move, lost, opened⟩ := ticks.opens quiet pending inv rolling window all mem room
      exact ⟨writing, move, _, opened, rfl, rfl, rfl, rfl, rfl, rfl⟩
    · obtain ⟨state, goes, moved, still⟩ := ticks.carriedOn quiet pending window live open_c pass
      exact ⟨state, goes, moved, still⟩
end

section
/-!
PLAY's slots: what each operation of chapter 8 makes of a slot, what a re-evaluation decides (R144, R145), and that it leaves
the slots consistent with the wanted record (R140).
-/

set_option Elab.async false

namespace Sys2Proof.Machine

/-! ## One slot (R140) -/

/-- A slot that holds a page is WANTED for it, or holds it as READY or MISSING. -/
theorem PlaySlot.page?_eq_some {x : PlaySlot} {n : Page} : x.page? = some n ↔ x = .wanted n ∨ x.settles n = true := by
  cases x <;> simp [PlaySlot.page?, PlaySlot.settles]

theorem PlaySlot.isWanted_of_settles {x : PlaySlot} {n : Page} (h : x.settles n = true) : x.isWanted = false := by
  cases x
  case wanted => cases h
  all_goals rfl

theorem length_playWindow (p : Pos) : (playWindow p).length = 4 := by
  unfold playWindow
  dsimp only
  split <;> rfl

namespace Play

variable {y z : Play} {W : List Page} {i : Fin 4} {n : Page}

theorem settled_iff : y.settled n = true ↔ ∃ i : Fin 4, y.slots[i].settles n = true := by
  unfold Play.settled
  rw [List.any_eq_true]
  constructor
  · rintro ⟨x, mem, holds⟩
    obtain ⟨k, hk, rfl⟩ := List.getElem_of_mem mem
    exact ⟨⟨k, by simpa using hk⟩, by simpa using holds⟩
  · rintro ⟨i, holds⟩
    exact ⟨y.slots[i], by simp, holds⟩

/-! ## What each operation makes of a slot -/

/-- R144 step 2: a slot whose page lies in the window and in the span stays. -/
theorem slot_retire_of_inside (held : y.slots[i].page? = some n) (mem : n ∈ W) (inside : y.inSpan n = true) :
    (y.retire W).slots[i] = y.slots[i] := by
  simp only [Play.retire, Fin.getElem_fin, Vector.getElem_map] at held ⊢
  simp [held, mem, inside]

/-- R144 step 2: a slot that holds a page afterwards stayed, and its page lies in the window and in the span. -/
theorem slot_retire_of_held (held : (y.retire W).slots[i].page? = some n) :
    (y.retire W).slots[i] = y.slots[i] ∧ n ∈ W ∧ y.inSpan n = true := by
  simp only [Play.retire, Fin.getElem_fin, Vector.getElem_map] at held ⊢
  split at held
  · next m page =>
    split at held
    · next test =>
      rw [page] at held
      cases held
      simp only [Bool.and_eq_true, List.contains_iff_mem] at test
      exact ⟨if_pos (by simpa using test), test⟩
    · cases held
  · next none => rw [none] at held; cases held

/-- R145: the WANTED slot is retired, and every other slot stays. -/
theorem slot_dropWantedSlot (y : Play) (i : Fin 4) :
    y.dropWantedSlot.slots[i] = if y.slots[i].isWanted then .free else y.slots[i] := by
  simp [Play.dropWantedSlot]

theorem slot_dropWantedSlot_of_held (held : y.dropWantedSlot.slots[i].page? = some n) :
    y.dropWantedSlot.slots[i] = y.slots[i] ∧ y.slots[i].settles n = true := by
  rw [slot_dropWantedSlot] at held ⊢
  split at held
  · cases held
  · next other =>
    refine ⟨if_neg other, (PlaySlot.page?_eq_some.mp held).resolve_left fun wanted => other ?_⟩
    rw [wanted]
    rfl

/-- R145: without the WANTED slot no slot is WANTED. -/
theorem slot_dropWantedSlot_ne_wanted (y : Play) (i : Fin 4) (n : Page) : y.dropWantedSlot.slots[i] ≠ .wanted n := by
  rw [slot_dropWantedSlot]
  split
  · exact nofun
  · next other => exact fun e => other (by rw [e]; rfl)

/-- R145: without the WANTED slot no slot holds a page that is neither READY nor MISSING. -/
theorem page?_dropWantedSlot_ne (unsettled : y.settled n = false) (i : Fin 4) :
    y.dropWantedSlot.slots[i].page? ≠ some n := by
  intro held
  rw [settled_iff.mpr ⟨i, (slot_dropWantedSlot_of_held held).2⟩] at unsettled
  cases unsettled

theorem slot_dropWantedSlot_of_settles (h : y.slots[i].settles n = true) : y.dropWantedSlot.slots[i] = y.slots[i] := by
  rw [slot_dropWantedSlot, PlaySlot.isWanted_of_settles h]
  rfl

theorem free?_eq_some (h : y.free? = some i) : y.slots[i] = .free := by
  simpa using List.find?_some h

theorem free?_eq_none (h : y.free? = none) (i : Fin 4) : y.slots[i] ≠ .free := by
  simpa using List.find?_eq_none.mp h i (List.mem_finRange i)

/-- R145: the WANTED slot is retired, and the lowest FREE slot, if there is one, is WANTED for the new page. -/
theorem want_cases (n : Page) (y : Play) :
    (∀ j : Fin 4, y.dropWantedSlot.slots[j] ≠ .free) ∧
        y.want n = { y.dropWantedSlot with wanted := some { page := n, strays := 0 } } ∨
      ∃ i : Fin 4, y.dropWantedSlot.slots[i] = .free ∧
        y.want n = { y.dropWantedSlot with slots := y.dropWantedSlot.slots.set i (.wanted n),
                                           wanted := some { page := n, strays := 0 } } := by
  unfold Play.want
  dsimp only
  split
  · next i found => exact .inr ⟨i, free?_eq_some found, rfl⟩
  · next full => exact .inl ⟨free?_eq_none full, rfl⟩

theorem slot_set (v : Vector PlaySlot 4) (i j : Fin 4) (x : PlaySlot) : (v.set i x)[j] = if j = i then x else v[j] := by
  simp [Vector.getElem_set, Fin.ext_iff, eq_comm]

/-- R145: a slot is as it was without the WANTED slot, or was FREE and is now WANTED for the new page. -/
theorem slot_want (n : Page) (y : Play) (j : Fin 4) :
    (y.want n).slots[j] = y.dropWantedSlot.slots[j] ∨
      y.dropWantedSlot.slots[j] = .free ∧ (y.want n).slots[j] = .wanted n := by
  obtain ⟨_, e⟩ | ⟨i, free, e⟩ := want_cases n y
  · exact .inl (by rw [e])
  · rw [e]
    dsimp only
    rw [slot_set]
    split
    · next here => exact .inr ⟨here ▸ free, rfl⟩
    · exact .inl rfl

theorem want_record (n : Page) (y : Play) :
    (y.want n).wanted = some { page := n, strays := 0 } ∧ (y.want n).span = y.span ∧ (y.want n).entered = y.entered := by
  obtain ⟨_, e⟩ | ⟨i, _, e⟩ := want_cases n y
  all_goals rw [e]; exact ⟨rfl, rfl, rfl⟩

/-! ## Re-evaluation (R144, R145) -/

/-- R145: the page is needed: in the window and in the span, and held neither READY nor MISSING. -/
def needs (W : List Page) (y : Play) (n : Page) : Prop := n ∈ W ∧ y.inSpan n = true ∧ y.settled n = false

/-- R145: what a re-evaluation decides once the slots outside the window and the span are retired. -/
inductive Decided (W : List Page) (y : Play) : Play → Prop
  /-- No page is needed: the wanted record becomes absent. -/
  | absent : Decided W y { y.dropWantedSlot with wanted := none }
  /-- The wanted record, if there is one, is for the needed page: it stays. -/
  | stays (n : Page) (needed : y.needs W n) (record : ∀ w, y.wanted = some w → w.page = n) : Decided W y y
  /-- The wanted record is set to, or moves to, a needed page. -/
  | moves (n : Page) (needed : y.needs W n) : Decided W y (y.want n)

theorem needs_of_head? (h : (y.needed W).head? = some n) : y.needs W n := by
  have mem := List.mem_of_head? h
  simp only [Play.needed, List.mem_filter, Bool.and_eq_true, Bool.not_eq_true'] at mem
  exact mem

theorem reevaluate_decided (p : Pos) (y : Play) :
    Decided (playWindow p) (y.retire (playWindow p)) (y.reevaluate p) := by
  unfold Play.reevaluate
  dsimp only
  split
  · exact .absent
  · next n w head record =>
    have needed := needs_of_head? head
    split
    · next same => exact .stays n needed fun v hv => by rw [record] at hv; cases hv; exact same
    · exact .moves n needed
  · next n head record =>
    have needed := needs_of_head? head
    split
    · exact .moves n needed
    · exact .stays n needed fun v hv => by rw [record] at hv; cases hv

/-- R145: a slot is as it was, or is retired as the WANTED slot, or is WANTED for a needed page. -/
theorem Decided.slot (h : Decided W y z) (i : Fin 4) :
    z.slots[i] = y.slots[i] ∨ z.slots[i] = .free ∨ ∃ n, y.needs W n ∧ z.slots[i] = .wanted n := by
  have drop : y.dropWantedSlot.slots[i] = y.slots[i] ∨ y.dropWantedSlot.slots[i] = .free := by
    rw [slot_dropWantedSlot]
    split
    · exact .inr rfl
    · exact .inl rfl
  cases h with
  | absent => exact drop.imp_right .inl
  | stays => exact .inl rfl
  | moves n needed =>
    obtain e | ⟨_, e⟩ := slot_want n y i
    · rw [e]
      exact drop.imp_right .inl
    · exact .inr (.inr ⟨n, needed, e⟩)

/-- R145: a slot READY or MISSING stays. -/
theorem Decided.slot_of_settles (h : Decided W y z) (settles : y.slots[i].settles n = true) :
    z.slots[i] = y.slots[i] := by
  have drop := slot_dropWantedSlot_of_settles settles
  cases h with
  | absent => exact drop
  | stays => rfl
  | moves m =>
    obtain e | ⟨free, _⟩ := slot_want m y i
    · exact e.trans drop
    · rw [← drop, free] at settles
      cases settles

/-- R145: the wanted page is a needed one, with the stray count it had or with 0. -/
theorem Decided.record (h : Decided W y z) {v : Wanted} (hv : z.wanted = some v) :
    y.needs W v.page ∧ (y.wanted = some v ∨ v.strays = 0) := by
  cases h with
  | absent => cases hv
  | stays n needed record => exact ⟨record v hv ▸ needed, .inl hv⟩
  | moves n needed =>
    obtain ⟨e, _⟩ := want_record n y
    rw [e] at hv
    cases hv
    exact ⟨needed, .inr rfl⟩

theorem Decided.rest (h : Decided W y z) : z.span = y.span ∧ z.entered = y.entered := by
  cases h with
  | absent => exact ⟨rfl, rfl⟩
  | stays => exact ⟨rfl, rfl⟩
  | moves n =>
    obtain ⟨_, rest⟩ := want_record n y
    exact rest

theorem rest_reevaluate (p : Pos) (y : Play) :
    (y.reevaluate p).span = y.span ∧ (y.reevaluate p).entered = y.entered := (reevaluate_decided p y).rest

/-- R144: after a re-evaluation every page held lies in the window and in the span. -/
theorem inside_of_reevaluate {p : Pos} (held : (y.reevaluate p).slots[i].page? = some n) :
    n ∈ playWindow p ∧ y.inSpan n = true := by
  obtain e | e | ⟨m, needed, e⟩ := (reevaluate_decided p y).slot i
  · rw [e] at held
    exact (slot_retire_of_held held).2
  · rw [e] at held
    cases held
  · rw [e] at held
    cases held
    exact ⟨needed.1, needed.2.1⟩

/-- R144, R145: a re-evaluation makes no slot MISSING. -/
theorem missing_of_reevaluate {p : Pos} (h : (y.reevaluate p).slots[i] = .missing n) : y.slots[i] = .missing n := by
  obtain e | e | ⟨m, _, e⟩ := (reevaluate_decided p y).slot i
  · rw [h] at e
    rw [← (slot_retire_of_held (W := playWindow p) (n := n) (by rw [← e]; rfl)).1, ← e]
  · rw [h] at e
    cases e
  · rw [h] at e
    cases e

/-- R144, R145: a page READY or MISSING stays as long as it lies in the window and in the span. -/
theorem slot_reevaluate_of_settles {p : Pos} (settles : y.slots[i].settles n = true) (mem : n ∈ playWindow p)
    (inside : y.inSpan n = true) : (y.reevaluate p).slots[i] = y.slots[i] := by
  have kept := slot_retire_of_inside (PlaySlot.page?_eq_some.mpr (.inr settles)) mem inside
  rw [(reevaluate_decided p y).slot_of_settles (by rw [kept]; exact settles), kept]

/-- R145: a page held READY or MISSING is not wanted. -/
theorem record_reevaluate {p : Pos} {v : Wanted} (hv : (y.reevaluate p).wanted = some v) :
    y.inSpan v.page = true ∧ (∀ i : Fin 4, y.slots[i].settles v.page = false) ∧ (y.wanted = some v ∨ v.strays = 0) := by
  obtain ⟨⟨mem, inside, open_⟩, count⟩ := (reevaluate_decided p y).record hv
  refine ⟨inside, fun i => Bool.eq_false_iff.mpr fun settles => ?_, count⟩
  have kept := slot_retire_of_inside (PlaySlot.page?_eq_some.mpr (.inr settles)) mem inside
  rw [settled_iff.mpr ⟨i, by rw [kept]; exact settles⟩] at open_
  cases open_

/-! ## The slots and the wanted record agree (R140, R145) -/

/-- R140: no two slots hold one page. -/
def heldOnce (y : Play) : Prop :=
  ∀ (i j : Fin 4) (n : Page), y.slots[i].page? = some n → y.slots[j].page? = some n → i = j

/-- Slots that are retired leave the pages of the others alone. -/
theorem heldOnce.of_retired (h : y.heldOnce)
    (stays : ∀ (i : Fin 4) (n : Page), z.slots[i].page? = some n → z.slots[i] = y.slots[i]) : z.heldOnce :=
  fun i j n hi hj => h i j n (stays i n hi ▸ hi) (stays j n hj ▸ hj)

theorem heldOnce_retire (h : y.heldOnce) (W : List Page) : (y.retire W).heldOnce :=
  h.of_retired fun _ _ held => (slot_retire_of_held held).1

theorem heldOnce_dropWantedSlot (h : y.heldOnce) : y.dropWantedSlot.heldOnce :=
  h.of_retired fun _ _ held => (slot_dropWantedSlot_of_held held).1

/-- What a re-evaluation starts from: no two slots hold one page, a WANTED slot is for the page of the wanted record, and
some slot holds that page, which may just have become READY or MISSING. -/
structure Tracked (y : Play) : Prop where
  once   : y.heldOnce
  slot   : ∀ (i : Fin 4) (n : Page), y.slots[i] = .wanted n → y.wanted.map (·.page) = some n
  record : ∀ w, y.wanted = some w → w.strays ≤ 3 ∧ ∃ i : Fin 4, y.slots[i].page? = some w.page

/-- What SPAN and DELIVER make of a slot before PLAY re-evaluates: it stays, its wanted page is settled, or a slot that is not
WANTED is retired. -/
inductive SlotStep : PlaySlot → PlaySlot → Prop
  | stays (x : PlaySlot) : SlotStep x x
  | settled {n : Page} {x : PlaySlot} (h : x.settles n = true) : SlotStep (.wanted n) x
  | retired {x : PlaySlot} (h : x.isWanted = false) : SlotStep x .free

theorem SlotStep.page? {a b : PlaySlot} (h : SlotStep a b) (held : b.page? = some n) : a.page? = some n := by
  cases h with
  | stays => exact held
  | settled settles =>
    have page := PlaySlot.page?_eq_some.mpr (.inr settles)
    rw [page] at held
    exact held
  | retired => cases held

theorem SlotStep.wanted {a b : PlaySlot} (h : SlotStep a b) (wanted : b = .wanted n) : a = .wanted n := by
  cases h with
  | stays => exact wanted
  | settled settles => rw [wanted] at settles; cases settles
  | retired => cases wanted

theorem SlotStep.keeps {b : PlaySlot} (h : SlotStep (.wanted n) b) : b.page? = some n := by
  cases h with
  | stays => rfl
  | settled settles => exact PlaySlot.page?_eq_some.mpr (.inr settles)
  | retired other => cases other

/-- R140, R145: such a step of every slot, with the wanted record as it was but for its stray count. -/
theorem Tracked.of_wf (wf : y.wf) (slots : ∀ i : Fin 4, SlotStep y.slots[i] z.slots[i])
    (record : z.wanted.map (·.page) = y.wanted.map (·.page)) (few : ∀ w, z.wanted = some w → w.strays ≤ 3) :
    z.Tracked := by
  obtain ⟨once, iff, _⟩ := wf
  refine ⟨fun i j n hi hj => once i j n ((slots i).page? hi) ((slots j).page? hj),
    fun i n h => record.trans ((iff n).mp ⟨i, (slots i).wanted h⟩), fun w hw => ⟨few w hw, ?_⟩⟩
  obtain ⟨i, hi⟩ := (iff w.page).mpr (by rw [← record, hw]; rfl)
  exact ⟨i, (hi ▸ slots i).keeps⟩

theorem Tracked.same (wf : y.wf) : y.Tracked := .of_wf wf (fun _ => .stays _) rfl wf.2.2

/-- R145: of four slots that hold different pages of the window, none of them a needed one, at least one is FREE. -/
theorem exists_free (window : W.length ≤ 4) (once : y.heldOnce)
    (inside : ∀ (i : Fin 4) (m : Page), y.slots[i].page? = some m → m ∈ W) (mem : n ∈ W)
    (other : ∀ i : Fin 4, y.slots[i].page? ≠ some n) : ∃ i : Fin 4, y.slots[i] = .free := by
  by_contra none_free
  have holds : ∀ i : Fin 4, ∃ m, y.slots[i].page? = some m := by
    intro i
    rcases e : y.slots[i] with _ | m | m | m
    · exact absurd ⟨i, e⟩ none_free
    all_goals exact ⟨_, rfl⟩
  choose page hpage using holds
  have injective : Function.Injective page := fun i j e => once i j _ (hpage i) (e ▸ hpage j)
  have range : ∀ i ∈ Finset.univ, page i ∈ W.toFinset.erase n := by
    intro i _
    refine Finset.mem_erase.mpr ⟨fun e => other i (e ▸ hpage i), List.mem_toFinset.mpr (inside i _ (hpage i))⟩
  have four := Finset.card_le_card_of_injOn page range injective.injOn
  have fewer := Finset.card_erase_of_mem (List.mem_toFinset.mpr mem)
  have window := (List.toFinset_card_le W).trans window
  rw [Finset.card_univ, Fintype.card_fin] at four
  omega

/-- R145: where no page is wanted and the WANTED slot is retired. -/
theorem wf_absent (once : y.heldOnce) : wf { y.dropWantedSlot with wanted := none } :=
  ⟨heldOnce_dropWantedSlot once, fun n => ⟨fun ⟨i, e⟩ => absurd e (slot_dropWantedSlot_ne_wanted y i n), nofun⟩, nofun⟩

/-- R145: the move to a page that is neither READY nor MISSING, where a slot is FREE without the WANTED one. -/
theorem wf_want (once : y.heldOnce) (unsettled : y.settled n = false)
    (free : ∃ i : Fin 4, y.dropWantedSlot.slots[i] = .free) : (y.want n).wf := by
  have other := page?_dropWantedSlot_ne unsettled
  obtain ⟨i, e⟩ : ∃ i : Fin 4, y.want n = { y.dropWantedSlot with
      slots := y.dropWantedSlot.slots.set i (.wanted n), wanted := some { page := n, strays := 0 } } := by
    obtain ⟨full, _⟩ | ⟨i, _, e⟩ := want_cases n y
    · obtain ⟨i, hi⟩ := free
      exact absurd hi (full i)
    · exact ⟨i, e⟩
  have slot : ∀ j : Fin 4, (y.want n).slots[j] = if j = i then .wanted n else y.dropWantedSlot.slots[j] := fun j => by
    rw [e]
    exact slot_set _ i j _
  obtain ⟨record, _⟩ := want_record n y
  refine ⟨fun j k m hj hk => ?_, fun m => ⟨fun ⟨j, hj⟩ => ?_, fun hm => ⟨i, ?_⟩⟩, fun w hw => ?_⟩
  · rw [slot] at hj hk
    split at hj <;> split at hk
    · next ej ek => exact ej.trans ek.symm
    · cases hj
      exact absurd hk (other k)
    · cases hk
      exact absurd hj (other j)
    · exact heldOnce_dropWantedSlot once j k m hj hk
  · rw [slot] at hj
    split at hj
    · cases hj
      rw [record]
      rfl
    · exact absurd hj (slot_dropWantedSlot_ne_wanted y j m)
  · rw [record] at hm
    cases hm
    rw [slot, if_pos rfl]
  · rw [record] at hw
    cases hw
    exact Nat.zero_le 3

/-- R144, R145: where the wanted record stays, the slot WANTED for its page has not been retired. -/
theorem Tracked.wf_retire (h : y.Tracked) (needed : (y.retire W).needs W n) (same : ∀ w, y.wanted = some w → w.page = n) :
    (y.retire W).wf := by
  obtain ⟨mem, inside, unsettled⟩ := needed
  refine ⟨heldOnce_retire h.once W, fun m => ⟨fun ⟨i, e⟩ => ?_, fun e => ?_⟩, fun w hw => (h.record w hw).1⟩
  · have stayed := (slot_retire_of_held (W := W) (i := i) (n := m) (by rw [e]; rfl)).1
    exact h.slot i m (stayed ▸ e)
  · obtain ⟨w, hw, rfl⟩ := Option.map_eq_some_iff.mp e
    obtain ⟨i, held⟩ := (h.record w hw).2
    rw [← same w hw] at mem inside unsettled
    have stayed := slot_retire_of_inside held mem inside
    refine ⟨i, (PlaySlot.page?_eq_some.mp (stayed ▸ held)).resolve_right fun settles => ?_⟩
    rw [settled_iff.mpr ⟨i, settles⟩] at unsettled
    cases unsettled

/-- R140, R145: a re-evaluation leaves slots and wanted record in agreement. -/
theorem wf_reevaluate (h : y.Tracked) (p : Pos) : (y.reevaluate p).wf := by
  have once := heldOnce_retire h.once (playWindow p)
  have decided := reevaluate_decided p y
  generalize y.reevaluate p = z at decided
  cases decided with
  | absent => exact wf_absent once
  | stays n needed same => exact h.wf_retire needed same
  | moves n needed =>
    obtain ⟨mem, _, unsettled⟩ := needed
    refine wf_want once unsettled (exists_free (length_playWindow p).le (heldOnce_dropWantedSlot once)
      (fun i m held => ?_) mem (page?_dropWantedSlot_ne unsettled))
    obtain ⟨same, _⟩ := slot_dropWantedSlot_of_held held
    exact (slot_retire_of_held (same ▸ held)).2.1

end Play

end Sys2Proof.Machine
end

section
/-!
SPAN and DELIVER at PLAY: the slots they retire, fill and give up (R143, R150, R151), and that every row keeps the slots and
the wanted record in agreement (R140, R145).
-/

set_option Elab.async false

namespace Sys2Proof.Machine

namespace Play

variable {y z : Play} {i : Fin 4} {n : Page}

/-! ## The slots that SPAN and DELIVER change (R143, R150, R151) -/

/-- R143 step 2. -/
theorem slot_retireMissing (y : Play) (i : Fin 4) :
    y.retireMissing.slots[i] = y.slots[i] ∧ (∀ n, y.slots[i] ≠ .missing n) ∨
      y.retireMissing.slots[i] = .free ∧ ∃ n, y.slots[i] = .missing n := by
  simp only [Play.retireMissing, Fin.getElem_fin, Vector.getElem_map]
  split
  · next n slot => exact .inr ⟨rfl, n, slot⟩
  · next other => exact .inl ⟨rfl, other⟩

/-- R150: the WANTED slot becomes MISSING. -/
theorem slot_giveUp (y : Play) (i : Fin 4) :
    y.giveUp.slots[i] = y.slots[i] ∧ (∀ n, y.slots[i] ≠ .wanted n) ∨
      ∃ n, y.slots[i] = .wanted n ∧ y.giveUp.slots[i] = .missing n := by
  simp only [Play.giveUp, Fin.getElem_fin, Vector.getElem_map]
  split
  · next n slot => exact .inr ⟨n, slot, rfl⟩
  · next other => exact .inl ⟨rfl, other⟩

/-- R151: the slot WANTED for the page becomes READY. -/
theorem slot_fill (p : PlayPage) (y : Play) (i : Fin 4) :
    (y.fill p).slots[i] = if y.slots[i] = .wanted p.number then .ready p else y.slots[i] := by
  simp [Play.fill]

theorem tracked_retireMissing (wf : y.wf) : y.retireMissing.Tracked := by
  refine .of_wf wf (fun i => ?_) rfl wf.2.2
  obtain ⟨e, _⟩ | ⟨e, n, slot⟩ := slot_retireMissing y i
  · rw [e]
    exact .stays _
  · rw [e, slot]
    exact .retired rfl

/-- R150, R151: the stray count starts again. -/
def recount (y : Play) : Play := { y with wanted := y.wanted.map fun w => ({ w with strays := 0 } : Wanted) }

theorem page_recount (y : Play) : y.recount.wanted.map (·.page) = y.wanted.map (·.page) := by
  unfold recount
  rw [Option.map_map]
  rfl

theorem strays_recount {w : Wanted} (h : y.recount.wanted = some w) : w.strays = 0 := by
  obtain ⟨_, _, rfl⟩ := Option.map_eq_some_iff.mp h
  rfl

theorem tracked_giveUp (wf : y.wf) : y.giveUp.recount.Tracked := by
  refine .of_wf wf (fun i => ?_) (page_recount y.giveUp) fun w hw => (strays_recount hw).trans_le (Nat.zero_le 3)
  change SlotStep y.slots[i] y.giveUp.slots[i]
  obtain ⟨e, _⟩ | ⟨n, wanted, e⟩ := slot_giveUp y i
  · rw [e]
    exact .stays _
  · rw [e, wanted]
    exact .settled (beq_self_eq_true n)

theorem tracked_fill (p : PlayPage) (wf : y.wf) : (y.fill p).recount.Tracked := by
  refine .of_wf wf (fun i => ?_) (page_recount (y.fill p)) fun w hw => (strays_recount hw).trans_le (Nat.zero_le 3)
  change SlotStep y.slots[i] (y.fill p).slots[i]
  rw [slot_fill]
  split
  · next wanted =>
    rw [wanted]
    exact .settled (beq_self_eq_true p.number)
  · exact .stays _

/-! ## A page that has just been settled (R150, R151) -/

/-- R145, R150, R151: once a slot holds a page READY or MISSING the wanted record has moved away from it, and the count that
has started again stays at 0. -/
theorem record_of_settled {p : Pos} (settles : y.slots[i].settles n = true) {v : Wanted}
    (hv : (y.recount.reevaluate p).wanted = some v) : v.page ≠ n ∧ v.strays = 0 := by
  obtain ⟨_, unsettled, count⟩ := record_reevaluate hv
  refine ⟨fun e => ?_, count.elim strays_recount id⟩
  have held : y.slots[i].settles v.page = false := unsettled i
  rw [e, settles] at held
  cases held

end Play

/-! ## Every row keeps the agreement -/

/-- R140, R145: slots and wanted record agree in the later state where they do in the earlier one. -/
def State.PagesKept (s t : State) : Prop := s.play.wf → t.play.wf

namespace State

namespace PagesKept

/-- PLAY is as it was. -/
theorem still {s t : State} (play : t.play = s.play := by rfl) : PagesKept s t := fun wf => play ▸ wf

theorem andThen {a b c : State} (h : PagesKept a b) (k : PagesKept b c) : PagesKept a c := fun wf => k (h wf)

/-- R156. -/
theorem fresh {s t : State} (play : t.play = Play.reset := by rfl) : PagesKept s t := fun _ => play ▸ Play.wf_reset

/-- R144: PLAY re-evaluates, and notes the page entered. -/
theorem reevaluate {s t : State} {p : Pos} {n : Option Page} (play : t.play = { s.play.reevaluate p with entered := n }) :
    PagesKept s t := fun wf => by
  rw [play]
  exact Play.wf_reevaluate (.same wf) p

end PagesKept

open PagesKept (still fresh andThen)

/-! ### Sample events -/

theorem pagesKept_takePosEvent (v : PosEvent) (s : State) : s.PagesKept (s.takePosEvent v) := by
  by_cases h : v = .jump
  · subst h
    have jump : (s.takePosEvent .jump).play = { s.play.reevaluate s.pos with entered := none } := by
      unfold State.takePosEvent Play.jump
      simp
    exact .reevaluate jump
  · exact still (play_takePosEvent h s)

theorem pagesKept_posPhase (edge : Option FrameNo) (s : State) : s.PagesKept (s.posPhase edge) := by
  have events : ∀ (l : List PosEvent) (u : State), u.PagesKept (l.foldl (fun u v => u.takePosEvent v) u) := by
    intro l
    induction l with
    | nil => exact fun _ => still
    | cons v l ih => exact fun u => andThen (pagesKept_takePosEvent v u) (ih _)
  have events : s.PagesKept ((s.posOut edge).events.foldl (fun (u : State) v => u.takePosEvent v)
      { s with pos := (s.posOut edge).pos }) := andThen (b := { s with pos := (s.posOut edge).pos }) still (events _ _)
  rcases hm : (s.posOut edge).made with _ | k
  · rw [posPhase_of_no_tick hm]
    exact events
  · rw [posPhase_of_tick hm]
    obtain ⟨d, tick, _⟩ := takeTick_eq k ((s.posOut edge).events.foldl (fun (u : State) v => u.takePosEvent v)
      { s with pos := (s.posOut edge).pos })
    rw [tick]
    exact andThen events (.reevaluate rfl)

/-- Only POS's phase of a sample event reaches PLAY. -/
theorem pagesKept_sampled (p : Period) (s : State) : s.PagesKept (s.sampled p) := by
  unfold State.sampled
  split
  · obtain ⟨u, before, behind, _⟩ := sample_around_pos Desk.reached_queueGrows p s
    exact andThen (still before.step.play) (andThen (pagesKept_posPhase _ u) (still behind.step.play))
  · exact still

theorem pagesKept_part {comes : Bool} {act : State → State} {s : State} (h : s.PagesKept (act s)) :
    s.PagesKept (s.part comes act) := by
  unfold State.part
  split
  · exact h
  · exact still

theorem pagesKept_ringAlone (b : Bool) (rx : Option WireFrame) (s : State) : s.PagesKept (s.ringAlone b rx) :=
  still (ringAlone_frame b rx s).2.1

theorem pagesKept_expireFlight (x : Slot) (s : State) : s.PagesKept (s.advanceInstant.expireFlight x) := by
  obtain ⟨d, e, _⟩ := expireFlight_eq x s.advanceInstant
  rw [e]
  exact still

/-! ### LINK -/

theorem pagesKept_transfer (n : Nat) (s : State) : s.PagesKept (s.transfer n) := by
  unfold State.transfer
  split <;> exact still

theorem pagesKept_emptyTransfer (n : Nat) (s : State) : s.PagesKept (s.emptyTransfer n) := by
  unfold State.emptyTransfer
  split
  · exact still
  · exact pagesKept_transfer n s

theorem pagesKept_formReply (s : State) : s.PagesKept s.formReply := by
  unfold State.formReply
  split
  · exact still
  · split <;> exact still

theorem pagesKept_overrun (n : Nat) (s : State) : s.PagesKept (s.overrun n) := andThen still (pagesKept_transfer n _)

/-- R170, R171, R180: a transfer that carries a message does what its command does, or leaves PLAY alone. -/
theorem pagesKept_message {n : Nat} {body : State → Answered} {s : State} (h : s.PagesKept (body s).state) :
    s.PagesKept (s.message n body) := by
  unfold State.message
  split
  · exact still
  · split
    · exact h
    · exact pagesKept_overrun n s

theorem pagesKept_command {n tail : Nat} {body : State → Answered} {s : State} (h : s.PagesKept (body s).state) :
    s.PagesKept (s.command n tail body) := pagesKept_message h

theorem pagesKept_configured {k : Byte} {body : Conf → State → Answered} {s : State}
    (h : ∀ c, s.PagesKept (body c s).state) : s.PagesKept (s.configured k body).state := by
  unfold State.configured
  split
  · exact h _
  · exact still

theorem pagesKept_reject (ldi : List Bool) (s : State) : s.PagesKept (s.reject ldi) := by
  unfold State.reject
  split
  · exact still
  · split
    · exact pagesKept_message still
    · exact still

theorem pagesKept_discard (ldi : List Bool) (s : State) : s.PagesKept (s.discard ldi) := by
  unfold State.discard
  split
  · exact still
  · split
    · exact pagesKept_overrun _ s
    · exact still

/-! ### SPAN and DELIVER -/

/-- R143: MISSING slots are retired, and PLAY re-evaluates. -/
theorem pagesKept_setSpan (form : Byte) (first last : BitVec 24) (s : State) :
    s.PagesKept (s.setSpan form first last).state := by
  unfold State.setSpan
  split
  · next w _ => exact fun wf => Play.wf_reevaluate (Play.tracked_retireMissing (y := { s.play with span := w }) wf) s.pos
  · exact still

/-- R150: the fourth stray. -/
theorem countStray_of_fourth {s : State} {w : Wanted} (h : s.play.wanted = some w) (few : 3 ≤ w.strays) :
    s.countStray =
      State.raise .pageMissing { s with play := (s.play.giveUp.recount.reevaluate s.pos) } := by
  have recounted : s.play.giveUp.recount = { s.play.giveUp with wanted := some { w with strays := 0 } } := by
    unfold Play.recount
    have record : s.play.giveUp.wanted = some w := h
    rw [record]
    rfl
  unfold State.countStray
  rw [h, recounted]
  exact if_pos (Nat.succ_le_succ few)

/-- R149: an earlier stray counts, and that is all. -/
theorem countStray_of_few {s : State} {w : Wanted} (h : s.play.wanted = some w) (few : w.strays < 3) :
    s.countStray = { s with play := { s.play with wanted := some { w with strays := w.strays + 1 } } } := by
  unfold State.countStray
  rw [h]
  exact if_neg (by omega)

/-- R149: without a wanted page there is nothing to count against. -/
theorem countStray_of_absent {s : State} (h : s.play.wanted = none) : s.countStray = s := by
  unfold State.countStray
  rw [h]

theorem pagesKept_countStray (s : State) : s.PagesKept s.countStray := by
  rintro ⟨once, iff, few⟩
  rcases h : s.play.wanted with _ | w
  · rw [countStray_of_absent h]
    exact ⟨once, iff, few⟩
  · by_cases early : w.strays < 3
    · rw [countStray_of_few h early]
      refine ⟨once, fun n => (iff n).trans (by rw [h]; rfl), fun v hv => ?_⟩
      cases hv
      exact early
    · rw [countStray_of_fourth h (Nat.le_of_not_lt early)]
      exact Play.wf_reevaluate (Play.tracked_giveUp ⟨once, iff, few⟩) s.pos

/-- R151: PLAY once the page is put into the WANTED slot. -/
theorem play_takePage (p : PlayPage) (s : State) : (s.takePage p).play = (s.play.fill p).recount.reevaluate s.pos := by
  unfold State.takePage
  dsimp only
  split
  · split <;> rfl
  · rfl

theorem pagesKept_deliverEffect (r : Delivery) (s : State) : s.PagesKept (s.deliverEffect r) := by
  cases r
  case taken p =>
    intro wf
    change (s.takePage p).play.wf
    rw [play_takePage]
    exact Play.wf_reevaluate (Play.tracked_fill p wf) s.pos
  case stray => exact pagesKept_countStray s
  all_goals exact andThen (b := s.raise .pageRejected) still (pagesKept_countStray _)

end State

/-- Every row answers a next state whose slots and wanted record agree where those of the state before do. -/
theorem exec_keeps_pages (i : Instr) (s : State) : ∃ t, exec i s = .next t ∧ s.PagesKept t := by
  have command : ∀ {n tail : Nat} {k : Byte} {body : Conf → State → Answered}, (∀ c, s.PagesKept (body c s).state) →
      s.PagesKept (s.command n tail (State.configured k body)) :=
    fun h => State.pagesKept_command (State.pagesKept_configured h)
  cases i with
  | configure payload tail =>
    refine ⟨_, rfl, State.pagesKept_command ?_⟩
    split
    · unfold State.configure
      split
      · exact .still
      · split
        · exact .still
        · split <;> exact .still
    · exact .still
  | join => exact ⟨_, rfl, command fun _ => by unfold State.join; split <;> exact .still⟩
  | leave | abortNow => exact ⟨_, rfl, command fun _ => .still⟩
  | route => exact ⟨_, rfl, command fun _ => by unfold State.route; split <;> exact .still⟩
  | solo => exact ⟨_, rfl, command fun _ => by unfold State.solo; split <;> exact .still⟩
  | touchset => exact ⟨_, rfl, command fun _ => by unfold State.touchset; split <;> exact .still⟩
  | map =>
    refine ⟨_, rfl, command fun _ => ?_⟩
    unfold State.mapFader
    split
    · split <;> exact .still
    · exact .still
  | surface =>
    refine ⟨_, rfl, command fun _ => ?_⟩
    unfold State.surface
    split
    · split <;> exact .still
    · exact .still
  | control => exact ⟨_, rfl, command fun _ => by unfold State.controlCommand; split <;> exact .still⟩
  | window => exact ⟨_, rfl, command fun _ => by unfold State.window; split <;> exact .still⟩
  | abortAtPageEnd => exact ⟨_, rfl, command fun _ => by unfold State.abortAtPageEnd; split <;> exact .still⟩
  | span => exact ⟨_, rfl, command fun _ => s.pagesKept_setSpan _ _ _⟩
  | deliver payload tail =>
    refine ⟨_, rfl, State.pagesKept_command ?_⟩
    split
    · exact State.pagesKept_configured fun _ => s.pagesKept_deliverEffect _
    · exact .still
  | drives | take | passes | status | mask => exact ⟨_, rfl, State.pagesKept_command .still⟩
  | restart => exact ⟨_, rfl, State.pagesKept_command .fresh⟩
  | format ldi => exact ⟨_, rfl, s.pagesKept_reject ldi⟩
  | poll n | replyRead n => exact ⟨_, rfl, s.pagesKept_emptyTransfer n⟩
  | replyFormed => exact ⟨_, rfl, s.pagesKept_formReply⟩
  | linkOverrun ldi => exact ⟨_, rfl, s.pagesKept_discard ldi⟩
  | hardwareReset => exact ⟨_, rfl, .fresh⟩
  | resetRise strap rate96 =>
    refine ⟨_, rfl, ?_⟩
    split
    · exact .fresh
    · exact .still
  | clockLost =>
    refine ⟨_, rfl, ?_⟩
    split
    · exact .still
    · split <;> exact .still
  | clockReturn => exact ⟨_, rfl, .still⟩
  | sampleEvent | frameEdge | frameArrival | badFrame | silentSample | tapFrame => exact ⟨_, rfl, s.pagesKept_sampled _⟩
  | flywheel | tick | abortFired | glideEnd => exact ⟨_, rfl, State.pagesKept_part (s.pagesKept_posPhase _)⟩
  | rampEnd | settleEnd | settleRiseEnd | touchQualified | releaseQualified | holdingsTimer | holdingsExpiry | leaseExpiry
  | keepalive => exact ⟨_, rfl, State.pagesKept_part .still⟩
  | noticeDeadline x => exact ⟨_, rfl, State.pagesKept_part (s.pagesKept_expireFlight x)⟩
  | ringBreak | tagAdoption | relock | relockComplete | lockPhaseEnd | listenPhaseEnd | firstIn =>
    exact ⟨_, rfl, State.pagesKept_part (s.pagesKept_ringAlone _ _)⟩

end Sys2Proof.Machine
end

section
/-!
SPAN (R143, R144): the span that its bytes name, and the slots that it leaves.
-/

set_option Elab.async false

namespace Sys2Proof.Machine

/-! ## The bytes (R143, R184) -/

theorem spanOf?_of_range {form : Byte} {a b : BitVec 24}
    (h : 1 < form.toNat ∨ form = 1 ∧ (b.toNat < a.toNat ∨ 1048575 < b.toNat)) : spanOf? form a b = none := by
  unfold spanOf?
  rcases h with form | ⟨rfl, pages⟩
  · rw [flagOfCode?_of_gt form]
  · exact if_neg (by omega)

theorem spanOf?_of_pages {a b : BitVec 24} (order : a.toNat ≤ b.toNat) (last : b.toNat ≤ 1048575) :
    spanOf? 1 a b = some (some (BitVec.ofNat 20 a.toNat, BitVec.ofNat 20 b.toNat)) := by
  rw [BitVec.ofNat_toNat, BitVec.ofNat_toNat]
  exact if_pos ⟨order, last⟩

namespace Play

variable {x : Option (Page × Page)} {p : Pos} {y : Play} {i : Fin 4} {n : Page}

/-! ## The slots (R143, R144) -/

theorem rest_setSpan : (y.setSpan x p).span = x ∧ (y.setSpan x p).entered = y.entered :=
  rest_reevaluate p (retireMissing { y with span := x })

theorem slot_setSpan_ne_missing : (y.setSpan x p).slots[i] ≠ .missing n := by
  intro missing
  have before := missing_of_reevaluate missing
  obtain ⟨e, other⟩ | ⟨e, _⟩ := slot_retireMissing { y with span := x } i
  · exact other n (e ▸ before)
  · rw [before] at e
    cases e

/-- R144 step 2: every page held lies in the window and in the new span. -/
theorem inside_of_setSpan (held : (y.setSpan x p).slots[i].page? = some n) :
    n ∈ playWindow p ∧ (y.setSpan x p).inSpan n = true := by
  have inside := inside_of_reevaluate held
  have span := (rest_setSpan (x := x) (p := p) (y := y)).1
  unfold inSpan at inside ⊢
  rw [span]
  exact inside

/-- R143: with a clear span no page is wanted. -/
theorem wanted_setSpan_none : (y.setSpan none p).wanted = none := by
  rcases h : (y.setSpan none p).wanted with _ | v
  · rfl
  · obtain ⟨inside, _⟩ := record_reevaluate h
    cases inside

end Play

/-- R143: what a SPAN comes to in READY. -/
theorem State.exec_span {s : State} {c : Conf} (ready : s.ready) (conf : s.conf = some c) (form : Byte) (a b : BitVec 24)
    (tail : Nat) :
    exec (.span form a b tail) s = .next (State.taken 7 tail (s.setSpan form a b).reply (s.setSpan form a b).state) := by
  refine congrArg Host.Outcome.next ((State.command_of_ready ready _ _ _).trans ?_)
  rw [State.configured_of_some conf]

theorem State.setSpan_of_refused {s : State} {form : Byte} {a b : BitVec 24} (h : spanOf? form a b = none) :
    s.setSpan form a b = s.refuse 0x0E .range := by
  unfold State.setSpan
  rw [h]

theorem State.setSpan_of_taken {s : State} {form : Byte} {a b : BitVec 24} {x : Option (Page × Page)}
    (h : spanOf? form a b = some x) :
    s.setSpan form a b = State.done 0x0E [] { s with play := s.play.setSpan x s.pos } := by
  unfold State.setSpan
  rw [h]

end Sys2Proof.Machine

open Sys2Proof Sys2Proof.Machine

/-- Settles O57: the span that SPAN's bytes name and the re-evaluation behind it; the agreement of slots and wanted record by
`exec_keeps_pages`, and an empty queue changes nothing. -/
theorem spanResult : Obligations.SpanResult := by
  refine ⟨fun form a b tail s ready conf => ?_, fun s t wf run => ?_⟩
  · obtain ⟨c, conf⟩ := Option.isSome_iff_exists.mp conf
    have run := State.exec_span ready conf form a b tail
    refine ⟨fun range => ?_, fun x named => ?_⟩
    · rw [run, State.setSpan_of_refused (spanOf?_of_range range)]
      rfl
    · have span : spanOf? form a b = some x := by
        obtain ⟨rfl, rfl⟩ | ⟨rfl, order, last, rfl⟩ := named
        · rfl
        · exact spanOf?_of_pages order last
      rw [State.setSpan_of_taken span] at run
      obtain ⟨kept, entered⟩ := Play.rest_setSpan (x := x) (p := s.pos) (y := s.play)
      refine ⟨_, run, kept, entered, fun i n => ⟨Play.slot_setSpan_ne_missing, Play.inside_of_setSpan⟩, ?_, rfl⟩
      rintro rfl
      exact Play.wanted_setSpan_none
  · unfold step at run
    split at run
    · cases run
      exact wf
    · next c rest _ =>
      obtain ⟨u, next, kept⟩ := exec_keeps_pages c { s with pending := rest }
      rw [next] at run
      cases run
      exact kept wf
end

section
/-!
DELIVER (R147 to R151): its result, the stray that it counts, and the page that it takes with the catch-up behind it (R119).
-/

set_option Elab.async false

namespace Sys2Proof.Machine

/-! ## The result and its reply (R147, 11.3) -/

/-- R147: a page with a wrong check word or form is REJECTED. -/
theorem deliveryOf_of_rejected {p : List Byte} (h : pageCheckRight p = false ∨ readPage p = none) (y : Play) :
    ∃ r, deliveryOf p y = r ∧ r.codes = [2, if pageCheckRight p then 2 else 1] ∧
      ∀ s : State, s.deliverEffect r = (s.raise .pageRejected).countStray := by
  unfold deliveryOf
  rcases check : pageCheckRight p
  · exact ⟨.badCheck, rfl, rfl, fun _ => rfl⟩
  · rw [h.resolve_left (by rw [check]; exact Bool.noConfusion)]
    exact ⟨.badForm, rfl, rfl, fun _ => rfl⟩

/-- R149, R151: a well-formed page is TAKEN where it is the wanted one, and a STRAY otherwise. -/
theorem deliveryOf_of_page {p : List Byte} {q : PlayPage} (check : pageCheckRight p = true) (form : readPage p = some q)
    (y : Play) : deliveryOf p y = if y.wanted.map (·.page) = some q.number then .taken q else .stray := by
  unfold deliveryOf
  rw [check, form]
  rfl

/-- R147: what a DELIVER comes to in READY. -/
theorem State.exec_deliver {p : List Byte} {s u : State} {c : Conf} {r : Delivery} (ready : s.ready) (conf : s.conf = some c)
    (long : 8 ≤ p.length) (short : p.length ≤ 6680) (result : deliveryOf p s.play = r) (effect : s.deliverEffect r = u)
    (tail : Nat) : exec (.deliver p tail) s =
      .next (State.taken p.length tail (.done 0x0F (r.codes ++ u.play.wantedBytes)) u) := by
  have fits : deliverLength p = true := by simp [deliverLength, long, short]
  refine congrArg Host.Outcome.next ((State.command_of_ready ready _ _ _).trans ?_)
  rw [fits, if_pos rfl, State.configured_of_some conf, ← effect, ← result]
  rfl

/-- A command that changes PLAY and the desk alone. -/
theorem State.taken_of_frame {s u : State} (frame : u = { s with play := u.play, desk := u.desk }) (length tail : Nat)
    (r : Reply) : u.taken length tail r =
      { s with play := u.play, desk := u.desk, link := { s.link with state := .working r },
               ldo := idleBits (8 * (5 + length) + tail) } := by
  conv_lhs => rw [frame]
  rfl

/-! ## Strays (R149, R150) -/

namespace State

/-- R149, R150: a stray changes PLAY and the flags alone, and clears none. -/
theorem countStray_frame (s : State) :
    s.countStray = { s with play := s.countStray.play, desk := s.countStray.desk } ∧
      s.countStray.play.span = s.play.span ∧ s.countStray.desk.auto = s.desk.auto ∧
      ∀ f, s.desk.flag f = true → s.countStray.desk.flag f = true := by
  rcases h : s.play.wanted with _ | w
  · rw [countStray_of_absent h]
    exact ⟨rfl, rfl, rfl, fun _ => id⟩
  · by_cases few : w.strays < 3
    · rw [countStray_of_few h few]
      exact ⟨rfl, rfl, rfl, fun _ => id⟩
    · rw [countStray_of_fourth h (Nat.le_of_not_lt few)]
      exact ⟨rfl, (Play.rest_reevaluate s.pos s.play.giveUp.recount).1, rfl,
        fun f set => (Desk.flag_raise .pageMissing f s.desk).trans (by rw [set]; rfl)⟩

/-- R149: a stray that is not the fourth counts against the wanted page, if there is one, and that is all. -/
theorem countStray_early (s : State) :
    (s.play.wanted = none → s.countStray.play = s.play ∧ s.countStray.desk = s.desk) ∧
      ∀ w, s.play.wanted = some w → w.strays < 3 →
        s.countStray.play = { s.play with wanted := some { w with strays := w.strays + 1 } } ∧
          s.countStray.desk = s.desk := by
  refine ⟨fun absent => ?_, fun w wanted few => ?_⟩
  · rw [countStray_of_absent absent]
    exact ⟨rfl, rfl⟩
  · rw [countStray_of_few wanted few]
    exact ⟨rfl, rfl⟩

/-- R150: the fourth stray raises PAGE_MISSING, the wanted page is MISSING, and the wanted record leaves it. -/
theorem countStray_fourth {s : State} {w : Wanted} (wf : s.play.wf) (wanted : s.play.wanted = some w)
    (three : w.strays = 3) :
    s.countStray.flag .pageMissing = true ∧ s.countStray.desk.auto = s.desk.auto ∧
      (∀ v, s.countStray.play.wanted = some v → v.page ≠ w.page ∧ v.strays = 0) ∧
      (w.page ∈ playWindow s.pos → s.play.inSpan w.page = true →
        ∃ i : Fin 4, s.play.slots[i] = .wanted w.page ∧ s.countStray.play.slots[i] = .missing w.page) := by
  obtain ⟨_, iff, _⟩ := wf
  obtain ⟨i, slot⟩ := (iff w.page).mpr (by rw [wanted]; rfl)
  have given : s.play.giveUp.slots[i] = .missing w.page := by
    obtain ⟨_, other⟩ | ⟨n, same, e⟩ := Play.slot_giveUp s.play i
    · exact absurd slot (other w.page)
    · rw [slot] at same
      cases same
      exact e
  have settles : s.play.giveUp.slots[i].settles w.page = true := by
    rw [given]
    exact beq_self_eq_true w.page
  rw [countStray_of_fourth wanted three.ge]
  refine ⟨(Desk.flag_raise .pageMissing .pageMissing s.desk).trans (by simp), rfl, fun v => Play.record_of_settled settles,
    fun mem inside => ⟨i, slot, ?_⟩⟩
  exact (Play.slot_reevaluate_of_settles (y := s.play.giveUp.recount) settles mem inside).trans given

end State

/-! ## The page TAKEN (R151, R119) -/

/-- R119: the record of a live control at a catch-up. -/
def Control.caughtUp (v : Option Value) (x : Control) : Control := { x.play v with applied := (x.play v).decided }

/-- R119: a catch-up gives every live control its value in force, and leaves every other as it is. -/
theorem Desk.control_catchUp (e : Env) (t : Tick) (c : Fin 176) (d : Desk) :
    (d.catchUp e t).control c = if e.live c then (d.control c).caughtUp (e.play.inForce t c) else d.control c := by
  unfold Desk.catchUp
  rw [Desk.control_each (g := fun _ x => { x with applied := x.decided }) (Desk.control_decideApplied e)
      e.nodup_liveControls,
    Desk.control_each (g := fun k => Control.play (e.play.inForce t k)) (Desk.control_takePlayback e t) e.nodup_liveControls]
  simp only [Env.mem_liveControls]
  split <;> rfl

/-- R119: a catch-up raises no flag and leaves TAKE alone. -/
theorem Desk.rest_catchUp (e : Env) (t : Tick) (d : Desk) :
    (d.catchUp e t).ev = d.ev ∧ (d.catchUp e t).take = d.take := by
  have played : ∀ c (u : Desk), (u.takePlayback e t c).ev = u.ev ∧ (u.takePlayback e t c).take = u.take := fun c u => by
    unfold Desk.takePlayback
    split <;> exact ⟨rfl, rfl⟩
  refine Desk.each_keeps (P := fun u => u.ev = d.ev ∧ u.take = d.take) (fun c u ⟨ev, take⟩ => ?_) _
    (Desk.each_keeps (P := fun u => u.ev = d.ev ∧ u.take = d.take) (fun c u ⟨ev, take⟩ => ?_) _ ⟨rfl, rfl⟩)
  · exact ⟨(Desk.rest_decideApplied e c u).1.trans ev, (Desk.take_decideApplied e c u).trans take⟩
  · exact ⟨(played c u).1.trans ev, (played c u).2.trans take⟩

theorem Control.decided_of_read {x : Control} (mode : x.mode = .read) : x.decided = x.playback := by
  unfold Control.decided
  rw [mode]

/-- R121, R128: a gliding or holding control keeps its applied value. -/
theorem Control.decided_of_kept {x : Control} (mode : x.mode = .touch ∨ x.mode = .latch)
    (pass : x.pass = .gliding ∨ x.pass = .holding) : x.decided = x.applied := by
  unfold Control.decided
  rcases mode with mode | mode <;> rcases pass with pass | pass <;> rw [mode, pass]

namespace State

variable {s : State} {q : PlayPage} {k : Tick} {i : Fin 4}

/-- R151: the current tick does not lie in the page: PLAY alone changes. -/
theorem takePage_of_elsewhere (h : ∀ k, s.pos.tick = some k → pageOf k ≠ q.number) :
    (s.takePage q).desk = s.desk := by
  unfold State.takePage
  dsimp only
  split
  · next k tick => rw [if_neg (h k tick)]
  · rfl

/-- R151: the current tick lies in the page: a catch-up follows. -/
theorem takePage_of_here (tick : s.pos.tick = some k) (page : pageOf k = q.number) :
    (s.takePage q).desk = s.desk.catchUp { s.env with play := (s.takePage q).play } k := by
  rw [play_takePage]
  unfold State.takePage
  dsimp only
  rw [tick]
  dsimp only
  rw [if_pos page]
  rfl

theorem takePage_frame (q : PlayPage) (s : State) :
    s.takePage q = { s with play := (s.takePage q).play, desk := (s.takePage q).desk } ∧
      (s.takePage q).desk.ev = s.desk.ev ∧ (s.takePage q).desk.take = s.desk.take := by
  refine ⟨?_, ?_⟩
  · unfold State.takePage
    dsimp only
    split
    · split <;> rfl
    · rfl
  · by_cases h : ∃ k, s.pos.tick = some k ∧ pageOf k = q.number
    · obtain ⟨k, tick, page⟩ := h
      rw [takePage_of_here tick page]
      exact Desk.rest_catchUp _ k s.desk
    · rw [takePage_of_elsewhere fun k tick page => h ⟨k, tick, page⟩]
      exact ⟨rfl, rfl⟩

/-- R151: the page is held READY in the slot that was WANTED, and the wanted record leaves it. -/
theorem takePage_slot (slot : s.play.slots[i] = .wanted q.number) :
    (q.number ∈ playWindow s.pos → s.play.inSpan q.number = true → (s.takePage q).play.slots[i] = .ready q) ∧
      ∀ v, (s.takePage q).play.wanted = some v → v.page ≠ q.number ∧ v.strays = 0 := by
  have filled : (s.play.fill q).slots[i] = .ready q := by rw [Play.slot_fill, if_pos slot]
  have settles : (s.play.fill q).slots[i].settles q.number = true := by
    rw [filled]
    exact beq_self_eq_true q.number
  rw [play_takePage]
  exact ⟨fun mem inside =>
    (Play.slot_reevaluate_of_settles (y := (s.play.fill q).recount) settles mem inside).trans filled,
    fun v => Play.record_of_settled settles⟩

/-- R119: at the catch-up every live control takes the value that the page gives it at the current tick. -/
theorem takePage_control (wf : s.play.wf) (ready : (s.takePage q).play.slots[i] = .ready q) (tick : s.pos.tick = some k)
    (page : pageOf k = q.number) (c : Fin 176) :
    (s.takePage q).desk.control c =
      if s.env.live c then (s.desk.control c).caughtUp (q.valueAt (offsetOf k) c) else s.desk.control c := by
  have value : (s.takePage q).play.inForce k c = q.valueAt (offsetOf k) c := by
    unfold Play.inForce
    have agree : (s.takePage q).play.wf := s.pagesKept_deliverEffect (.taken q) wf
    rw [page, Play.ready?_of_slot agree ready]
  rw [takePage_of_here tick page, Desk.control_catchUp, ← value]
  rfl

end State

end Sys2Proof.Machine

open Sys2Proof Sys2Proof.Machine

/-- Settles O58: the result of the tests, what a stray counts against, and the page taken with its catch-up. -/
theorem deliverResult : Obligations.DeliverResult := by
  refine ⟨fun y => ?_, fun p tail s ready conf long short => ?_⟩
  · unfold Play.wantedBytes
    rcases y.wanted with _ | w <;> rfl
  obtain ⟨c, conf⟩ := Option.isSome_iff_exists.mp conf
  have run := fun {r : Delivery} {u : State} (result : deliveryOf p s.play = r) (effect : s.deliverEffect r = u) =>
    State.exec_deliver ready conf long short result effect tail
  refine ⟨fun rejected => ?_, fun y check form other => ?_, fun w bad wf wanted three => ?_,
    fun y i check form wanted slot => ?_⟩
  · obtain ⟨r, result, codes, effect⟩ := deliveryOf_of_rejected rejected s.play
    obtain ⟨frame, span, auto, flags⟩ := (s.raise .pageRejected).countStray_frame
    obtain ⟨absent, few⟩ := (s.raise .pageRejected).countStray_early
    have raised : (s.raise .pageRejected).desk.flag .pageRejected = true :=
      (Desk.flag_raise .pageRejected .pageRejected s.desk).trans (by simp)
    exact ⟨_, run result (effect s), flags _ raised, by rw [← codes]; rfl, auto, span, absent, few,
      State.taken_of_frame (s := s.raise .pageRejected) frame _ _ _⟩
  · have result : deliveryOf p s.play = .stray := by rw [deliveryOf_of_page check form, if_neg other]
    obtain ⟨frame, span, auto, _⟩ := s.countStray_frame
    obtain ⟨absent, few⟩ := s.countStray_early
    exact ⟨_, run result rfl, rfl, auto, span, absent, few, State.taken_of_frame frame _ _ _⟩
  · obtain ⟨r, u, result, effect, same⟩ : ∃ r u, deliveryOf p s.play = r ∧ s.deliverEffect r = State.countStray u ∧
        (u = s ∨ u = s.raise .pageRejected) := by
      have reject := fun h => deliveryOf_of_rejected (p := p) h s.play
      rcases bad with check | form | ⟨q, form, other⟩
      · obtain ⟨r, result, _, effect⟩ := reject (.inl check)
        exact ⟨r, _, result, effect s, .inr rfl⟩
      · obtain ⟨r, result, _, effect⟩ := reject (.inr form)
        exact ⟨r, _, result, effect s, .inr rfl⟩
      · rcases check : pageCheckRight p
        · obtain ⟨r, result, _, effect⟩ := reject (.inl check)
          exact ⟨r, _, result, effect s, .inr rfl⟩
        · refine ⟨.stray, s, ?_, rfl, .inl rfl⟩
          rw [deliveryOf_of_page check form, wanted]
          exact if_neg fun e => other (Option.some.inj e)
    refine ⟨_, run result effect, ?_⟩
    rcases same with rfl | rfl
    · exact State.countStray_fourth wf wanted three
    · exact State.countStray_fourth (s := s.raise .pageRejected) wf wanted three
  · have result : deliveryOf p s.play = .taken y := by rw [deliveryOf_of_page check form, if_pos wanted]
    obtain ⟨frame, ev, take⟩ := State.takePage_frame y s
    obtain ⟨held, record⟩ := State.takePage_slot slot
    have rest := Play.rest_reevaluate s.pos (s.play.fill y).recount
    rw [← State.play_takePage] at rest
    refine ⟨_, run result rfl, rfl, held, record, rest.1, rest.2, ev, take, fun elsewhere => ?_,
      fun k tick page mem inside wf c x z hx hz => ?_, State.taken_of_frame frame _ _ _⟩
    · exact State.takePage_of_elsewhere fun k tick page => elsewhere k tick (by rw [← toNat_pageOf, page])
    · have page : pageOf k = y.number := BitVec.eq_of_toNat_eq ((toNat_pageOf k).trans page)
      have control := State.takePage_control wf (held mem inside) tick page c
      rw [hx] at control
      have control := hz.symm.trans control
      refine ⟨fun idle => by rw [control, idle]; rfl, fun live => ?_⟩
      rw [live, if_pos rfl] at control
      subst control
      refine ⟨rfl, ?_, fun ⟨mode, pass⟩ => Control.decided_of_kept mode pass, rfl⟩
      rintro (mode | ⟨mode, pass⟩)
      · exact Control.decided_of_read mode
      · exact Control.decided_of_idle mode pass
end

section
/-!
TAKE's slots: what each operation of chapter 9 makes of the slots and of the closing order, and that it keeps the two consistent
(R157).
-/

set_option Elab.async false

namespace Sys2Proof.Machine

/-! ## The order of the moves in a page (R159) -/

/-- R159: the order of the moves in a take page. -/
def Move.Before (a b : Move) : Prop := a.offset < b.offset ∨ a.offset = b.offset ∧ a.control < b.control

namespace Move.Before

theorem trans {a b c : Move} (h : a.Before b) (k : b.Before c) : a.Before c := by
  rcases h with lower | ⟨same, lower⟩
  · rcases k with lower' | ⟨same', _⟩
    · exact .inl (BitVec.lt_trans lower lower')
    · exact .inl (same' ▸ lower)
  · rcases k with lower' | ⟨same', lower'⟩
    · exact .inl (same ▸ lower')
    · exact .inr ⟨same.trans same', lt_trans lower lower'⟩

theorem of_not {a b : Move} (h : ¬ a.Before b) (apart : ¬ (a.offset = b.offset ∧ a.control = b.control)) : b.Before a := by
  rcases lt_trichotomy b.offset.toNat a.offset.toNat with lower | same | higher
  · exact .inl lower
  · have same : b.offset = a.offset := BitVec.eq_of_toNat_eq same
    rcases lt_trichotomy b.control a.control with lower | same' | higher
    · exact .inr ⟨same, lower⟩
    · exact absurd ⟨same.symm, same'.symm⟩ apart
    · exact absurd (.inr ⟨same.symm, higher⟩) h
  · exact absurd (.inl higher) h

end Move.Before

theorem insertMove_of_before {m x : Move} (h : x.Before m) (l : List Move) :
    insertMove m (x :: l) = x :: insertMove m l := if_pos h

theorem insertMove_of_not {m x : Move} (h : ¬ x.Before m) (l : List Move) : insertMove m (x :: l) = m :: x :: l := if_neg h

theorem insertMove_perm (m : Move) (l : List Move) : (insertMove m l).Perm (m :: l) := by
  induction l with
  | nil => exact .refl _
  | cons x l ih =>
    by_cases h : x.Before m
    · rw [insertMove_of_before h]
      exact (ih.cons x).trans (.swap m x l)
    · rw [insertMove_of_not h]

theorem length_insertMove (m : Move) (l : List Move) : (insertMove m l).length = l.length + 1 :=
  (insertMove_perm m l).length_eq

/-- R159: a move of another control or offset than those placed finds its place in the order. -/
theorem pairwise_insertMove {m : Move} {l : List Move} (sorted : l.Pairwise Move.Before)
    (fresh : ∀ a ∈ l, ¬ (a.offset = m.offset ∧ a.control = m.control)) : (insertMove m l).Pairwise Move.Before := by
  induction l with
  | nil => exact List.pairwise_singleton _ m
  | cons x l ih =>
    obtain ⟨first, rest⟩ := List.pairwise_cons.mp sorted
    by_cases h : x.Before m
    · rw [insertMove_of_before h]
      refine List.pairwise_cons.mpr ⟨fun a ha => ?_, ih rest fun a ha => fresh a (.tail x ha)⟩
      rcases List.mem_cons.mp ((insertMove_perm m l).mem_iff.mp ha) with rfl | old
      · exact h
      · exact first a old
    · rw [insertMove_of_not h]
      have before : m.Before x := .of_not h (fresh x (.head l))
      refine List.pairwise_cons.mpr ⟨fun a ha => ?_, sorted⟩
      rcases List.mem_cons.mp ha with rfl | behind
      · exact before
      · exact before.trans (first a behind)

namespace Take

variable {t u : Take} {i j : Fin 4} {p : TakePage} {n : Page} {m : Move} {k : Tick} {c : Fin 176} {v : Value}

/-! ## The OPEN slot and the lowest FREE slot (R157, R158) -/

theorem slot_set (x : Vector TakeSlot 4) (i j : Fin 4) (y : TakeSlot) : (x.set i y)[j] = if j = i then y else x[j] := by
  simp [Vector.getElem_set, Fin.ext_iff, eq_comm]

/-- No slot is OPEN. -/
def NoneOpen (t : Take) : Prop := ∀ (i : Fin 4) (p : TakePage), t.slots[i] ≠ .opened p

theorem open?_eq_some (h : t.open? = some (i, p)) : t.slots[i] = .opened p := by
  obtain ⟨j, _, found⟩ := List.exists_of_findSome?_eq_some h
  split at found
  · next opened =>
    cases found
    exact opened
  · cases found

theorem open?_eq_none_iff : t.open? = none ↔ t.NoneOpen := by
  unfold Take.open? NoneOpen
  rw [List.findSome?_eq_none_iff]
  refine ⟨fun none_open i p opened => ?_, fun none_open i _ => ?_⟩
  · have found := none_open i (List.mem_finRange i)
    rw [opened] at found
    cases found
  · split
    · next opened => exact absurd opened (none_open i _)
    · rfl

theorem open?_of_opened (wf : t.wf) (opened : t.slots[i] = .opened p) : t.open? = some (i, p) := by
  obtain ⟨_, _, one, _⟩ := wf
  rcases found : t.open? with _ | ⟨j, q⟩
  · exact absurd opened (open?_eq_none_iff.mp found i p)
  · have opened' := open?_eq_some found
    obtain rfl := one i j p q opened opened'
    rw [opened] at opened'
    cases opened'
    rfl

theorem free?_of_lowest (free : t.slots[j] = .free) (lowest : ∀ x : Fin 4, x < j → t.slots[x] ≠ .free) : t.free? = some j := by
  unfold Take.free?
  rw [List.find?_eq_some_iff_getElem]
  exact ⟨by simpa using free, j.val, by simp, by simp, fun x below => by simpa using lowest ⟨x, by omega⟩ below⟩

theorem free?_of_full (full : ∀ j : Fin 4, t.slots[j] ≠ .free) : t.free? = none := by
  unfold Take.free?
  rw [List.find?_eq_none]
  exact fun j _ => by simpa using full j

theorem free?_eq_some (h : t.free? = some j) : t.slots[j] = .free := by
  simpa using List.find?_some h

/-! ## The OPEN page closes (R160) -/

theorem closeOpen_of_noneOpen (h : t.NoneOpen) : t.closeOpen = t := by
  unfold Take.closeOpen
  rw [open?_eq_none_iff.mpr h]

theorem closeOpen_of_open? (h : t.open? = some (i, p)) :
    t.closeOpen = { t with slots := t.slots.set i (.closed p), order := t.order ++ [i] } := by
  unfold Take.closeOpen
  rw [h]

theorem lastPassClosed_of_noneOpen (h : t.NoneOpen) : t.lastPassClosed = { t with lost := none } := by
  unfold Take.lastPassClosed
  rw [closeOpen_of_noneOpen h]

theorem lastPassClosed_of_open? (h : t.open? = some (i, p)) : t.lastPassClosed =
    { t with lost := none, order := t.order ++ [i], slots := t.slots.set i (.closed p) } := by
  unfold Take.lastPassClosed
  rw [closeOpen_of_open? h]

/-- R160: TAKE once a tick in page `n` has closed an OPEN page of another number. -/
def closeOther (n : Page) (t : Take) : Take :=
  match t.open? with
  | some (_, p) => if p.page = n then t else t.closeOpen
  | none => t

theorem closeOther_eq (n : Page) (t : Take) : t.closeOther n = t ∨ t.closeOther n = t.closeOpen := by
  unfold closeOther
  split
  · split
    · exact .inl rfl
    · exact .inr rfl
  · exact .inl rfl

theorem closeOther_of_noneOpen (h : t.NoneOpen) (n : Page) : t.closeOther n = t := by
  unfold closeOther
  rw [open?_eq_none_iff.mpr h]

theorem closeOther_of_open? (h : t.open? = some (i, p)) (n : Page) :
    t.closeOther n = if p.page = n then t else t.closeOpen := by
  unfold closeOther
  rw [h]

theorem lost_closeOther (n : Page) (t : Take) : (t.closeOther n).lost = t.lost := by
  have closed : t.closeOpen.lost = t.lost := by
    unfold Take.closeOpen
    split <;> rfl
  rcases closeOther_eq n t with same | same <;> rw [same]
  exact closed

/-- R160, R161: what a tick in page `n` leaves. -/
theorem leavePage_eq (n : Page) (t : Take) :
    t.leavePage n = { t.closeOther n with lost := if t.lost = some n then t.lost else none } := by
  have left : t.leavePage n = match (t.closeOther n).lost with
      | some l => if l = n then t.closeOther n else { t.closeOther n with lost := none }
      | none => t.closeOther n := rfl
  have lost := lost_closeOther n t
  rw [left]
  generalize t.closeOther n = u at lost ⊢
  rw [← lost]
  obtain ⟨slots, order, _ | l, queue, reserved⟩ := u
  · rfl
  · by_cases h : l = n
    · simp [h]
    · simp [h]

/-! ## A move arrives (R158, R161, R162) -/

/-- The move handed to TAKE for a tick. -/
def moveAt (k : Tick) (c : Fin 176) (v : Value) : Move := { offset := offsetOf k, control := c, value := v }

theorem openFor_of_free? (h : t.free? = some j) : t.openFor n m =
    ({ t with slots := t.slots.set j (.opened { page := n, moves := [m], truncated := false }) }, .kept) := by
  unfold Take.openFor
  rw [h]

theorem openFor_of_full (h : t.free? = none) : t.openFor n m = ({ t with lost := some n }, .overrun) := by
  unfold Take.openFor
  rw [h]

theorem accept_of_lost (h : t.lost = some (pageOf k)) : t.accept k c v = (t, .overrun) := if_pos h

/-- A lost page ended reaches no slot. -/
theorem open?_endLost (t : Take) : ({ t with lost := none } : Take).open? = t.open? := rfl

theorem accept_of_open? (lost : t.lost ≠ some (pageOf k)) (h : t.open? = some (i, p)) (page : p.page = pageOf k) :
    t.accept k c v = if p.moves.length < 1024 then
        ({ t with lost := none, slots := t.slots.set i (.opened { p with moves := insertMove (moveAt k c v) p.moves }) }, .kept)
      else ({ t with lost := none, slots := t.slots.set i (.opened { p with truncated := true }) }, .truncated) := by
  unfold Take.accept
  dsimp only
  rw [if_neg lost, open?_endLost, h]
  exact if_pos page

/-- R158: where no OPEN slot holds the page of the tick, an OPEN slot of another page closes, and the page is opened. -/
theorem accept_elsewhere (lost : t.lost ≠ some (pageOf k)) (h : ∀ (i : Fin 4) (p : TakePage), t.slots[i] = .opened p →
    p.page ≠ pageOf k) : t.accept k c v = ({ t with lost := none } : Take).closeOpen.openFor (pageOf k) (moveAt k c v) := by
  unfold Take.accept
  dsimp only
  rw [if_neg lost]
  split
  · next i p opened => exact if_neg (h i p (open?_eq_some opened))
  · next none_open => rw [closeOpen_of_noneOpen (open?_eq_none_iff.mp none_open)]; rfl

/-! ## Slots and closing order agree (R157) -/

theorem wf_congr (slots : u.slots = t.slots) (order : u.order = t.order) (wf : t.wf) : u.wf := by
  unfold Take.wf at wf ⊢
  rw [slots, order]
  exact wf

theorem wf_closeOpen (wf : t.wf) : t.closeOpen.wf := by
  rcases found : t.open? with _ | ⟨i, p⟩
  · rw [closeOpen_of_noneOpen (open?_eq_none_iff.mp found)]
    exact wf
  · obtain ⟨nodup, closed, one, lengths⟩ := wf
    have opened := open?_eq_some found
    have fresh : i ∉ t.order := fun mem => by
      obtain ⟨q, hq⟩ := (closed i).mp mem
      rw [opened] at hq
      cases hq
    rw [closeOpen_of_open? found]
    refine ⟨nodup.append (List.nodup_singleton i) (by simpa using fresh), fun j => ?_, fun j l q r hj hl => ?_, fun j q hj => ?_⟩
    · dsimp only
      rw [slot_set, List.mem_append, List.mem_singleton, closed j]
      by_cases same : j = i
      · simp [same]
      · simp [same]
    · dsimp only at hj hl
      rw [slot_set] at hj hl
      split at hj
      · cases hj
      · split at hl
        · cases hl
        · exact one j l q r hj hl
    · dsimp only at hj
      rw [slot_set] at hj
      split at hj
      · cases hj
        exact lengths i p (by rw [opened]; rfl)
      · exact lengths j q hj

/-- Once the OPEN page has closed, no slot is OPEN. -/
theorem noneOpen_closeOpen (wf : t.wf) : t.closeOpen.NoneOpen := by
  rcases found : t.open? with _ | ⟨i, p⟩
  · have none_open := open?_eq_none_iff.mp found
    rw [closeOpen_of_noneOpen none_open]
    exact none_open
  · obtain ⟨_, _, one, _⟩ := wf
    rw [closeOpen_of_open? found]
    intro j q opened
    dsimp only at opened
    rw [slot_set] at opened
    split at opened
    · cases opened
    · next other => exact other (one j i q p opened (open?_eq_some found))

/-- An OPEN page of 1 to 1024 moves is written into a slot that is not CLOSED, where no other slot is OPEN. -/
theorem wf_setOpened (wf : t.wf) (not_closed : ∀ q, t.slots[i] ≠ .closed q)
    (only : ∀ (j : Fin 4) (q : TakePage), t.slots[j] = .opened q → j = i) (some_moves : 1 ≤ p.moves.length)
    (room : p.moves.length ≤ 1024) : ({ t with slots := t.slots.set i (.opened p) } : Take).wf := by
  obtain ⟨nodup, closed, _, lengths⟩ := wf
  have opened : ∀ (j : Fin 4) (q : TakePage), (t.slots.set i (.opened p))[j] = .opened q → j = i := by
    intro j q hj
    rw [slot_set] at hj
    split at hj
    · assumption
    · exact only j q hj
  refine ⟨nodup, fun j => ?_, fun j l q r hj hl => (opened j q hj).trans (opened l r hl).symm, fun j q hj => ?_⟩
  · dsimp only
    rw [slot_set, closed j]
    by_cases same : j = i
    · simpa [same] using not_closed
    · simp [same]
  · dsimp only at hj
    rw [slot_set] at hj
    split at hj
    · cases hj
      exact ⟨some_moves, room⟩
    · exact lengths j q hj

theorem wf_openFor (wf : t.wf) (none_open : t.NoneOpen) : (t.openFor n m).1.wf := by
  rcases found : t.free? with _ | j
  · rw [openFor_of_full found]
    exact wf_congr rfl rfl wf
  · rw [openFor_of_free? found]
    exact wf_setOpened wf (fun q closed => TakeSlot.noConfusion ((free?_eq_some found).symm.trans closed))
      (fun j q opened => absurd opened (none_open j q)) (by simp) (by simp)

theorem wf_accept (wf : t.wf) (k : Tick) (c : Fin 176) (v : Value) : (t.accept k c v).1.wf := by
  by_cases lost : t.lost = some (pageOf k)
  · rw [accept_of_lost lost]
    exact wf
  · have ended : ({ t with lost := none } : Take).wf := wf_congr rfl rfl wf
    by_cases here : ∃ (i : Fin 4) (p : TakePage), t.slots[i] = .opened p ∧ p.page = pageOf k
    · obtain ⟨i, p, opened, page⟩ := here
      have found := open?_of_opened wf opened
      obtain ⟨_, _, one, lengths⟩ := wf
      obtain ⟨some_moves, few⟩ := lengths i p (by rw [opened]; rfl)
      have placed : ∀ q : TakePage, 1 ≤ q.moves.length → q.moves.length ≤ 1024 →
          ({ t with lost := none, slots := t.slots.set i (.opened q) } : Take).wf := fun q =>
        wf_setOpened ended (fun q closed => TakeSlot.noConfusion (opened.symm.trans closed))
          (fun j q hj => one j i q p hj opened)
      rw [accept_of_open? lost found page]
      split
      · exact placed _ (by rw [length_insertMove]; omega) (by rw [length_insertMove]; omega)
      · exact placed _ some_moves few
    · rw [accept_elsewhere lost fun i p opened page => here ⟨i, p, opened, page⟩]
      exact wf_openFor (wf_closeOpen ended) (noneOpen_closeOpen ended)

theorem wf_leavePage (wf : t.wf) (n : Page) : (t.leavePage n).wf := by
  rw [leavePage_eq]
  refine wf_congr rfl rfl (t := t.closeOther n) ?_
  rcases closeOther_eq n t with same | same
  · rw [same]
    exact wf
  · rw [same]
    exact wf_closeOpen wf

theorem wf_lastPassClosed (wf : t.wf) : t.lastPassClosed.wf := wf_congr rfl rfl (wf_closeOpen wf)

/-! ## The oldest CLOSED page is collected (R163) -/

theorem collect_of_nil (h : t.order = []) : t.collect = (none, t) := by
  unfold Take.collect
  rw [h]

theorem collect_of_closed {rest : List (Fin 4)} (order : t.order = i :: rest) (closed : t.slots[i] = .closed p) :
    t.collect = (some p, { t with slots := t.slots.set i .free, order := rest }) := by
  unfold Take.collect
  rw [order]
  dsimp only
  rw [closed]

theorem wf_collect (wf : t.wf) : t.collect.2.wf := by
  rcases order : t.order with _ | ⟨i, rest⟩
  · rw [collect_of_nil order]
    exact wf
  · obtain ⟨nodup, closed, one, lengths⟩ := wf
    obtain ⟨p, held⟩ := (closed i).mp (order ▸ List.mem_cons_self)
    rw [order] at nodup closed
    obtain ⟨fresh, nodup⟩ := List.nodup_cons.mp nodup
    rw [collect_of_closed order held]
    have slot : ∀ (j : Fin 4) (y : TakeSlot), y ≠ .free → (t.slots.set i .free)[j] = y → j ≠ i ∧ t.slots[j] = y := by
      intro j y full hj
      rw [slot_set] at hj
      split at hj
      · exact absurd hj.symm full
      · exact ⟨‹_›, hj⟩
    refine ⟨nodup, fun j => ⟨fun mem => ?_, fun ⟨q, hj⟩ => ?_⟩, fun j l q r hj hl => ?_, fun j q hj => ?_⟩
    · have other : j ≠ i := fun same => fresh (same ▸ mem)
      obtain ⟨q, hq⟩ := (closed j).mp (.tail i mem)
      exact ⟨q, by dsimp only; rw [slot_set, if_neg other]; exact hq⟩
    · obtain ⟨other, hq⟩ := slot j _ TakeSlot.noConfusion hj
      exact (List.mem_cons.mp ((closed j).mpr ⟨q, hq⟩)).resolve_left other
    · exact one j l q r (slot j _ TakeSlot.noConfusion hj).2 (slot l _ TakeSlot.noConfusion hl).2
    · dsimp only at hj
      rw [slot_set] at hj
      split at hj
      · cases hj
      · exact lengths j q hj

end Take

end Sys2Proof.Machine
end

section
/-!
What a step can do to TAKE, said once: every row brings TAKE from its state before to its state after by TAKE's own operations
(`Take.Run`). What these keep, every step keeps (R157).
-/

set_option Elab.async false

namespace Sys2Proof.Machine

/-- TAKE has come from `t` by operations of its own: moves and ticks taken (R158, R160), the report of the last pass closed
(R160), reservations and records (R164), pages and records collected (R163, R166), a reset (R168). -/
inductive Take.Run (t : Take) : Take → Prop
  | start : Run t t
  | accept {u : Take} (k : Tick) (c : Fin 176) (v : Value) : Run t u → Run t (u.accept k c v).1
  | leavePage {u : Take} (n : Page) : Run t u → Run t (u.leavePage n)
  | lastPassClosed {u : Take} : Run t u → Run t u.lastPassClosed
  | reserve {u : Take} : Run t u → Run t u.reserve
  | file {u : Take} (r : PassRecord) : Run t u → Run t (u.file r)
  | collect {u : Take} : Run t u → Run t u.collect.2
  | drain {u : Take} (n : Nat) : Run t u → Run t { u with queue := u.queue.drop n }
  | reset : Run t Take.reset

namespace Take.Run

theorem andThen {a b c : Take} (h : Run a b) (k : Run b c) : Run a c := by
  induction k with
  | start => exact h
  | accept k c v _ ih => exact .accept k c v ih
  | leavePage n _ ih => exact .leavePage n ih
  | lastPassClosed _ ih => exact .lastPassClosed ih
  | reserve _ ih => exact .reserve ih
  | file r _ ih => exact .file r ih
  | collect _ ih => exact .collect ih
  | drain n _ ih => exact .drain n ih
  | reset => exact .reset

/-- R157: no operation of TAKE breaks the agreement of slots and closing order. -/
theorem wf {t u : Take} (run : Run t u) (h : t.wf) : u.wf := by
  induction run with
  | start => exact h
  | accept k c v _ ih => exact Take.wf_accept ih k c v
  | leavePage n _ ih => exact Take.wf_leavePage ih n
  | lastPassClosed _ ih => exact Take.wf_lastPassClosed ih
  | collect _ ih => exact Take.wf_collect ih
  | reserve _ ih | file _ _ ih | drain _ _ ih => exact Take.wf_congr rfl rfl ih
  | reset => exact Take.wf_reset

end Take.Run

namespace Desk

/-- TAKE has come from its state in the earlier desk by its own operations. -/
def TakeRun (d d' : Desk) : Prop := d.take.Run d'.take

namespace TakeRun

/-- TAKE is as it was. -/
theorem still {d d' : Desk} (take : d'.take = d.take := by rfl) : TakeRun d d' := by
  unfold TakeRun
  rw [take]
  exact .start

theorem andThen {a b c : Desk} (h : TakeRun a b) (k : TakeRun b c) : TakeRun a c := Take.Run.andThen h k

theorem each {α : Type} {f : α → Desk → Desk} (h : ∀ a d, TakeRun d (f a d)) (l : List α) (d : Desk) :
    TakeRun d (d.each l f) :=
  each_keeps (P := TakeRun d) (fun a u run => andThen run (h a u)) l still

end TakeRun

open TakeRun (still andThen)

/-! ## Moves and passes (R125, R132) -/

theorem takeRun_decideApplied (e : Env) (c : Fin 176) (d : Desk) : TakeRun d (d.decideApplied e c) :=
  still (take_decideApplied e c d)

/-- A record written, and its applied value decided. -/
theorem takeRun_decideApplied_setControl (e : Env) (c : Fin 176) (x : Control) (d : Desk) :
    TakeRun d ((d.setControl c x).decideApplied e c) := takeRun_decideApplied e c (d.setControl c x)

/-- R125: TAKE takes the move of the applied value. -/
theorem take_appendMove (c : Fin 176) (k : Tick) (d : Desk) :
    (d.appendMove c k).take = (d.take.accept k c (d.control c).applied).1 := by
  unfold Desk.appendMove
  dsimp only
  split
  all_goals
    next x fate => exact (congrArg Prod.fst fate).symm

theorem takeRun_appendMove (c : Fin 176) (k : Tick) (d : Desk) : TakeRun d (d.appendMove c k) := by
  unfold TakeRun
  rw [take_appendMove]
  exact .accept k c _ .start

theorem takeRun_countClosed (d : Desk) : TakeRun d d.countClosed := by
  unfold Desk.countClosed
  dsimp only
  split
  · exact .lastPassClosed .start
  · exact .start

theorem takeRun_closePass (e : Env) (r : CloseReason) (c : Fin 176) (d : Desk) : TakeRun d (d.closePass e r c) := by
  unfold Desk.closePass
  dsimp only
  split
  · exact .start
  · next p _ =>
    have filed : ∀ x, TakeRun d (Desk.setControl c x { d with take := d.take.file (p.record c r) }) := fun _ => .file _ .start
    exact andThen (andThen (filed _) (takeRun_countClosed _)) (takeRun_decideApplied e c _)

theorem takeRun_closeAll (e : Env) (r : CloseReason) (d : Desk) : TakeRun d (d.closeAll e r) :=
  .each (takeRun_closePass e r) _ d

theorem takeRun_takeEvent (e : Env) (v : PosEvent) (d : Desk) : TakeRun d (d.takeEvent e v) := by
  cases v
  case roll | framing => exact .start
  all_goals exact takeRun_closeAll e _ d

/-- R124, R164: an opening takes a place of the queue. -/
theorem takeRun_openPass (c : Fin 176) (k : Tick) (d : Desk) : TakeRun d (d.openPass c k) := .reserve .start

/-! ## Touch and release (R126 to R128) -/

theorem takeRun_openBetween (e : Env) (c : Fin 176) (k : Tick) (d : Desk) : TakeRun d (d.openBetween e c k) := by
  have opened := andThen (takeRun_openPass c k d) (takeRun_decideApplied e c _)
  unfold Desk.openBetween
  dsimp only
  split
  · exact opened
  · exact andThen opened (takeRun_appendMove c k _)

theorem takeRun_touchIdle (e : Env) (c : Fin 176) (d : Desk) : TakeRun d (d.touchIdle e c) := by
  have primed : ∀ u : Desk, TakeRun u (u.prime e c) := fun u => takeRun_decideApplied_setControl e c _ u
  unfold Desk.touchIdle
  split
  · split
    · split
      · exact takeRun_openBetween e c _ d
      · exact primed (d.raise .passFull)
    · exact primed d
  · exact primed d

theorem takeRun_touchControl (e : Env) (c : Fin 176) (d : Desk) : TakeRun d (d.touchControl e c) := by
  unfold Desk.touchControl
  dsimp only
  generalize touched : d.setControl c { d.control c with touched := true } = u
  refine andThen (b := u) (touched ▸ still) ?_
  split
  case h_1 | h_2 => exact takeRun_touchIdle e c u
  case h_7 => exact .start
  all_goals exact takeRun_decideApplied_setControl e c _ u

theorem takeRun_beginGlide (e : Env) (c : Fin 176) (d : Desk) : TakeRun d (d.beginGlide e c) := by
  unfold Desk.beginGlide
  dsimp only
  split
  · exact takeRun_closePass e _ c d
  · exact still

theorem takeRun_releaseControl (e : Env) (lost : Bool) (c : Fin 176) (d : Desk) : TakeRun d (d.releaseControl e lost c) := by
  unfold Desk.releaseControl
  dsimp only
  rw [releaseMarked_eq]
  generalize released : d.setControl c ((d.control c).released lost) = u
  refine andThen (b := u) (released ▸ still) ?_
  split
  · exact takeRun_beginGlide e c u
  · exact still
  · exact takeRun_decideApplied_setControl e c _ u
  · exact takeRun_decideApplied_setControl e c _ u
  · exact .start

/-- No part of a sample event but POS's reaches TAKE other than by TAKE's operations. -/
theorem reached_takeRun : Desk.Reached TakeRun where
  clear _ take := still take
  andThen := andThen
  touch := takeRun_touchControl
  release := takeRun_releaseControl
  surface e c v d := takeRun_decideApplied_setControl e c { d.control c with surface := v } d

/-! ## One tick (R138) -/

theorem takeRun_tickAbort (e : Env) (k : MadeTick) (d : Desk) : TakeRun d (d.tickAbort e k) := by
  unfold Desk.tickAbort
  split
  · have closed := takeRun_closeAll e .abort d
    unfold Desk.fireAbort
    dsimp only
    generalize d.closeAll e .abort = u at closed ⊢
    exact closed
  · exact .start

theorem takeRun_tickWindow (e : Env) (k : MadeTick) (d : Desk) : TakeRun d (d.tickWindow e k) := by
  unfold Desk.tickWindow
  split
  · split
    · exact takeRun_closeAll e _ d
    · exact .start
  · exact .start

theorem take_takePlayback (e : Env) (k : Tick) (c : Fin 176) (d : Desk) : (d.takePlayback e k c).take = d.take := by
  unfold Desk.takePlayback
  split <;> rfl

theorem take_tickGlide (c : Fin 176) (d : Desk) : (d.tickGlide c).take = d.take := by
  unfold Desk.tickGlide
  dsimp only
  split <;> rfl

theorem takeRun_tickPunchIn (e : Env) (k : Tick) (c : Fin 176) (d : Desk) : TakeRun d (d.tickPunchIn e k c) := by
  unfold Desk.tickPunchIn
  split
  · split
    · exact takeRun_openPass c k d
    · exact still
  · exact .start

theorem take_tickApplied (e : Env) (c : Fin 176) (d : Desk) : (d.tickApplied e c).take = d.take := by
  unfold Desk.tickApplied
  dsimp only
  split
  · exact (control_apply e c _ d).1
  · exact take_decideApplied e c d

theorem takeRun_tickMove (e : Env) (k : Tick) (opened : Bool) (c : Fin 176) (d : Desk) :
    TakeRun d (d.tickMove e k opened c) := by
  unfold Desk.tickMove
  dsimp only
  split
  · split
    · exact takeRun_appendMove c k d
    · exact still
  · exact .start

theorem takeRun_tickGlideEnd (e : Env) (c : Fin 176) (d : Desk) : TakeRun d (d.tickGlideEnd e c) := by
  unfold Desk.tickGlideEnd
  split
  · split
    · exact takeRun_closePass e _ c d
    · exact .start
  · exact .start

theorem takeRun_takeTick (e : Env) (k : MadeTick) (d : Desk) : TakeRun d (d.takeTick e k) := by
  have closings : TakeRun d ((d.ageMoves.tickAbort e k).tickWindow e k) :=
    andThen (takeRun_tickAbort e k d.ageMoves) (takeRun_tickWindow e k _)
  have played := andThen closings (.each (fun c d => still (take_takePlayback e k.index c d)) e.liveControls _)
  have counted := andThen played (.each (fun c d => still (take_tickGlide c d)) e.liveControls _)
  have punched := andThen counted (.each (takeRun_tickPunchIn e k.index) e.liveControls _)
  have applied := andThen punched (.each (fun c d => still (take_tickApplied e c d)) e.liveControls _)
  exact andThen (andThen applied (.each (fun c d => takeRun_tickMove e k.index _ c d) e.liveControls _))
    (.each (takeRun_tickGlideEnd e) e.liveControls _)

theorem takeRun_catchUp (e : Env) (k : Tick) (d : Desk) : TakeRun d (d.catchUp e k) :=
  andThen (.each (fun c d => still (take_takePlayback e k c d)) _ d) (.each (takeRun_decideApplied e) _ _)

/-! ## Commands that reach AUTO -/

theorem takeRun_setControlSettings (e : Env) (c : Fin 176) (m : Mode) (safe : Bool) (glide : BitVec 6) (d : Desk) :
    TakeRun d (d.setControlSettings e c m safe glide) := by
  have closed : TakeRun d (d.closedFor e c m safe) := by
    unfold Desk.closedFor
    split
    · exact takeRun_closePass e .mode c d
    · exact .start
  rw [setControlSettings_eq]
  exact andThen closed (takeRun_decideApplied_setControl e c _ _)

theorem takeRun_abortNow (e : Env) (d : Desk) : TakeRun d (d.abortNow e) := by
  have closed := takeRun_closeAll e .abort { d with ev := { d.ev with abort := none } }
  unfold Desk.abortNow
  dsimp only
  generalize Desk.closeAll e .abort _ = u at closed ⊢
  split
  · exact closed
  · exact closed

theorem takeRun_leave (e : Env) (locking : Bool) (d : Desk) : TakeRun d (d.leave e locking) := by
  obtain ⟨a, b, c, ha, hb, hc, whole⟩ := d.leave_parts e locking
  have told : TakeRun d a := by
    rw [ha]
    split <;> exact still
  have closed : TakeRun d b := hb ▸ andThen told (takeRun_closeAll e .left a)
  have homes : TakeRun d c := hc ▸ andThen closed (.each (reached_takeRun.leaveHome e) _ b)
  rw [whole]
  exact andThen homes (.each (f := Desk.leaveReq) (fun _ _ => still) e.requestedBuses c)

/-- R168. -/
theorem take_restart (e : Env) (inserted : Bool) (d : Desk) : (d.restart e inserted).take = Take.reset := by
  have fresh : ∀ (own : SoloBits) (u : Desk), (u.restartSolo own).take = u.take := by
    intro own u
    unfold Desk.restartSolo
    split <;> rfl
  unfold Desk.restart
  dsimp only
  split
  · rw [(clear_queueHoldings e _).take, fresh]
  · rw [fresh]

end Desk

/-! ## The whole state -/

/-- TAKE has come from its state in the earlier state by its own operations. -/
def State.TakeRun (s t : State) : Prop := s.desk.TakeRun t.desk

namespace State

namespace TakeRun

/-- TAKE is as it was. -/
theorem still {s t : State} (take : t.desk.take = s.desk.take := by rfl) : TakeRun s t := Desk.TakeRun.still take

theorem andThen {a b c : State} (h : TakeRun a b) (k : TakeRun b c) : TakeRun a c := Desk.TakeRun.andThen h k

/-- R168. -/
theorem fresh {s t : State} (take : t.desk.take = Take.reset := by rfl) : TakeRun s t := by
  unfold TakeRun Desk.TakeRun
  rw [take]
  exact .reset

end TakeRun

open TakeRun (still andThen)

/-! ### Sample events -/

theorem takeRun_takeTick (k : MadeTick) (s : State) : s.TakeRun (s.takeTick k) := by
  have left : s.desk.TakeRun { s.desk with take := s.desk.take.leavePage (pageOf k.index) } := .leavePage _ .start
  unfold State.takeTick
  dsimp only
  split
  all_goals
    refine Desk.TakeRun.andThen ?_ (Desk.takeRun_takeTick _ k _)
    exact left

theorem takeRun_posPhase (edge : Option FrameNo) (s : State) : s.TakeRun (s.posPhase edge) := by
  have events : ∀ (l : List PosEvent) (u : State), u.TakeRun (l.foldl (fun u v => u.takePosEvent v) u) := by
    intro l
    induction l with
    | nil => exact fun _ => still
    | cons v l ih =>
      have event : ∀ u : State, u.TakeRun (u.takePosEvent v) := fun u => by
        unfold TakeRun
        rw [desk_takePosEvent]
        exact Desk.takeRun_takeEvent u.env v (u.desk.raise v.flag)
      exact fun u => andThen (event u) (ih _)
  have events : s.TakeRun ((s.posOut edge).events.foldl (fun (u : State) v => u.takePosEvent v)
      { s with pos := (s.posOut edge).pos }) := events _ { s with pos := (s.posOut edge).pos }
  rcases hm : (s.posOut edge).made with _ | k
  · rw [posPhase_of_no_tick hm]
    exact events
  · rw [posPhase_of_tick hm]
    exact andThen events (takeRun_takeTick k _)

theorem takeRun_sampled (p : Period) (s : State) : s.TakeRun (s.sampled p) := by
  unfold State.sampled
  split
  · obtain ⟨u, before, behind, _⟩ := sample_around_pos Desk.reached_takeRun p s
    exact andThen before.step.desk (andThen (takeRun_posPhase _ u) behind.step.desk)
  · exact still

theorem takeRun_part {comes : Bool} {act : State → State} {s : State} (h : s.TakeRun (act s)) :
    s.TakeRun (s.part comes act) := by
  unfold State.part
  split
  · exact h
  · exact still

/-! ### LINK and the word clock -/

theorem take_transfer (n : Nat) (s : State) : (s.transfer n).desk.take = s.desk.take := by
  unfold State.transfer
  split <;> rfl

theorem take_overrun (n : Nat) (s : State) : (s.overrun n).desk.take = s.desk.take := take_transfer n _

theorem take_emptyTransfer (n : Nat) (s : State) : (s.emptyTransfer n).desk.take = s.desk.take := by
  unfold State.emptyTransfer
  split
  · rfl
  · exact take_transfer n s

theorem take_formReply (s : State) : s.formReply.desk.take = s.desk.take := by
  unfold State.formReply
  split
  · rfl
  · split <;> rfl

/-- R170, R171, R180: a transfer that carries a message does what its command does, or leaves TAKE alone. -/
theorem takeRun_message {n : Nat} {body : State → Answered} {s : State} (h : s.TakeRun (body s).state) :
    s.TakeRun (s.message n body) := by
  unfold State.message
  split
  · exact still
  · split
    · exact h
    · exact still (take_overrun n s)

theorem takeRun_command {n tail : Nat} {body : State → Answered} {s : State} (h : s.TakeRun (body s).state) :
    s.TakeRun (s.command n tail body) := takeRun_message h

theorem takeRun_configured {k : Byte} {body : Conf → State → Answered} {s : State} (h : ∀ c, s.TakeRun (body c s).state) :
    s.TakeRun (s.configured k body).state := by
  unfold State.configured
  split
  · exact h _
  · exact still

theorem takeRun_reject (ldi : List Bool) (s : State) : s.TakeRun (s.reject ldi) := by
  unfold State.reject
  split
  · exact still
  · split
    · exact takeRun_message still
    · exact still

theorem take_discard (ldi : List Bool) (s : State) : (s.discard ldi).desk.take = s.desk.take := by
  unfold State.discard
  split
  · rfl
  · split
    · exact take_overrun _ s
    · rfl

theorem takeRun_loseClock (s : State) : s.TakeRun s.loseClock := by
  unfold State.loseClock TakeRun
  rw [State.onDesk_desk]
  exact Desk.takeRun_takeEvent _ .clockLost (s.desk.raise .clockLost)

/-! ### The commands -/

theorem take_configure (payload : List Byte) (s : State) : (s.configure payload).state.desk.take = s.desk.take := by
  unfold State.configure
  split
  · rfl
  · split
    · rfl
    · split <;> rfl

theorem takeRun_mapFader (fader form target : Byte) (s : State) : s.TakeRun (s.mapFader fader form target).state := by
  unfold State.mapFader
  split
  · split
    · exact still
    · exact Desk.reached_takeRun.remap _ _ _ _
  · exact still

theorem takeRun_surface (form target : Byte) (value : BitVec 16) (indication : Byte) (s : State) :
    s.TakeRun (s.surface form target value indication).state := by
  have reached := Desk.reached_takeRun
  unfold State.surface
  split
  · split
    · exact reached.andThen (reached.surfaceValue _ _ _ _) (reached.indicate _ _ _ _)
    · exact still
  · exact still

theorem take_countStray (s : State) : s.countStray.desk.take = s.desk.take := by
  unfold State.countStray
  split
  · rfl
  · dsimp only
    split <;> rfl

theorem takeRun_takePage (p : PlayPage) (s : State) : s.TakeRun (s.takePage p) := by
  unfold State.takePage
  dsimp only
  split
  · split
    · exact Desk.takeRun_catchUp _ _ _
    · exact still
  · exact still

theorem takeRun_deliverEffect (r : Delivery) (s : State) : s.TakeRun (s.deliverEffect r) := by
  cases r
  case taken p => exact takeRun_takePage p s
  case stray => exact still (take_countStray s)
  all_goals exact still (take_countStray (s.raise .pageRejected))

end State

/-! ## Every row -/

/-- Every row brings TAKE to its next state by TAKE's own operations. -/
theorem exec_takeRun (i : Instr) (s : State) : ∃ t, exec i s = .next t ∧ s.TakeRun t := by
  have reached := Desk.reached_takeRun
  have command : ∀ {n tail : Nat} {k : Byte} {body : Conf → State → Answered}, (∀ c, s.TakeRun (body c s).state) →
      s.TakeRun (s.command n tail (State.configured k body)) :=
    fun h => State.takeRun_command (State.takeRun_configured h)
  cases i with
  | configure payload tail =>
    refine ⟨_, rfl, State.takeRun_command ?_⟩
    split
    · exact .still (s.take_configure payload)
    · exact .still
  | join => exact ⟨_, rfl, command fun _ => by unfold State.join; split <;> exact .still⟩
  | leave => exact ⟨_, rfl, command fun _ => Desk.takeRun_leave _ _ _⟩
  | route =>
    refine ⟨_, rfl, command fun _ => ?_⟩
    unfold State.route
    split
    · exact .still
    · exact reached.resoloAll s.env (s.desk.setStrip _ _)
  | solo =>
    refine ⟨_, rfl, command fun _ => ?_⟩
    unfold State.solo
    split
    · exact .still
    · exact reached.resoloAll s.env (s.desk.setStrip _ _)
  | touchset =>
    refine ⟨_, rfl, command fun _ => ?_⟩
    unfold State.touchset
    split
    · exact reached.setLineSettings _ _ _ _ _ _
    · exact .still
  | map => exact ⟨_, rfl, command fun _ => s.takeRun_mapFader _ _ _⟩
  | surface => exact ⟨_, rfl, command fun _ => s.takeRun_surface _ _ _ _⟩
  | control =>
    refine ⟨_, rfl, command fun _ => ?_⟩
    unfold State.controlCommand
    split
    · exact .still
    · exact Desk.takeRun_setControlSettings _ _ _ _ _ _
  | window => exact ⟨_, rfl, command fun _ => by unfold State.window; split <;> exact .still⟩
  | abortNow => exact ⟨_, rfl, command fun _ => Desk.takeRun_abortNow _ _⟩
  | abortAtPageEnd => exact ⟨_, rfl, command fun _ => by unfold State.abortAtPageEnd; split <;> exact .still⟩
  | span => exact ⟨_, rfl, command fun _ => by unfold State.setSpan; split <;> exact .still⟩
  | deliver payload tail =>
    refine ⟨_, rfl, State.takeRun_command ?_⟩
    split
    · exact State.takeRun_configured fun _ => s.takeRun_deliverEffect _
    · exact .still
  | take => exact ⟨_, rfl, State.takeRun_command (.collect .start)⟩
  | passes => exact ⟨_, rfl, State.takeRun_command (.drain 8 .start)⟩
  | drives | status | mask => exact ⟨_, rfl, State.takeRun_command .still⟩
  | restart => exact ⟨_, rfl, State.takeRun_command (.fresh (Desk.take_restart _ _ _))⟩
  | format ldi => exact ⟨_, rfl, s.takeRun_reject ldi⟩
  | poll n | replyRead n => exact ⟨_, rfl, .still (s.take_emptyTransfer n)⟩
  | replyFormed => exact ⟨_, rfl, .still s.take_formReply⟩
  | linkOverrun ldi => exact ⟨_, rfl, .still (s.take_discard ldi)⟩
  | hardwareReset => exact ⟨_, rfl, .fresh⟩
  | resetRise strap rate96 =>
    refine ⟨_, rfl, ?_⟩
    split
    · exact .fresh
    · exact .still
  | clockLost =>
    refine ⟨_, rfl, ?_⟩
    split
    · exact .still
    · split
      · exact s.takeRun_loseClock
      · exact .still
  | clockReturn => exact ⟨_, rfl, .still⟩
  | sampleEvent | frameEdge | frameArrival | badFrame | silentSample | tapFrame => exact ⟨_, rfl, s.takeRun_sampled _⟩
  | flywheel | tick | abortFired | glideEnd => exact ⟨_, rfl, State.takeRun_part (s.takeRun_posPhase _)⟩
  | rampEnd r => exact ⟨_, rfl, State.takeRun_part (.still (by cases r <;> rfl))⟩
  | settleEnd | settleRiseEnd => exact ⟨_, rfl, State.takeRun_part .still⟩
  | touchQualified | releaseQualified => exact ⟨_, rfl, State.takeRun_part (reached.lineStep _ _ _ _)⟩
  | ringBreak | tagAdoption | relock | relockComplete | lockPhaseEnd | listenPhaseEnd | firstIn =>
    exact ⟨_, rfl, State.takeRun_part (reached.ringPhase _ _ s.advanceInstant).desk⟩
  | noticeDeadline x => exact ⟨_, rfl, State.takeRun_part (reached.expireFlight x s.advanceInstant).desk⟩
  | holdingsTimer => exact ⟨_, rfl, State.takeRun_part (reached.of_clear (Desk.clear_timerStep _ _))⟩
  | holdingsExpiry => exact ⟨_, rfl, State.takeRun_part (reached.of_clear (Desk.clear_ageOf _ _ _))⟩
  | leaseExpiry => exact ⟨_, rfl, State.takeRun_part (reached.leaseStep _ _ _)⟩
  | keepalive => exact ⟨_, rfl, State.takeRun_part (reached.of_clear (Desk.clear_keepaliveStep _ _))⟩

end Sys2Proof.Machine
end

section
/-!
What the command TAKE comes to (R163), and what AUTO does with the fate of a move (R131, R161, R162).
-/

set_option Elab.async false

namespace Sys2Proof.Machine

/-! ## The command TAKE -/

/-- R163: what a TAKE comes to in READY. -/
theorem State.exec_take {s : State} {x : Option TakePage} {u : Take} (ready : s.ready) (tail : Nat)
    (h : s.desk.take.collect = (x, u)) : exec (.take tail) s = .next (State.taken 0 tail
      (.done 0x10 (takeData u.order.length x)) { s with desk := { s.desk with take := u } }) := by
  refine congrArg Host.Outcome.next ((State.command_of_ready ready _ _ _).trans ?_)
  unfold State.takeCommand
  rw [h]
  rfl

/-- 11.6: the bytes of a take page and of the number that remain. -/
theorem takeData_some (n : Nat) (p : TakePage) : takeData n (some p) = [BitVec.ofNat 8 n, 1] ++ bytesOf 3 p.page.toNat ++
    [if p.truncated then 1 else 0] ++ bytesOf 2 p.moves.length ++ p.moves.flatMap moveBytes := by
  have flag : ∀ b : Bool, bytesOf 1 (bit b 0) = [if b then 1 else 0] := by decide
  rw [← flag]
  rfl

/-! ## The fate of a move (R125, R131, R161, R162) -/

/-- R161, R162: the flag that a move dropped raises. -/
def MoveFate.dropFlag : MoveFate → Option Flag
  | .kept => none
  | .truncated => some .takeTruncated
  | .overrun => some .takeOverrun

namespace Desk

variable {d : Desk} {c : Fin 176} {k : Tick} {x : Take} {r : MoveFate}

theorem appendMove_of_kept (fate : d.take.accept k c (d.control c).applied = (x, .kept)) :
    d.appendMove c k = { d.setControl c ((d.control c).movedTo k) with take := x } := by
  unfold Desk.appendMove
  dsimp only
  rw [setControl_take, fate]
  rfl

/-- R161, R162: a move dropped marks every open pass, and raises its flag. -/
theorem appendMove_of_dropped {f : Flag} (fate : d.take.accept k c (d.control c).applied = (x, r))
    (dropped : r.dropFlag = some f) : d.appendMove c k = Desk.raise f
      { d.setControl c ((d.control c).movedTo k) with
        take := x, auto := (d.setControl c ((d.control c).movedTo k)).auto.markDamaged } := by
  unfold Desk.appendMove
  dsimp only
  rw [setControl_take, fate]
  cases r
  case kept => cases dropped
  all_goals
    cases dropped
    rfl

theorem openPass_movedTo (c j : Fin 176) (k : Tick) (d : Desk) :
    ((d.setControl c ((d.control c).movedTo k)).control j).openPass = (d.control j).openPass := by
  rw [control_setControl]
  split
  · next here => rw [here]; rfl
  · rfl

/-- R131: every open pass is DAMAGED, and the flag is set. -/
theorem damaged_of_dropped {f : Flag} (fate : d.take.accept k c (d.control c).applied = (x, r))
    (dropped : r.dropFlag = some f) :
    (∀ j, ((d.appendMove c k).control j).openPass = (d.control j).openPass.map fun p => { p with damaged := true }) ∧
      (d.appendMove c k).flag f = true := by
  rw [appendMove_of_dropped fate dropped]
  refine ⟨fun j => ?_, by simp⟩
  rw [control_damaged, ← openPass_movedTo c j k d]
  simp [Control.damagedIf]

end Desk

/-- R157: every step keeps slots and closing order consistent. -/
theorem step_keeps_take {s t : State} (wf : s.desk.take.wf) (run : step s = .next t) : t.desk.take.wf := by
  unfold step at run
  split at run
  · cases run
    exact wf
  · next c rest _ =>
    obtain ⟨u, next, moved⟩ := exec_takeRun c { s with pending := rest }
    rw [next] at run
    cases run
    exact moved.wf wf

end Sys2Proof.Machine

open Sys2Proof Sys2Proof.Machine

/-- Settles O59: the commands by the closing order, a move by where its page stands, and every step by what TAKE's operations
keep (`exec_takeRun`). -/
theorem takePages : Obligations.TakePages := by
  refine ⟨fun tail s ready => ⟨fun none_closed => ?_, fun i rest p order closed => ?_⟩,
    fun m l sorted fresh => ⟨pairwise_insertMove sorted fresh, insertMove_perm m l⟩,
    fun t k c v n m wf page move => ?_, fun d u c k x r fate result => ?_, fun t n wf => ⟨fun none_open => ?_, ?_, ?_⟩,
    fun s t wf run => step_keeps_take wf run⟩
  · rw [State.exec_take ready tail (Take.collect_of_nil none_closed), none_closed]
    rfl
  · rw [State.exec_take ready tail (Take.collect_of_closed order closed), takeData_some]
  · obtain rfl : n = pageOf k := page.trans (pageOf_eq k).symm
    obtain rfl : m = Take.moveAt k c v := by rw [move, Take.moveAt, offsetOf_eq]
    refine ⟨Take.accept_of_lost, fun i p lost opened same => ?_, fun t1 lost other before => ?_⟩
    · rw [Take.accept_of_open? lost (Take.open?_of_opened wf opened) same]
      exact ⟨fun few => if_pos few, fun full => if_neg (Nat.not_lt.mpr full)⟩
    · have closed : ({ t with lost := none } : Take).closeOpen = t1 := by
        rcases before with ⟨none_open, rfl⟩ | ⟨i, p, opened, rfl⟩
        · exact Take.closeOpen_of_noneOpen none_open
        · exact Take.closeOpen_of_open? (Take.open?_of_opened wf opened)
      rw [Take.accept_elsewhere lost other, closed]
      exact ⟨fun j free lowest => Take.openFor_of_free? (Take.free?_of_lowest free lowest),
        fun full => Take.openFor_of_full (Take.free?_of_full full)⟩
  · subst result
    refine ⟨by rw [Desk.take_appendMove, fate], fun kept => ?_, fun dropped => ?_⟩
    · subst kept
      rw [Desk.appendMove_of_kept fate]
      exact ⟨rfl, fun j => Desk.openPass_movedTo c j k d⟩
    · cases r
      case kept => exact absurd rfl dropped
      case truncated =>
        obtain ⟨damaged, flag⟩ := Desk.damaged_of_dropped fate rfl
        exact ⟨damaged, nofun, fun _ => flag⟩
      case overrun =>
        obtain ⟨damaged, flag⟩ := Desk.damaged_of_dropped fate rfl
        exact ⟨damaged, fun _ => flag, nofun⟩
  · rw [Take.leavePage_eq, Take.closeOther_of_noneOpen none_open]
    exact ⟨rfl, rfl, Take.lastPassClosed_of_noneOpen none_open⟩
  · intro i p opened
    have found := Take.open?_of_opened wf opened
    rw [Take.leavePage_eq, Take.closeOther_of_open? found]
    refine ⟨Take.lastPassClosed_of_open? found, fun same => ?_, fun other => ?_⟩
    · rw [if_pos same]
      exact ⟨rfl, rfl⟩
    · rw [if_neg other, Take.closeOpen_of_open? found]
      exact ⟨rfl, rfl⟩
  · rw [Take.leavePage_eq]
end

section
/-!
What the command PASSES comes to (R166).
-/

set_option Elab.async false

namespace Sys2Proof.Machine

/-- 11.3: the numbers of records that remain and that leave. -/
theorem passesData_eq (l : List PassRecord) : passesData l =
    bytesOf 1 (l.length - 8) ++ bytesOf 1 (min 8 l.length) ++ (l.take 8).flatMap PassRecord.bytes := by
  unfold passesData
  rw [List.length_drop, List.length_take]

/-- R166: what a PASSES comes to in READY. -/
theorem State.exec_passes {s : State} (ready : s.ready) (tail : Nat) :
    exec (.passes tail) s = .next (State.taken 0 tail (.done 0x11 (passesData s.desk.take.queue))
      { s with desk := { s.desk with take := { s.desk.take with queue := s.desk.take.queue.drop 8 } } }) :=
  congrArg Host.Outcome.next (State.command_of_ready ready _ _ _)

end Sys2Proof.Machine

open Sys2Proof Sys2Proof.Machine

/-- Settles O60: the records by their numbers (11.3). -/
theorem passesResult : Obligations.PassesResult := by
  intro tail s ready
  rw [State.exec_passes ready, passesData_eq]
end

section
/-!
LINK's transfers (R169 to R172, section 10.4): what a transfer shows on LDO and reads of a held reply, what a message comes to
out of READY, and which commands LINK itself refuses.
-/

set_option Elab.async false

namespace Sys2Proof.Machine

/-! ## What LDO carries (R170) -/

theorem length_heldBits (r : Reply) (free n : Nat) : (heldBits r free n).length = n := by
  simp only [heldBits, List.length_take, List.length_append, length_bitsOf, List.length_map, List.length_range]
  omega

/-- R170: a transfer of enough bits carries the whole reply from its first bit. -/
theorem take_heldBits {r : Reply} {n : Nat} (whole : 8 * r.bytes.length ≤ n) (free : Nat) :
    (heldBits r free n).take (8 * r.bytes.length) = bitsOf r.bytes := by
  rw [heldBits, List.take_take, Nat.min_eq_left whole]
  exact List.take_left' (length_bitsOf r.bytes)

/-- R170: a shorter transfer carries the reply's first bits alone. -/
theorem heldBits_of_short {r : Reply} {n : Nat} (short : n < 8 * r.bytes.length) (free : Nat) :
    heldBits r free n = (bitsOf r.bytes).take n :=
  List.take_append_of_le_length (by rw [length_bitsOf]; exact short.le)

namespace State

variable {s : State} {n : Nat}

/-! ## Transfers without a command -/

theorem transfer_of_held {r : Reply} (held : s.link.state = .held r) : s.transfer n = s.present r n := by
  unfold State.transfer
  rw [held]

theorem transfer_of_not_held (h : ∀ r, s.link.state ≠ .held r) : s.transfer n = s.idle n := by
  unfold State.transfer
  split
  · next r held => exact absurd held (h r)
  · rfl

/-- R170: a transfer presents a held reply, and reads it when it clocks the whole of it. -/
theorem presented_transfer (n : Nat) (s : State) : Presented n s (s.transfer n) := by
  by_cases h : ∃ r, s.link.state = .held r
  · obtain ⟨r, held⟩ := h
    rw [transfer_of_held held]
    refine ⟨length_heldBits r s.free n, fun q hq whole => ?_, fun q hq short => ?_, fun none => absurd held (none r)⟩
    all_goals obtain rfl : r = q := LinkState.held.inj (held.symm.trans hq)
    · refine ⟨?_, take_heldBits whole s.free⟩
      unfold State.present
      rw [if_pos whole]
    · refine ⟨?_, heldBits_of_short short s.free⟩
      unfold State.present
      rw [if_neg (Nat.not_le.mpr short)]
      exact held
  · have none : ∀ r, s.link.state ≠ .held r := fun r held => h ⟨r, held⟩
    rw [transfer_of_not_held none]
    exact ⟨List.length_replicate, fun q hq => absurd hq (none q), fun q hq => absurd hq (none q),
      fun _ => ⟨rfl, rfl⟩⟩

/-- R170: a transfer reaches the link state, LDO and the counter of free values alone. -/
theorem transfer_frame (n : Nat) (s : State) : s.transfer n = { s with
    link := { s.link with state := (s.transfer n).link.state },
    ldo := (s.transfer n).ldo, free := (s.transfer n).free } := by
  by_cases h : ∃ r, s.link.state = .held r
  · obtain ⟨r, held⟩ := h
    rw [transfer_of_held held]
    unfold State.present
    split <;> rfl
  · rw [transfer_of_not_held fun r held => h ⟨r, held⟩]
    rfl

theorem emptyTransfer_of_live (live : s.resetLow = false) : s.emptyTransfer n = s.transfer n := by
  unfold State.emptyTransfer
  rw [live]
  rfl

/-! ## Messages (R170, R171) -/

theorem message_of_ready (ready : s.ready) (n : Nat) (body : State → Answered) : s.message n body = { (body s).state with
    link := { (body s).state.link with state := .working (body s).reply }, ldo := idleBits n } := by
  obtain ⟨live, free⟩ := ready
  unfold State.message
  rw [live, if_neg Bool.false_ne_true]
  split
  · rfl
  · next busy => exact absurd free busy

/-- R171: a message out of READY raises LINK_OVERRUN and the count, and its transfer presents as one
without a message does. -/
theorem overrun_frame (n : Nat) (s : State) : Presented n s (s.overrun n) ∧ s.overrun n = { s with
    desk := s.desk.raise .linkOverrun, ldo := (s.overrun n).ldo, free := (s.overrun n).free,
    link := { s.link with state := (s.overrun n).link.state, overruns := countUp s.link.overruns } } := by
  unfold State.overrun
  dsimp only
  exact ⟨presented_transfer n (State.raise .linkOverrun { s with link := { s.link with overruns := countUp s.link.overruns } }),
    transfer_frame n _⟩

theorem discard_of_message {ldi : List Bool} (carries : carriesMessage ldi = true) (live : s.resetLow = false)
    (busy : s.link.state ≠ .ready) : s.discard ldi = s.overrun ldi.length := by
  unfold State.discard
  rw [live, if_neg Bool.false_ne_true, if_pos ⟨carries, busy⟩]

/-! ## The twenty commands -/

theorem configured_of_none (h : s.conf = none) (k : Byte) (body : Conf → State → Answered) :
    s.configured k body = s.refuse k .state := by
  unfold State.configured
  rw [h]

end State

/-- The kinds of the commands that are taken while UNCONFIGURED: CONFIGURE, DRIVES, TAKE, PASSES, STATUS, MASK, RESTART
(section 10.4). -/
def kindsTakenUnconfigured : List Byte := [0x01, 0x09, 0x10, 0x11, 0x12, 0x13, 0x14]

/-- Every command is a transfer of its own message and the bits after it, and what LINK hands it to refuses with STATE while
UNCONFIGURED, but for the seven (R169, section 10.4). -/
theorem exec_of_payload {i : Instr} {k : Byte} {p : List Byte} (h : payloadOf i = some (k, p)) :
    ∃ body : State → Answered, (∀ s, exec i s = .next (s.command p.length (tailOf i) body)) ∧
      (WellFormed i = true → k ∉ kindsTakenUnconfigured → ∀ s : State, s.conf = none → body s = s.refuse k .state) := by
  cases i with
  | configure | drives | take | passes | status | mask | restart =>
    cases h
    exact ⟨_, fun _ => rfl, fun _ refused => absurd (by decide) refused⟩
  | deliver payload tail =>
    cases h
    exact ⟨_, fun _ => rfl, fun wf _ _ conf => (if_pos wf).trans (State.configured_of_none conf _ _)⟩
  | join | leave | route | solo | touchset | map | surface | control | window | abortNow | abortAtPageEnd | span =>
    cases h
    exact ⟨_, fun _ => rfl, fun _ _ _ conf => State.configured_of_none conf _ _⟩
  | _ => cases h

/-- R171, R172: a count stops at 65,535. -/
theorem toNat_countUp (c : BitVec 16) : (countUp c).toNat = min (c.toNat + 1) 65535 := by
  unfold countUp
  split
  · next full => rw [full]; rfl
  · next few =>
    have below : c.toNat ≠ 65535 := fun e => few (BitVec.eq_of_toNat_eq e)
    have range := c.isLt
    have next : (c + 1).toNat = c.toNat + 1 :=
      (BitVec.toNat_add c 1).trans (Nat.mod_eq_of_lt (show c.toNat + 1 < 2 ^ 16 by omega))
    omega

/-! ## A message that fails LINK's tests (R172) -/

theorem carriesMessage_of_head {ldi : List Bool} {k : Byte} (first : (bytesIn ldi).head? = some k) (idle : k ≠ 0xFF) :
    carriesMessage ldi = true := by
  obtain ⟨rest, split⟩ := List.head?_eq_some_iff.mp first
  unfold carriesMessage
  rw [split]
  exact bne_iff_ne.mpr idle

theorem State.reject_of_failed {s : State} {ldi : List Bool} {k : Byte} (ready : s.ready)
    (first : (bytesIn ldi).head? = some k) (idle : k ≠ 0xFF) (failed : decodeTransfer ldi = none) :
    s.reject ldi = { s with
      link := { s.link with formats := countUp s.link.formats, state := .working (.refused k .format) },
      ldo := idleBits ldi.length } := by
  have kind : (bytesIn ldi).headD 0 = k := by rw [List.headD_eq_head?_getD, first]; rfl
  have carries := carriesMessage_of_head first idle
  unfold State.reject
  rw [if_neg (Bool.eq_false_iff.mp ready.1), if_pos ⟨carries, failed⟩, kind]
  exact State.message_of_ready ready _ _

end Sys2Proof.Machine

open Sys2Proof Sys2Proof.Machine

/-- Settles O6: the commands and LINK_OVERRUN alike come to an overrun (`State.overrun_frame`). -/
theorem overrunDiscardsTheMessage : Obligations.OverrunDiscardsTheMessage := by
  refine ⟨fun i k p s payload live busy => ?_, fun ldi s carries live busy => ?_, fun d => by simp, toNat_countUp⟩
  · obtain ⟨body, run, _⟩ := exec_of_payload payload
    exact ⟨_, (run s).trans (congrArg _ (State.command_of_not_ready live busy _ _ body)), State.overrun_frame _ s⟩
  · exact ⟨_, congrArg Host.Outcome.next (State.discard_of_message carries live busy), State.overrun_frame _ s⟩

/-- Settles O7: a transfer presents whatever row it is, and the reply formed is the one prepared. -/
theorem transfersWithoutMessage : Obligations.TransfersWithoutMessage := by
  refine ⟨fun n c s row live => ?_, fun r s live working => ?_⟩
  · have frame := State.transfer_frame n s
    have run : exec c s = .next (s.transfer n) := by
      rw [← State.emptyTransfer_of_live live]
      rcases row with rfl | rfl <;> rfl
    have link := congrArg State.link frame
    refine ⟨_, run, State.presented_transfer n s, ?_, link⟩
    unfold SameButLink
    rw [link]
    exact frame
  · refine congrArg Host.Outcome.next ?_
    unfold State.formReply
    rw [live, working]
    rfl

/-- Settles O8: FORMAT by the transfer's first byte, STATE by what every command but the seven is handed to. -/
theorem refusedByLinkOrWhileUnconfigured : Obligations.RefusedByLinkOrWhileUnconfigured := by
  refine ⟨fun k ldi s ready first idle failed => ?_, fun i k p s wf payload ready conf refused => ?_⟩
  · exact congrArg Host.Outcome.next (State.reject_of_failed ready first idle failed)
  · obtain ⟨body, run, refuses⟩ := exec_of_payload payload
    rw [run, State.command_of_ready ready, refuses wf refused s conf]
    rfl

/-- Settles O9: the mask by its 22 low bits. -/
theorem maskResult : Obligations.MaskResult := by
  intro m tail s ready
  refine congrArg Host.Outcome.next ((State.command_of_ready ready _ _ _).trans ?_)
  have bits : (m.setWidth 22).toNat = m.toNat % 2 ^ 22 := BitVec.toNat_setWidth 22 m
  have mask : m.setWidth 22 = BitVec.ofNat 22 m.toNat := BitVec.eq_of_toNat_eq (by rw [bits, BitVec.toNat_ofNat])
  unfold State.setMask
  rw [bits, mask]
  rfl
end

section
/-!
The RESET line (R180, R18): the values it leaves, and what every row does while it is low.
-/

set_option Elab.async false

namespace Sys2Proof.Machine

namespace State

variable {s : State}

/-! ## Rows while RESET is low -/

theorem live_of_reset (low : s.resetLow = true) : s.live = false := by
  unfold State.live
  rw [low]
  rfl

theorem sampled_of_reset (low : s.resetLow = true) (p : Period) : s.sampled p = s :=
  if_neg (by simp [live_of_reset low])

theorem part_of_reset (low : s.resetLow = true) (comes : Bool) (act : State → State) : s.part comes act = s :=
  if_neg (by simp [live_of_reset low])

theorem latn_of_reset (low : s.resetLow = true) : s.latn = false := by
  unfold State.latn
  rw [low]
  rfl

end State

/-- R169: the rows that clock bits: those that carry bits or a number of them, and those that carry a command's message. -/
theorem row_of_clocked {c : Instr} {n : Nat} (clocked : clockedOf c = some n) :
    (∃ ldi, (c = .format ldi ∨ c = .linkOverrun ldi) ∧ n = ldi.length) ∨ (c = .poll n ∨ c = .replyRead n) ∨
      ∃ k p, payloadOf c = some (k, p) ∧ n = 8 * (5 + p.length) + tailOf c := by
  have command : (payloadOf c).map (fun x => 8 * (5 + x.2.length) + tailOf c) = some n →
      ∃ k p, payloadOf c = some (k, p) ∧ n = 8 * (5 + p.length) + tailOf c := fun h =>
    have ⟨(k, p), payload, length⟩ := Option.map_eq_some_iff.mp h
    ⟨k, p, payload, length.symm⟩
  cases c with
  | format ldi => exact .inl ⟨ldi, .inl rfl, (Option.some.inj clocked).symm⟩
  | linkOverrun ldi => exact .inl ⟨ldi, .inr rfl, (Option.some.inj clocked).symm⟩
  | poll m => exact .inr (.inl (.inl (congrArg Instr.poll (Option.some.inj clocked))))
  | replyRead m => exact .inr (.inl (.inr (congrArg Instr.replyRead (Option.some.inj clocked))))
  | _ => exact .inr (.inr (command clocked))

/-- R180: while RESET is low a transfer presents the idle pattern and does nothing else. -/
theorem exec_transfer_of_reset {c : Instr} {n : Nat} {s : State} (low : s.resetLow = true) (clocked : clockedOf c = some n) :
    exec c s = .next { s with ldo := idleBits n } := by
  obtain ⟨ldi, rfl | rfl, rfl⟩ | (rfl | rfl) | ⟨k, p, payload, rfl⟩ := row_of_clocked clocked
  case inr.inr =>
    obtain ⟨body, run, _⟩ := exec_of_payload payload
    rw [run, State.command_of_reset low]
  all_goals exact congrArg Host.Outcome.next (if_pos low)

/-- R180: while RESET is low no event but its rise and a change of the word clock does anything. -/
theorem exec_event_of_reset {c : Instr} {s : State} (low : s.resetLow = true) (event : clockedOf c = none)
    (fall : c ≠ .hardwareReset) (rise : ∀ x r, c ≠ .resetRise x r) (lost : c ≠ .clockLost) (back : c ≠ .clockReturn) :
    exec c s = .next s := by
  cases c with
  | hardwareReset => exact absurd rfl fall
  | resetRise x r => exact absurd rfl (rise x r)
  | clockLost => exact absurd rfl lost
  | clockReturn => exact absurd rfl back
  | replyFormed => exact congrArg Host.Outcome.next (if_pos low)
  | sampleEvent | frameEdge | frameArrival | badFrame | silentSample | tapFrame =>
    exact congrArg Host.Outcome.next (State.sampled_of_reset low _)
  | flywheel | tick | abortFired | glideEnd | rampEnd | settleEnd | settleRiseEnd | touchQualified | releaseQualified
  | ringBreak | tagAdoption | relock | relockComplete | lockPhaseEnd | listenPhaseEnd | firstIn | noticeDeadline
  | holdingsTimer | holdingsExpiry | leaseExpiry | keepalive =>
    exact congrArg Host.Outcome.next (State.part_of_reset low _ _)
  | _ => cases event

/-! ## The values that a hardware reset leaves -/

/-- R178: no cause of LATN holds at the reset values. -/
theorem State.causes_of_reset {s : State} (desk : s.desk = Desk.reset) (link : s.link = Link.reset)
    (play : s.play = Play.reset) : s.causes = List.replicate 6 false := by
  unfold State.causes
  rw [desk, link, play]
  decide

theorem State.latn_rise (x : BitVec 5) (r : Bool) (s : State) : (s.rise x r).latn = false := by
  unfold State.latn
  rw [State.causes_of_reset rfl rfl rfl]
  rfl

end Sys2Proof.Machine

open Sys2Proof Sys2Proof.Machine

/-- Settles O14: the fall and the rise by the values they write, the rows between by what they carry. -/
theorem hardwareReset : Obligations.HardwareReset := by
  refine ⟨fun s => ?_, fun x r s low => ?_, fun c n s low clocked => exec_transfer_of_reset low clocked,
    fun c s low event fall rise lost back => exec_event_of_reset low event fall rise lost back⟩
  · exact ⟨s.hold, rfl, rfl, rfl, State.latn_of_reset rfl, rfl, rfl, rfl, rfl, rfl, rfl, rfl, rfl, rfl⟩
  · have run : exec (.resetRise x r) s = .next (s.rise x r) := congrArg Host.Outcome.next (if_pos low)
    exact ⟨_, run, rfl, rfl, rfl, rfl, State.latn_rise x r s, rfl, rfl, rfl, rfl, rfl, rfl, rfl, rfl, rfl⟩
end

section
/-!
The messages of the Bay Link (R169, R172, 11.3): a command's message is read back as the command, and nothing else is.
-/

set_option Elab.async false

namespace Sys2Proof.Machine

/-! ## Fields -/

/-- The bytes of the number that a field's bytes hold are those bytes. -/
theorem bytesOf_fieldOf {n : Nat} {bs : List Byte} (length : bs.length = n) (w : Nat) (wide : 2 ^ w = 256 ^ n) :
    bytesOf n (fieldOf w bs).toNat = bs := by
  subst length
  rw [fieldOf, BitVec.toNat_ofNat, wide, Nat.mod_eq_of_lt (numberOf_lt bs), bytesOf_numberOf]

/-! ## The message at the front of a transfer (R172 tests 1 and 2) -/

theorem message_eq (k : Byte) (p : List Byte) :
    message k p = k :: (bytesOf 2 p.length ++ p ++ bytesOf 2 (messageCheck k p).toNat) := by
  simp [message, messageCheck]

/-- R172: a payload of at most 65,535 bytes is found again behind its length, and the check behind the payload. -/
theorem splitMessage_message {p : List Byte} (short : p.length < 65536) (k : Byte) (rest : List Byte) :
    splitMessage (message k p ++ rest) = some (k, p, messageCheck k p) := by
  have length : numberOf (bytesOf 2 p.length) = p.length := (numberOf_bytesOf 2 _).trans (Nat.mod_eq_of_lt short)
  have check := fieldOf_bytesOf 2 (messageCheck k p) (by decide)
  rw [message_eq]
  generalize messageCheck k p = c at check ⊢
  rw [bytesOf_two p.length] at length ⊢
  unfold splitMessage
  simp only [List.cons_append, List.nil_append, List.append_assoc]
  rw [length]
  have fits : p.length + 2 ≤ (p ++ (bytesOf 2 c.toNat ++ rest)).length := by simp
  have field : (bytesOf 2 c.toNat ++ rest).take 2 = bytesOf 2 c.toNat := List.take_left' (length_bytesOf 2 _)
  rw [if_pos fits, List.take_left, List.drop_left, field, check]

/-- R172: what is found stands in the transfer, kind, length, payload and check, whatever follows. -/
theorem bytes_of_splitMessage {bs p : List Byte} {k : Byte} {c : BitVec 16} (h : splitMessage bs = some (k, p, c)) :
    ∃ rest, bs = k :: (bytesOf 2 p.length ++ p ++ bytesOf 2 c.toNat) ++ rest := by
  unfold splitMessage at h
  split at h
  · next kind l1 l0 rest =>
    dsimp only at h
    have lengthBytes : bytesOf 2 (numberOf [l1, l0]) = [l1, l0] := bytesOf_numberOf [l1, l0]
    generalize numberOf [l1, l0] = n at h lengthBytes
    split at h
    · next fits =>
      cases h
      have length : (rest.take n).length = n := List.length_take_of_le (by omega)
      have check : bytesOf 2 (fieldOf 16 ((rest.drop n).take 2)).toNat = (rest.drop n).take 2 :=
        bytesOf_fieldOf (by rw [List.length_take, List.length_drop]; omega) 16 rfl
      refine ⟨(rest.drop n).drop 2, ?_⟩
      rw [length, lengthBytes, check]
      simp
    · cases h
  · cases h

/-! ## The payload (R172 tests 3 and 4, 11.3) -/

/-- R169: a well-formed command's payload has a length that two bytes hold. -/
theorem length_payload_lt {i : Instr} {k : Byte} {p : List Byte} (h : payloadOf i = some (k, p)) (wf : WellFormed i = true) :
    p.length < 65536 := by
  cases i with
  | configure payload tail =>
    cases h
    have bounds : 2 ≤ p.length ∧ p.length ≤ 98 := by simpa [WellFormed, configureLength] using wf
    omega
  | deliver payload tail =>
    cases h
    have bounds : 8 ≤ p.length ∧ p.length ≤ 6680 := by simpa [WellFormed, deliverLength] using wf
    omega
  | _ => cases h <;> simp

/-- A well-formed command's payload is read back as the command, whichever it is (`Laws.Message`). -/
theorem decodePayload_payloadOf (i : Instr) : Laws.Message.Statement i := by
  cases i with
  | configure => exact Laws.Message.configure _ _
  | join => exact Laws.Message.join _
  | leave => exact Laws.Message.leave _
  | route => exact Laws.Message.route _ _ _ _ _ _ _ _ _
  | solo => exact Laws.Message.solo _ _ _
  | touchset => exact Laws.Message.touchset _ _ _ _
  | map => exact Laws.Message.map _ _ _ _
  | surface => exact Laws.Message.surface _ _ _ _ _
  | drives => exact Laws.Message.drives _
  | control => exact Laws.Message.control _ _ _ _ _
  | window => exact Laws.Message.window _ _ _ _
  | abortNow => exact Laws.Message.abortNow _
  | abortAtPageEnd => exact Laws.Message.abortAtPageEnd _
  | span => exact Laws.Message.span _ _ _ _
  | deliver => exact Laws.Message.deliver _ _
  | take => exact Laws.Message.take _
  | passes => exact Laws.Message.passes _
  | status => exact Laws.Message.status _
  | mask => exact Laws.Message.mask _ _
  | restart => exact Laws.Message.restart _
  | _ => exact fun _ _ h => nomatch h

/-- What a payload is read as is a command of that kind and payload, with the bits after it as given. -/
theorem payloadOf_decodePayload {tail : Nat} {k : Byte} {p : List Byte} {i : Instr} (h : decodePayload tail k p = some i) :
    WellFormed i = true ∧ payloadOf i = some (k, p) ∧ tailOf i = tail := by
  have field2 : ∀ a b : Byte, bytesOf 2 (fieldOf 16 [a, b]).toNat = [a, b] := fun a b =>
    bytesOf_fieldOf (n := 2) rfl 16 (by decide)
  have field3 : ∀ a b c : Byte, bytesOf 3 (fieldOf 24 [a, b, c]).toNat = [a, b, c] := fun a b c =>
    bytesOf_fieldOf (n := 3) rfl 24 (by decide)
  have field4 : ∀ a b c d : Byte, bytesOf 4 (fieldOf 32 [a, b, c, d]).toNat = [a, b, c, d] := fun a b c d =>
    bytesOf_fieldOf (n := 4) rfl 32 (by decide)
  obtain ⟨n, is⟩ : ∃ n, k.toNat = n := ⟨_, rfl⟩
  have kind : k = BitVec.ofNat 8 n := by rw [← is, BitVec.ofNat_toNat]; rfl
  unfold decodePayload at h
  split at h
  · next isKind =>
    split at h
    · next wf => cases h; exact ⟨wf, by rw [isKind]; rfl, rfl⟩
    · cases h
  · split at h
    · next isKind =>
      split at h
      · next wf => cases h; exact ⟨wf, by rw [isKind]; rfl, rfl⟩
      · cases h
    · rw [is] at h
      subst kind
      match n, p, h with
      | 0x02, [], h | 0x03, [], h | 0x09, [], h | 0x0C, [], h | 0x0D, [], h | 0x10, [], h | 0x11, [], h | 0x12, [], h
      | 0x14, [], h | 0x05, [_, _], h | 0x06, [_, _, _], h | 0x07, [_, _, _], h | 0x0A, [_, _, _, _], h
      | 0x04, [_, _, _, _, _, _, _, _], h => cases h; exact ⟨rfl, rfl, rfl⟩
      | 0x08, [_, _, _, _, _], h => cases h; exact ⟨rfl, by rw [payloadOf, field2]; rfl, rfl⟩
      | 0x0B, [_, _, _, _, _, _, _, _, _], h => cases h; exact ⟨rfl, by rw [payloadOf, field4, field4]; rfl, rfl⟩
      | 0x0E, [_, _, _, _, _, _, _], h => cases h; exact ⟨rfl, by rw [payloadOf, field3, field3]; rfl, rfl⟩
      | 0x13, [_, _, _], h => cases h; exact ⟨rfl, by rw [payloadOf, field3]; rfl, rfl⟩
      | _ + 0x15, _, h => cases h

/-! ## Transfers (R169, R172) -/

/-- R172: a transfer passes LINK's first two tests exactly where a message with the right check stands at its front; the bits
behind it are ignored but for their number. -/
theorem decodeTransfer_message {k : Byte} {p : List Byte} (short : p.length < 65536) (extra : List Bool) :
    decodeTransfer (bitsOf (message k p) ++ extra) = decodePayload extra.length k p := by
  have behind : (bitsOf (message k p) ++ extra).length - 8 * (5 + p.length) = extra.length := by
    rw [List.length_append, length_bitsOf, length_message]
    omega
  unfold decodeTransfer
  rw [bytesIn_bitsOf, splitMessage_message short]
  dsimp only
  rw [if_pos rfl, behind]

/-- R172: a transfer that is read as a command begins with a message of right check, whose payload is read as the command. -/
theorem message_of_decodeTransfer {ldi : List Bool} {i : Instr} (h : decodeTransfer ldi = some i) :
    ∃ k p extra, ldi = bitsOf (message k p) ++ extra ∧ decodePayload extra.length k p = some i := by
  unfold decodeTransfer at h
  split at h
  · next k p check found =>
    split at h
    · next right =>
      obtain ⟨rest, bytes⟩ := bytes_of_splitMessage found
      rw [← right, ← message_eq] at bytes
      have inside : 8 * (message k p).length ≤ ldi.length := by
        have whole := length_bytesIn ldi
        rw [bytes, List.length_append] at whole
        omega
      have front : ldi.take (8 * (message k p).length) = bitsOf (message k p) := by
        have bits := bitsOf_bytesIn ldi
        rw [bytes, bitsOf_append, List.length_append] at bits
        have taken := congrArg (List.take (8 * (message k p).length)) bits
        rw [List.take_left' (length_bitsOf _), List.take_take, Nat.min_eq_left (by omega)] at taken
        exact taken.symm
      refine ⟨k, p, ldi.drop (8 * (message k p).length), ?_, ?_⟩
      · rw [← front, List.take_append_drop]
      · rw [List.length_drop, length_message]
        exact h
    · cases h
  · cases h

end Sys2Proof.Machine

open Sys2Proof Sys2Proof.Machine

/-- Settles O3: the message is found at the front (`decodeTransfer_message`), and its payload is read back. -/
theorem messageRoundTrip : Obligations.MessageRoundTrip := by
  intro i m extra wf encoded tail
  obtain ⟨⟨k, p⟩, payload, rfl⟩ := Option.map_eq_some_iff.mp encoded
  rw [decodeTransfer_message (length_payload_lt payload wf), tail]
  exact decodePayload_payloadOf i k p payload wf

/-- Settles O4: the converse, by what stands at the front of a transfer and what its payload is read as. -/
theorem onlyMessagesDecode : Obligations.OnlyMessagesDecode := by
  intro ldi i decoded
  obtain ⟨k, p, extra, bits, read⟩ := message_of_decodeTransfer decoded
  obtain ⟨wf, payload, tail⟩ := payloadOf_decodePayload read
  exact ⟨wf, message k p, extra, congrArg (Option.map _) payload, bits, tail.symm⟩
end

section
/-!
The status record (R175, 11.7) and the attention causes (R178).
-/

set_option Elab.async false

namespace Sys2Proof.Machine

/-! ## The fields of the status record (11.7) -/

@[simp] theorem length_tickBytes (t : Option Tick) : (tickBytes t).length = 4 := length_bytesOf 4 _

@[simp] theorem length_pageBytes (p : Option Page) : (pageBytes p).length = 3 := length_bytesOf 3 _

/-- A list of fields of one size. -/
theorem length_flatMap_fields {α : Type} {f : α → List Byte} {n : Nat} (size : ∀ x, (f x).length = n) (l : List α) :
    (l.flatMap f).length = n * l.length := by
  induction l with
  | nil => rfl
  | cons x l ih => rw [List.flatMap_cons, List.length_append, size, ih, List.length_cons, Nat.mul_succ, Nat.add_comm]

theorem PlaySlot.length_statusBytes (x : PlaySlot) : x.statusBytes.length = 4 := by simp [PlaySlot.statusBytes]

theorem TakeSlot.length_statusBytes (x : TakeSlot) : x.statusBytes.length = 6 := by cases x <;> simp [TakeSlot.statusBytes]

namespace State

variable (s : State)

theorem length_statusPosition : s.statusPosition.length = 17 := by simp [State.statusPosition]

theorem length_statusConfiguration : s.statusConfiguration.length = 6 := by
  unfold State.statusConfiguration
  split <;> simp

theorem length_statusRing : s.statusRing.length = 8 := by simp [State.statusRing]

theorem length_statusPlay : s.statusPlay.length = 20 := by
  unfold State.statusPlay
  rw [List.length_append, length_flatMap_fields PlaySlot.length_statusBytes, Vector.length_toList]
  split <;> simp

theorem length_statusTake : s.statusTake.length = 29 := by
  simp [State.statusTake, length_flatMap_fields TakeSlot.length_statusBytes]

theorem length_statusTouch : s.statusTouch.length = 9 := by simp [State.statusTouch]

/-- 11.7: the two counts stand behind the first 10 of LINK's bytes. -/
theorem drop_statusLink_counts :
    s.statusLink.drop 10 = bytesOf 2 s.link.overruns.toNat ++ bytesOf 2 s.link.formats.toNat := by
  unfold State.statusLink
  rw [List.append_assoc]
  refine List.drop_left' ?_
  simp only [List.length_append, length_bytesOf, List.length_singleton]
  split <;> simp

theorem length_statusLink : s.statusLink.length = 14 := by
  unfold State.statusLink
  simp only [List.length_append, length_bytesOf, List.length_singleton]
  split <;> simp

theorem length_statusRecord : s.statusRecord.length = 103 := by
  simp [State.statusRecord, length_statusPosition, length_statusConfiguration, length_statusRing, length_statusPlay,
    length_statusTake, length_statusTouch, length_statusLink]

/-- 11.7: RING's fields are bytes 24 to 31 of the record. -/
theorem drop_statusRecord_ring : s.statusRecord.drop 23 =
    s.statusRing ++ (s.statusPlay ++ s.statusTake ++ s.statusTouch ++ s.statusLink) := by
  have before : (s.statusPosition ++ s.statusConfiguration).length = 23 := by
    rw [List.length_append, length_statusPosition, length_statusConfiguration]
  simp only [State.statusRecord, List.append_assoc]
  rw [← List.append_assoc s.statusPosition]
  exact List.drop_left' before

/-- 11.7: LINK's fields are the last 14 bytes of the record. -/
theorem drop_statusRecord_link : s.statusRecord.drop 89 = s.statusLink := by
  refine List.drop_left' ?_
  simp [length_statusPosition, length_statusConfiguration, length_statusRing, length_statusPlay, length_statusTake,
    length_statusTouch]

/-- R175: what a STATUS leaves in READY. -/
theorem exec_status {s : State} (ready : s.ready) (tail : Nat) : exec (.status tail) s =
    .next (State.taken 0 tail (.done 0x12 s.statusRecord) s.clearReported) :=
  congrArg Host.Outcome.next (State.command_of_ready ready _ _ _)

end State

/-! ## The attention causes (R178) -/

/-- The event flags in the order of their numbers (R176). -/
def Flag.all : List Flag :=
  [.refLost, .clockLost, .jump, .roll, .stop, .reverse, .framing, .ringBreak, .relock, .rosterChange, .badFrame,
   .planMismatch, .claimRefused, .claimUnanswered, .driveLost, .pageLate, .pageMissing, .pageRejected, .takeOverrun,
   .takeTruncated, .passFull, .linkOverrun]

theorem Flag.number_all : ∀ i : Fin 22, (Flag.all[i.val]'i.isLt).number = i.val := by decide

theorem Flag.number_lt (f : Flag) : f.number < 22 := by cases f <;> decide

/-- R176, R178: a set of flags that a mask leaves open is empty exactly where every flag of it is masked. -/
theorem unmasked_iff (flags mask : FlagSet) : (flags &&& ~~~mask != 0) = true ↔
    ∃ f : Flag, flags.getLsbD f.number = true ∧ mask.getLsbD f.number = false := by
  have open_bit : ∀ f : Flag, (flags &&& ~~~mask).getLsbD f.number = true ↔
      flags.getLsbD f.number = true ∧ mask.getLsbD f.number = false := fun f => by
    simp [f.number_lt]
  rw [bne_iff_ne]
  constructor
  · intro some_bit
    by_contra none
    refine some_bit (BitVec.eq_of_getLsbD_eq fun i lt => ?_)
    have bit := (open_bit (Flag.all[i]'lt)).not.mpr fun h => none ⟨_, h⟩
    rw [Flag.number_all ⟨i, lt⟩] at bit
    simpa using bit
  · rintro ⟨f, set⟩ zero
    have bit := (open_bit f).mpr set
    rw [zero] at bit
    simp at bit

theorem Take.anyClosed_iff (t : Take) : t.anyClosed = true ↔ ∃ (i : Fin 4) (p : TakePage), t.slots[i] = .closed p := by
  unfold Take.anyClosed
  rw [List.any_eq_true]
  constructor
  · rintro ⟨x, mem, closed⟩
    obtain ⟨i, lt, rfl⟩ := List.mem_iff_getElem.mp mem
    split at closed
    · next p e => exact ⟨⟨i, by simpa using lt⟩, p, by simpa using e⟩
    · cases closed
  · rintro ⟨i, p, e⟩
    exact ⟨t.slots[i], by simp, by rw [e]⟩

theorem Touch.anyDrive_iff (t : Touch) : t.anyDrive = true ↔ ∃ f : Fin 32, t.drives[f].isSome = true := by
  unfold Touch.anyDrive
  rw [List.any_eq_true]
  constructor
  · rintro ⟨x, mem, some⟩
    obtain ⟨i, lt, rfl⟩ := List.mem_iff_getElem.mp mem
    exact ⟨⟨i, by simpa using lt⟩, by simpa using some⟩
  · rintro ⟨f, some⟩
    exact ⟨t.drives[f], by simp, some⟩

/-- R178: LATN outside a hardware reset. -/
theorem State.latn_iff {s : State} (live : s.resetLow = false) : s.latn = true ↔
    (∃ f : Flag, s.flag f = true ∧ s.link.mask.getLsbD f.number = false) ∨
      (s.desk.ev.join.isSome ∨ s.desk.ev.abort.isSome) ∨
      (∃ (i : Fin 4) (p : TakePage), s.desk.take.slots[i] = .closed p) ∨ s.desk.take.queue ≠ [] ∨
      s.play.wanted.isSome ∨ (∃ f : Fin 32, s.desk.touch.drives[f].isSome) := by
  have any : s.latn = s.causes.any id := by
    unfold State.latn
    rw [live]
    rfl
  have flags := unmasked_iff s.desk.ev.flags s.link.mask
  rw [any]
  simp only [State.causes, List.any_cons, List.any_nil, id, Bool.or_eq_true, flags, Take.anyClosed_iff, Touch.anyDrive_iff,
    Bool.not_eq_true', List.isEmpty_eq_false_iff, Bool.false_eq_true, or_false]
  rfl

/-- 11.7: the bits of a number put together from the lowest. -/
theorem testBit_foldr_bits (l : List Bool) (i : Nat) :
    (l.foldr (fun c a => bit c 0 + 2 * a) 0).testBit i = l.getD i false := by
  have low : ∀ (c : Bool) (a : Nat), (bit c 0 + 2 * a) % 2 = c.toNat ∧ (bit c 0 + 2 * a) / 2 = a := by
    intro c a
    have value : bit c 0 = c.toNat := by cases c <;> rfl
    have small := c.toNat_lt
    omega
  induction l generalizing i with
  | nil => simp
  | cons c l ih =>
    rw [List.foldr_cons]
    obtain ⟨lowest, higher⟩ := low c (l.foldr (fun c a => bit c 0 + 2 * a) 0)
    cases i with
    | zero => rw [Nat.testBit_zero, lowest]; cases c <;> rfl
    | succ i => rw [Nat.testBit_succ, higher, ih]; rfl

/-- 11.7: the cause byte is byte 96 of the record. -/
theorem State.causeByte_statusRecord (s : State) : (s.statusRecord.drop 95).take 1 = bytesOf 1 s.causeByte := by
  have place : s.statusRecord.drop 95 = (s.statusRecord.drop 89).drop 6 := by rw [List.drop_drop]
  have before : (bytesOf 3 s.desk.ev.flags.toNat ++ bytesOf 3 s.link.mask.toNat).length = 6 := by simp
  rw [place, s.drop_statusRecord_link]
  unfold State.statusLink
  simp only [List.append_assoc]
  rw [← List.append_assoc (bytesOf 3 _), List.drop_left' before, List.take_left' (length_bytesOf 1 _)]

end Sys2Proof.Machine

open Sys2Proof Sys2Proof.Machine

/-- Settles O10: what STATUS clears by the state it leaves, the record's fields by the lengths of those before them. -/
theorem statusReportsThenClears : Obligations.StatusReportsThenClears := by
  refine ⟨fun tail s ready => ?_, fun s => ⟨s.length_statusRecord, ?_, ?_, ?_, ?_⟩⟩
  · refine ⟨_, State.exec_status ready tail, rfl, rfl, rfl, fun f => ?_, rfl⟩
    exact Vector.getElem_map _ f.isLt
  · simp only [State.statusRecord, State.statusPosition, List.append_assoc]
    rw [← List.append_assoc]
    exact List.take_left' (by simp)
  · rw [s.drop_statusRecord_ring]
    unfold State.statusRing
    rw [List.append_assoc, List.append_assoc]
    exact List.take_left' (by simp)
  · rw [s.drop_statusRecord_link]
    simp only [State.statusLink, List.append_assoc]
    rw [← List.append_assoc]
    exact List.take_left' (by simp)
  · rw [← s.drop_statusLink_counts, ← s.drop_statusRecord_link, List.drop_drop]

/-- Settles O11: the causes one by one, the record by the place of its cause byte. -/
theorem latnCauses : Obligations.LatnCauses :=
  ⟨fun _ live => State.latn_iff live, fun _ low => State.latn_of_reset low, State.causeByte_statusRecord,
    fun s i => testBit_foldr_bits s.causes i.val⟩
end

section
/-!
Event flags (R176): no row but STATUS, RESTART and the hardware reset clears one. The phases of a sample event and the commands
of the blocks keep `Desk.FlagFrame`; POS raises flags of its own and clears none.
-/

set_option Elab.async false

namespace Sys2Proof.Machine

namespace Desk

open FlagFrame (of_ev andThen)

/-! ## The commands of STRIP, TOUCH and AUTO -/

theorem flags_resoloAll (e : Env) (d : Desk) : FlagFrame d (d.resoloAll e) := by
  refine andThen (b := d.resolo e) ?_ (flags_regate e _)
  unfold Desk.resolo
  dsimp only
  generalize d.soloBits e = bits
  split <;> exact of_ev

theorem flags_holdTarget (e : Env) (k : Option TouchTarget) (d : Desk) : FlagFrame d (d.holdTarget e k) := by
  unfold Desk.holdTarget
  split
  · exact flags_changeTarget e _ _ d
  · exact of_ev

theorem flags_dropTarget (e : Env) (k : Option TouchTarget) (d : Desk) : FlagFrame d (d.dropTarget e k) := by
  unfold Desk.dropTarget
  split
  · exact flags_changeTarget e _ _ d
  · exact of_ev

theorem flags_disableLine (e : Env) (f : Fin 32) (d : Desk) : FlagFrame d (d.disableLine e f) := by
  unfold Desk.disableLine
  dsimp only
  split
  · exact andThen (b := d.setLine f _) of_ev (flags_dropTarget e _ _)
  · exact of_ev

theorem flags_setLineSettings (e : Env) (f : Fin 32) (enable activeLow : Bool) (i : Fin 5) (d : Desk) :
    FlagFrame d (d.setLineSettings e f enable activeLow i) := by
  unfold Desk.setLineSettings
  dsimp only
  split
  · exact andThen (flags_disableLine e f d) of_ev
  · exact of_ev

theorem flags_ungovern (e : Env) (k : Option TouchTarget) (d : Desk) : FlagFrame d (d.ungovern e k) := by
  unfold Desk.ungovern
  split
  · split
    · exact of_ev
    · exact flags_changeTarget e _ _ d
  · exact of_ev

/-- R89: a held fader lets go of its old target and takes hold of the new one. -/
theorem flags_remap (e : Env) (f : Fin 32) (m : FaderTarget) (d : Desk) : FlagFrame d (d.remap e f m) := by
  have moved : ∀ d : Desk, FlagFrame d { d with touch := { d.touch with map := d.touch.map.set f m } } := fun _ => of_ev
  unfold Desk.remap
  dsimp only
  split
  · exact andThen (andThen (andThen (andThen (flags_dropTarget e _ d) (flags_ungovern e _ _)) (moved _))
      (flags_holdTarget e _ _)) of_ev
  · exact andThen (andThen (flags_ungovern e _ d) (moved _)) of_ev

theorem flags_indicate (e : Env) (k : TouchTarget) (i : Indication) (d : Desk) : FlagFrame d (d.indicate e k i) := by
  unfold Desk.indicate
  split
  · exact of_ev
  all_goals
    split
    · exact of_ev
    · exact flags_changeTarget e k _ d

/-- R90, R99, R108: a surface value reaches a control, a home or a requester. -/
theorem flags_surfaceValue (e : Env) (k : SurfaceName) (v : Value) (d : Desk) : FlagFrame d (d.surfaceValue e k v) := by
  have home : ∀ (b : Fin 24) (x : Home) (c : Fin 176) (w : Value), FlagFrame d ((d.setHome b x).setSurface e c w) :=
    fun b x c w => andThen (b := d.setHome b x) of_ev (frame_setSurface e c w _).flags
  unfold Desk.surfaceValue
  split
  · exact (frame_setSurface e _ v d).flags
  · unfold Desk.homeSurfaceLevel Desk.reqSurfaceLevel
    dsimp only
    repeat' split
    · exact home _ _ _ _
    all_goals exact of_ev
  · unfold Desk.homeSurfaceMute Desk.reqSurfaceMute
    dsimp only
    repeat' split
    · exact home _ _ _ _
    all_goals exact of_ev

theorem flags_setControlSettings (e : Env) (c : Fin 176) (m : Mode) (safe : Bool) (glide : BitVec 6) (d : Desk) :
    FlagFrame d (d.setControlSettings e c m safe glide) := by
  have closed : FlagFrame d (d.closedFor e c m safe) := by
    unfold Desk.closedFor
    split
    · exact (frame_closePass e .mode c d).flags
    · exact of_ev
  rw [setControlSettings_eq]
  exact andThen (andThen (c := Desk.setControl c _ _) closed of_ev) (frame_decideApplied e c _).flags

/-- R136: the completion record of an abort is no flag. -/
theorem flags_abortNow (e : Env) (d : Desk) : FlagFrame d (d.abortNow e) := by
  have closed := (frame_closeAll e .abort { d with ev := { d.ev with abort := none } }).flags
  unfold Desk.abortNow
  dsimp only
  generalize Desk.closeAll e .abort _ = u at closed ⊢
  split
  · exact andThen (andThen (b := { d with ev := { d.ev with abort := none } }) of_ev closed) of_ev
  · exact andThen (b := { d with ev := { d.ev with abort := none } }) of_ev closed

theorem flags_leave (e : Env) (locking : Bool) (d : Desk) : FlagFrame d (d.leave e locking) := by
  obtain ⟨a, b, c, ha, hb, hc, whole⟩ := d.leave_parts e locking
  have told : FlagFrame d a := by
    rw [ha]
    split <;> exact of_ev
  have closed : FlagFrame a b := hb ▸ (frame_closeAll e .left a).flags
  have home : ∀ (x : Fin 24) (d : Desk), FlagFrame d (d.leaveHome e x) := by
    intro x d
    unfold Desk.leaveHome
    split
    · exact of_ev
    · exact andThen (flags_setDriver x none d) (flags_releaseBoth e false x _)
  have homes : FlagFrame b c := hc ▸ FlagFrame.each _ _ home b
  have reqs := FlagFrame.each e.requestedBuses Desk.leaveReq (fun _ _ => of_ev) c
  rw [whole]
  exact andThen (andThen (andThen told closed) homes) (andThen reqs of_ev)

end Desk

/-! ## The whole state -/

/-- R176: an event flag that is set in the earlier state is set in the later one. -/
def State.FlagsStay (s t : State) : Prop := ∀ f, s.flag f = true → t.flag f = true

namespace State

namespace FlagsStay

/-- The flags are as they were. -/
theorem same {s t : State} (flags : t.desk.ev.flags = s.desk.ev.flags := by rfl) : FlagsStay s t := fun f set => by
  unfold State.flag Desk.flag
  rw [flags]
  exact set

theorem andThen {a b c : State} (h : FlagsStay a b) (k : FlagsStay b c) : FlagsStay a c := fun f set => k f (h f set)

/-- Desks that keep `Desk.FlagFrame`. -/
theorem of_desk {s t : State} (h : s.desk.FlagFrame t.desk) : FlagsStay s t := h.stay

theorem raise (f : Flag) (s : State) : FlagsStay s (s.raise f) := fun g set =>
  (Desk.flag_raise f g s.desk).trans (Bool.or_eq_true_iff.mpr (.inl set))

end FlagsStay

open FlagsStay (same andThen of_desk)

/-! ### POS and sample events -/

/-- R11, R133: a transport event raises its flag and closes passes. -/
theorem stay_takePosEvent (v : PosEvent) (s : State) : s.FlagsStay (s.takePosEvent v) := by
  refine andThen (.raise v.flag s) (of_desk ?_)
  rw [desk_takePosEvent]
  exact (Desk.frame_takeEvent s.env v (s.desk.raise v.flag)).flags

theorem stay_posPhase (edge : Option FrameNo) (s : State) : s.FlagsStay (s.posPhase edge) := by
  have events : ∀ (l : List PosEvent) (u : State), u.FlagsStay (l.foldl (fun (u : State) v => u.takePosEvent v) u) := by
    intro l
    induction l with
    | nil => exact fun _ => same
    | cons v l ih => exact fun u => andThen (stay_takePosEvent v u) (ih _)
  have events := andThen (a := s) same (events (s.posOut edge).events { s with pos := (s.posOut edge).pos })
  rcases made : (s.posOut edge).made with _ | k
  · rw [posPhase_of_no_tick made]
    exact events
  · rw [posPhase_of_tick made]
    exact andThen events (of_desk (flags_takeTick k _))

theorem stay_sampled (p : Period) (s : State) : s.FlagsStay (s.sampled p) := by
  unfold State.sampled
  split
  · obtain ⟨u, before, behind, _⟩ := sample_around_pos Desk.reached_queueGrows p s
    exact andThen (of_desk before.flags) (andThen (stay_posPhase _ u) (of_desk behind.flags))
  · exact same

theorem stay_part {comes : Bool} {act : State → State} {s : State} (h : s.FlagsStay (act s)) :
    s.FlagsStay (s.part comes act) := by
  unfold State.part
  split
  · exact h
  · exact same

/-! ### LINK and the word clock -/

theorem stay_transfer (n : Nat) (s : State) : s.FlagsStay (s.transfer n) := by
  rw [transfer_frame]
  exact same

theorem stay_overrun (n : Nat) (s : State) : s.FlagsStay (s.overrun n) := by
  rw [(overrun_frame n s).2]
  exact .raise .linkOverrun s

theorem stay_emptyTransfer (n : Nat) (s : State) : s.FlagsStay (s.emptyTransfer n) := by
  unfold State.emptyTransfer
  split
  · exact same
  · exact stay_transfer n s

theorem stay_formReply (s : State) : s.FlagsStay s.formReply := by
  unfold State.formReply
  split
  · exact same
  · split <;> exact same

/-- R170, R171, R180: a transfer that carries a message does what its command does, or is an overrun, or is ignored. -/
theorem stay_message {n : Nat} {body : State → Answered} {s : State} (h : s.FlagsStay (body s).state) :
    s.FlagsStay (s.message n body) := by
  unfold State.message
  split
  · exact same
  · split
    · exact h
    · exact stay_overrun n s

theorem stay_command {n tail : Nat} {body : State → Answered} {s : State} (h : s.FlagsStay (body s).state) :
    s.FlagsStay (s.command n tail body) := stay_message h

theorem stay_configured {k : Byte} {body : Conf → State → Answered} {s : State} (h : ∀ c, s.FlagsStay (body c s).state) :
    s.FlagsStay (s.configured k body).state := by
  unfold State.configured
  split
  · exact h _
  · exact same

theorem stay_reject (ldi : List Bool) (s : State) : s.FlagsStay (s.reject ldi) := by
  unfold State.reject
  split
  · exact same
  · split
    · exact stay_message same
    · exact same

theorem stay_discard (ldi : List Bool) (s : State) : s.FlagsStay (s.discard ldi) := by
  unfold State.discard
  split
  · exact same
  · split
    · exact stay_overrun _ s
    · exact same

/-- R2, R133: the loss of the word clock raises CLOCK_LOST and closes passes. -/
theorem stay_loseClock (s : State) : s.FlagsStay s.loseClock := by
  have raised : s.FlagsStay (State.raise .clockLost { s with clock := false, pos := s.pos.unlock, emitted := none }) :=
    andThen (b := { s with clock := false, pos := s.pos.unlock, emitted := none }) same (.raise .clockLost _)
  refine andThen raised (of_desk ?_)
  unfold State.loseClock
  dsimp only
  rw [onDesk_desk]
  exact (Desk.frame_takeEvent _ .clockLost _).flags

/-! ### The commands -/

theorem stay_configure (payload : List Byte) (s : State) : s.FlagsStay (s.configure payload).state := by
  unfold State.configure
  repeat' split
  all_goals exact same

theorem stay_mapFader (fader form target : Byte) (s : State) : s.FlagsStay (s.mapFader fader form target).state := by
  unfold State.mapFader
  split
  · split
    · exact same
    · exact of_desk (Desk.flags_remap _ _ _ _)
  · exact same

theorem stay_surface (form target : Byte) (value : BitVec 16) (indication : Byte) (s : State) :
    s.FlagsStay (s.surface form target value indication).state := by
  unfold State.surface
  split
  · split
    · exact of_desk ((Desk.flags_surfaceValue _ _ _ _).andThen (Desk.flags_indicate _ _ _ _))
    · exact same
  · exact same

theorem stay_countStray (s : State) : s.FlagsStay s.countStray := by
  unfold State.countStray
  split
  · exact same
  · dsimp only
    split
    · exact FlagsStay.raise .pageMissing { s with play := _ }
    · exact same

theorem stay_takePage (p : PlayPage) (s : State) : s.FlagsStay (s.takePage p) := by
  unfold State.takePage
  dsimp only
  split
  · split
    · exact of_desk (Desk.frame_catchUp _ _ _).flags
    · exact same
  · exact same

theorem stay_deliverEffect (r : Delivery) (s : State) : s.FlagsStay (s.deliverEffect r) := by
  cases r
  case taken p => exact stay_takePage p s
  case stray => exact stay_countStray s
  all_goals exact andThen (.raise .pageRejected s) (stay_countStray _)

end State

/-! ## Every row -/

/-- R176: every row but STATUS, RESTART and the two of RESET keeps the flags that are set. -/
theorem exec_keeps_flags {i : Instr} (reports : ∀ n, i ≠ .status n ∧ i ≠ .restart n) (fall : i ≠ .hardwareReset)
    (rise : ∀ x r, i ≠ .resetRise x r) (s : State) : ∃ t, exec i s = .next t ∧ s.FlagsStay t := by
  have command : ∀ {n tail : Nat} {k : Byte} {body : Conf → State → Answered}, (∀ c, s.FlagsStay (body c s).state) →
      s.FlagsStay (s.command n tail (State.configured k body)) :=
    fun h => State.stay_command (State.stay_configured h)
  have desk : ∀ {t : State}, s.desk.FlagFrame t.desk → s.FlagsStay t := .of_desk
  cases i with
  | status n => exact absurd rfl (reports n).1
  | restart n => exact absurd rfl (reports n).2
  | hardwareReset => exact absurd rfl fall
  | resetRise x r => exact absurd rfl (rise x r)
  | configure payload tail =>
    refine ⟨_, rfl, State.stay_command ?_⟩
    split
    · exact s.stay_configure payload
    · exact .same
  | join => exact ⟨_, rfl, command fun _ => by unfold State.join; split <;> exact .same⟩
  | leave => exact ⟨_, rfl, command fun _ => desk (Desk.flags_leave _ _ _)⟩
  | route =>
    refine ⟨_, rfl, command fun _ => ?_⟩
    unfold State.route
    split
    · exact .same
    · exact desk (.andThen (b := s.desk.setStrip _ _) .of_ev (Desk.flags_resoloAll s.env _))
  | solo =>
    refine ⟨_, rfl, command fun _ => ?_⟩
    unfold State.solo
    split
    · exact .same
    · exact desk (.andThen (b := s.desk.setStrip _ _) .of_ev (Desk.flags_resoloAll s.env _))
  | touchset =>
    refine ⟨_, rfl, command fun _ => ?_⟩
    unfold State.touchset
    split
    · exact desk (Desk.flags_setLineSettings _ _ _ _ _ _)
    · exact .same
  | map => exact ⟨_, rfl, command fun _ => s.stay_mapFader _ _ _⟩
  | surface => exact ⟨_, rfl, command fun _ => s.stay_surface _ _ _ _⟩
  | control =>
    refine ⟨_, rfl, command fun _ => ?_⟩
    unfold State.controlCommand
    split
    · exact .same
    · exact desk (Desk.flags_setControlSettings _ _ _ _ _ _)
  | window => exact ⟨_, rfl, command fun _ => by unfold State.window; split <;> exact .same⟩
  | abortNow => exact ⟨_, rfl, command fun _ => desk (Desk.flags_abortNow _ _)⟩
  | abortAtPageEnd => exact ⟨_, rfl, command fun _ => by unfold State.abortAtPageEnd; split <;> exact .same⟩
  | span => exact ⟨_, rfl, command fun _ => by unfold State.setSpan; split <;> exact .same⟩
  | deliver payload tail =>
    refine ⟨_, rfl, State.stay_command ?_⟩
    split
    · exact State.stay_configured fun _ => s.stay_deliverEffect _
    · exact .same
  | drives | take | passes | mask => exact ⟨_, rfl, State.stay_command .same⟩
  | format ldi => exact ⟨_, rfl, s.stay_reject ldi⟩
  | poll n | replyRead n => exact ⟨_, rfl, s.stay_emptyTransfer n⟩
  | replyFormed => exact ⟨_, rfl, s.stay_formReply⟩
  | linkOverrun ldi => exact ⟨_, rfl, s.stay_discard ldi⟩
  | clockLost =>
    refine ⟨_, rfl, ?_⟩
    split
    · exact .same
    · split
      · exact s.stay_loseClock
      · exact .same
  | clockReturn => exact ⟨_, rfl, .same⟩
  | sampleEvent | frameEdge | frameArrival | badFrame | silentSample | tapFrame => exact ⟨_, rfl, s.stay_sampled _⟩
  | flywheel | tick | abortFired | glideEnd => exact ⟨_, rfl, State.stay_part (s.stay_posPhase _)⟩
  | rampEnd r => exact ⟨_, rfl, State.stay_part (.same (by cases r <;> rfl))⟩
  | settleEnd | settleRiseEnd => exact ⟨_, rfl, State.stay_part .same⟩
  | touchQualified | releaseQualified => exact ⟨_, rfl, State.stay_part (desk (Desk.flags_lineStep _ _ _ _))⟩
  | ringBreak | tagAdoption | relock | relockComplete | lockPhaseEnd | listenPhaseEnd | firstIn =>
    exact ⟨_, rfl, State.stay_part (desk (State.flags_ringPhase _ _ s.advanceInstant))⟩
  | noticeDeadline x => exact ⟨_, rfl, State.stay_part (desk (State.flags_expireFlight x s.advanceInstant))⟩
  | holdingsTimer => exact ⟨_, rfl, State.stay_part (desk (Desk.flags_timerStep _ _))⟩
  | holdingsExpiry => exact ⟨_, rfl, State.stay_part (desk (Desk.flags_ageOf _ _ _))⟩
  | leaseExpiry => exact ⟨_, rfl, State.stay_part (desk (Desk.flags_leaseStep _ _ _))⟩
  | keepalive => exact ⟨_, rfl, State.stay_part (desk (Desk.flags_keepaliveStep _ _))⟩

end Sys2Proof.Machine

open Sys2Proof Sys2Proof.Machine

/-- Settles O12: row by row (`exec_keeps_flags`). -/
theorem flagsStaySet : Obligations.FlagsStaySet := by
  intro c f s t reports fall rise run set
  obtain ⟨u, next, stay⟩ := exec_keeps_flags reports fall rise s
  cases next.symm.trans run
  exact stay f set
end

section
/-!
What RESTART leaves (R179): the desk at its reset values but for what it keeps, and the entries it queues.
-/

set_option Elab.async false

namespace Sys2Proof.Machine

namespace Desk

/-! ## The entries that a HOLDINGS brings with it (R55, R98) -/

/-- R98: the ECHO of a homed bus with its applied values as they stand. -/
def echoEntry (b : Fin 24) (d : Desk) : Waiting :=
  { slot := .echo b, kind := .echo,
    payload := levelPayload (d.control (masterId b)).applied ((d.control (masterMuteId b)).applied.getLsbD 0) }

theorem waiting?_queueEcho (a b : Fin 24) (d : Desk) : (d.queueEcho a).note.waiting? (.echo b) =
    if b = a then some (d.echoEntry b) else d.note.waiting? (.echo b) := by
  unfold Desk.queueEcho
  rw [note_queue]
  split
  · next same =>
    subst same
    exact Note.waiting?_queue_self _ _ _ _
  · next other => exact Note.waiting?_queue_of_ne (by simpa using other) _ _ _

/-- R98: each of the buses has its ECHO queued, and no other bus. -/
theorem waiting?_each_queueEcho (b : Fin 24) (l : List (Fin 24)) (d : Desk) :
    (d.each l queueEcho).note.waiting? (.echo b) = if b ∈ l then some (d.echoEntry b) else d.note.waiting? (.echo b) := by
  induction l generalizing d with
  | nil => rfl
  | cons a l ih =>
    have step : d.each (a :: l) queueEcho = (d.queueEcho a).each l queueEcho := rfl
    have same : (d.queueEcho a).echoEntry b = d.echoEntry b := rfl
    rw [step, ih, same, waiting?_queueEcho]
    by_cases here : b = a <;> by_cases later : b ∈ l <;> simp [here, later]

theorem waiting?_queueHoldings_echo (e : Env) (b : Fin 24) (d : Desk) : (d.queueHoldings e).note.waiting? (.echo b) =
    if e.homesBus b then some (d.echoEntry b) else d.note.waiting? (.echo b) := by
  have before : (d.note.queue .holdings .holdings 0).waiting? (.echo b) = d.note.waiting? (.echo b) :=
    Note.waiting?_queue_of_ne (x := .holdings) (y := .echo b) nofun _ _ _
  have homed : b ∈ e.homedBuses ↔ e.homesBus b = true := by simp [Env.homedBuses, allBuses]
  refine (waiting?_each_queueEcho b e.homedBuses
    { d with note := { d.note.queue .holdings .holdings 0 with timer := 0 } }).trans ?_
  rw [if_congr homed rfl rfl]
  exact congrArg _ before

theorem waiting?_queueHoldings_of_ne {y : Slot} (holdings : y ≠ .holdings) (echo : ∀ b, y ≠ .echo b)
    (e : Env) (d : Desk) :
    (d.queueHoldings e).note.waiting? y = d.note.waiting? y := by
  have echoes := AutoFrame.each e.homedBuses queueEcho frame_queueEcho
    { d with note := { d.note.queue .holdings .holdings 0 with timer := 0 } }
  exact (echoes.waiting y echo).trans (Note.waiting?_queue_of_ne holdings _ _ _)

/-! ## The desk (R63, R81, R93, R112, R139, R168) -/

/-- The desk before RESTART queues anything: reset values, but for the heard-holdings ages and the settle factor. -/
def restarted (d : Desk) : Desk :=
  { note := { Note.reset with ages := d.note.ages }, strip := StripBlock.reset,
    home := { HomeBlock.reset with rise := d.home.rise }, touch := Touch.reset, auto := Auto.reset, take := Take.reset,
    ev := Events.reset }

theorem restart_of_inserted (e : Env) (d : Desk) :
    d.restart e true = (d.restarted.restartSolo d.strip.ownBits).queueHoldings e := rfl

theorem restart_of_not_inserted (e : Env) (d : Desk) : d.restart e false = d.restarted.restartSolo d.strip.ownBits := rfl

/-- R81: the SOLO queued, if any, is all that waits, and nothing but NOTE's pending list has moved. -/
theorem restartSolo_eq (own : SoloBits) (d : Desk) : ∃ l, d.restarted.restartSolo own =
    { d.restarted with note := { d.restarted.note with pending := l } } := by
  unfold Desk.restartSolo
  split <;> exact ⟨_, rfl⟩

theorem waiting?_restartSolo (own : SoloBits) (y : Slot) (d : Desk) : (d.restarted.restartSolo own).note.waiting? y =
    if own ≠ 0 ∧ y = .solo then some { slot := .solo, kind := .solo, payload := 0 } else none := by
  unfold Desk.restartSolo
  split
  · next silent => exact (if_neg fun h => h.1 silent).symm
  · next some =>
    rw [note_queue]
    by_cases solo : y = .solo
    · rw [if_pos ⟨some, solo⟩, solo]
      exact Note.waiting?_queue_self _ _ _ _
    · rw [if_neg fun h => solo h.2]
      exact Note.waiting?_queue_of_ne solo _ _ _

/-- R179: nothing but NOTE has moved from the reset values. -/
theorem restart_eq (e : Env) (inserted : Bool) (d : Desk) : ∃ n, d.restart e inserted = { d.restarted with note := n } := by
  obtain ⟨l, solo⟩ := d.restartSolo_eq d.strip.ownBits
  cases inserted
  · exact ⟨_, solo⟩
  · obtain ⟨n, holdings⟩ := queueHoldings_eq e (d.restarted.restartSolo d.strip.ownBits)
    exact ⟨n, by rw [restart_of_inserted, holdings, solo]⟩

theorem blocks_restart (e : Env) (inserted : Bool) (d : Desk) : (d.restart e inserted).strip = StripBlock.reset ∧
    (d.restart e inserted).touch = Touch.reset ∧ (d.restart e inserted).auto = Auto.reset ∧
    (d.restart e inserted).take = Take.reset ∧
    (d.restart e inserted).home = { HomeBlock.reset with rise := d.home.rise } ∧
    (d.restart e inserted).ev = Events.reset := by
  obtain ⟨n, whole⟩ := d.restart_eq e inserted
  rw [whole]
  exact ⟨rfl, rfl, rfl, rfl, rfl, rfl⟩

/-- R63: nothing is in flight, the ages are kept, and the holdings timer starts again. -/
theorem note_restart (e : Env) (inserted : Bool) (d : Desk) : (d.restart e inserted).note.flight = [] ∧
    (d.restart e inserted).note.ages = d.note.ages ∧ (d.restart e inserted).note.timer = 0 := by
  obtain ⟨l, solo⟩ := d.restartSolo_eq d.strip.ownBits
  cases inserted
  · rw [restart_of_not_inserted, solo]
    exact ⟨rfl, rfl, rfl⟩
  · rw [restart_of_inserted, solo]
    generalize whole : { d.restarted with note := { d.restarted.note with pending := l } } = u
    have echoes := AutoFrame.each e.homedBuses queueEcho frame_queueEcho
      { u with note := { u.note.queue .holdings .holdings 0 with timer := 0 } }
    obtain ⟨timer, _⟩ := u.queueHoldings_note e
    refine ⟨echoes.flight.trans ((Note.queue_flight _ _ _ _).trans ?_), echoes.ages.trans ((Note.queue_ages _ _ _ _).trans ?_),
      timer⟩
    all_goals rw [← whole]; rfl

/-- R81, R179: the SOLO, and no CLAIM, RELEASE, DRIVE or ROSTER. -/
theorem waiting?_restart_of_ne {y : Slot} (holdings : y ≠ .holdings) (echo : ∀ b, y ≠ .echo b) (e : Env) (inserted : Bool)
    (d : Desk) : (d.restart e inserted).note.waiting? y =
      if d.strip.ownBits ≠ 0 ∧ y = .solo then some { slot := .solo, kind := .solo, payload := 0 } else none := by
  rw [← waiting?_restartSolo]
  cases inserted
  · rfl
  · exact waiting?_queueHoldings_of_ne holdings echo e _

theorem waiting?_restart_holdings (e : Env) (inserted : Bool) (d : Desk) :
    ((d.restart e inserted).note.waiting? .holdings).map (·.kind) = if inserted then some .holdings else none := by
  cases inserted
  · rw [restart_of_not_inserted, waiting?_restartSolo, if_neg fun h => by cases h.2]
    rfl
  · obtain ⟨_, waits⟩ := (d.restarted.restartSolo d.strip.ownBits).queueHoldings_note e
    rw [restart_of_inserted, waits]
    rfl

/-- R112, R139: the ECHO of a bus at the reset master values. -/
theorem echoEntry_of_reset {d : Desk} (auto : d.auto = Auto.reset) (b : Fin 24) :
    d.echoEntry b = { slot := .echo b, kind := .echo, payload := 927 } := by
  have same : ∀ c, d.control c = State.reset.desk.control c := fun c => by unfold Desk.control; rw [auto]; rfl
  have master : (d.control (masterId b)).applied = 927 := by
    rw [same, control_reset, if_pos ⟨Nat.le_add_right 128 _, by simp [masterId]⟩]
    rfl
  have mute : (d.control (masterMuteId b)).applied = 0 := by
    rw [same, control_reset, if_neg fun h => by simp [masterMuteId] at h]
    rfl
  unfold echoEntry
  rw [master, mute]
  rfl

theorem waiting?_restart_echo (e : Env) (inserted : Bool) (b : Fin 24) (d : Desk) :
    (d.restart e inserted).note.waiting? (.echo b) =
      if inserted && e.homesBus b then some { slot := .echo b, kind := .echo, payload := 927 } else none := by
  have none : (d.restarted.restartSolo d.strip.ownBits).note.waiting? (.echo b) = none := by
    rw [waiting?_restartSolo, if_neg fun h => by cases h.2]
  cases inserted
  · exact none
  · obtain ⟨l, solo⟩ := d.restartSolo_eq d.strip.ownBits
    have entry := echoEntry_of_reset (d := d.restarted.restartSolo d.strip.ownBits) (by rw [solo]; rfl) b
    rw [restart_of_inserted, waiting?_queueHoldings_echo, none, entry, Bool.true_and]

end Desk

/-- R179: what a RESTART comes to in READY. -/
theorem State.exec_restart {s : State} (ready : s.ready) (tail : Nat) :
    exec (.restart tail) s = .next (State.taken 0 tail (.done 0x14 []) s.restart) :=
  congrArg Host.Outcome.next (State.command_of_ready ready _ _ _)

end Sys2Proof.Machine

open Sys2Proof Sys2Proof.Machine

/-- Settles O13: the blocks by `Desk.blocks_restart`, the pending list slot by slot. -/
theorem restartResult : Obligations.RestartResult := by
  intro tail s ready
  obtain ⟨strip, touch, auto, take, home, ev⟩ := s.desk.blocks_restart s.env s.ring.state.onRing
  obtain ⟨flight, ages, timer⟩ := s.desk.note_restart s.env s.ring.state.onRing
  have others := fun (y : Slot) (h : y ≠ .holdings) (k : ∀ b, y ≠ .echo b) =>
    Desk.waiting?_restart_of_ne h k s.env s.ring.state.onRing s.desk
  have absent := fun (y : Slot) (h : y ≠ .holdings) (k : ∀ b, y ≠ .echo b) (solo : y ≠ .solo) =>
    (others y h k).trans (if_neg fun c => solo c.2)
  refine ⟨_, State.exec_restart ready tail, rfl, rfl, strip, touch, auto, take, home, flight, ages, timer,
    Desk.wf_restart _ _ _, (others .solo nofun nofun).trans ?_, Desk.waiting?_restart_holdings _ _ _,
    absent .roster nofun nofun nofun, fun b => ⟨absent (.claim b) nofun nofun nofun, absent (.drive b) nofun nofun nofun,
      Desk.waiting?_restart_echo _ _ b _⟩,
    ev, rfl, rfl⟩
  by_cases silent : s.desk.strip.ownBits = 0 <;> simp [silent]
end

section
/-! # The check word (R182)

A register whose top bit is clear is only shifted, so a byte that stands alone in the low half of the register is moved to
the high half. Feeding a register its own high byte clears that half and leaves the low byte to be moved up; feeding it the
low byte then clears the rest. -/

set_option Elab.async false

namespace Sys2Proof.Machine

/-! ## Bits through the polynomial -/

theorem crcBit_of_lt {crc : BitVec 16} (h : crc.toNat < 2 ^ 15) : crcBit crc = crc <<< 1 := by
  have clear : crc.msb = false := BitVec.msb_eq_false_iff_two_mul_lt.2 (by omega)
  simp [crcBit, clear]

/-- No bit that leaves the register is set: the polynomial is never fed in. -/
theorem repeat_crcBit_of_lt {crc : BitVec 16} (n : Nat) (h : crc.toNat * 2 ^ n < 2 ^ 16) :
    Nat.repeat crcBit n crc = crc <<< n := by
  induction n with
  | zero => exact (BitVec.shiftLeft_zero _).symm
  | succ n ih =>
    have half : crc.toNat * 2 ^ n < 2 ^ 15 := by rw [Nat.pow_succ, ← Nat.mul_assoc] at h; omega
    have shifted : (crc <<< n).toNat = crc.toNat * 2 ^ n := by
      rw [BitVec.toNat_shiftLeft, Nat.shiftLeft_eq, Nat.mod_eq_of_lt (by omega)]
    rw [Nat.repeat, ih (by omega), crcBit_of_lt (by rwa [shifted]), BitVec.shiftLeft_add]

/-! ## Bytes -/

/-- The high byte of the register clears the register's high half, and the low byte is moved there. -/
theorem crcByte_high (hi lo : Byte) : crcByte (hi ++ lo) hi = lo.setWidth 16 <<< 8 := by
  have cleared : (hi ++ lo) ^^^ (hi.setWidth 16 <<< 8) = lo.setWidth 16 := by
    apply BitVec.eq_of_getLsbD_eq
    intro i inside
    rw [BitVec.getLsbD_xor, BitVec.getLsbD_append, BitVec.getLsbD_shiftLeft, BitVec.getLsbD_setWidth,
      BitVec.getLsbD_setWidth]
    by_cases low : i < 8
    · simp [low, inside]
    · have clear : lo.getLsbD i = false := BitVec.getLsbD_of_ge lo i (by omega)
      have above : i - 8 < 16 := by omega
      simp [low, inside, clear, above]
  have small : (lo.setWidth 16).toNat * 2 ^ 8 < 2 ^ 16 := by
    rw [BitVec.toNat_setWidth]
    omega
  rw [crcByte, cleared, repeat_crcBit_of_lt 8 small]

/-- A byte that stands alone in the high half is cleared by itself. -/
theorem crcByte_shifted_self (b : Byte) : crcByte (b.setWidth 16 <<< 8) b = 0 := by
  rw [crcByte, BitVec.xor_self]
  rfl

/-- The register as the bytes sent of it, most significant first. -/
theorem append_bytes (crc : BitVec 16) : BitVec.ofNat 8 (crc.toNat / 256) ++ BitVec.ofNat 8 crc.toNat = crc := by
  apply BitVec.eq_of_toNat_eq
  have bound := crc.isLt
  rw [BitVec.toNat_append, BitVec.toNat_ofNat, BitVec.toNat_ofNat, ← Nat.shiftLeft_add_eq_or_of_lt (Nat.mod_lt _ (by omega)),
    Nat.shiftLeft_eq]
  omega

/-- A register fed its own two bytes is cleared. -/
theorem foldl_crcByte_self (crc : BitVec 16) : (bytesOf 2 crc.toNat).foldl crcByte crc = 0 := by
  have high := crcByte_high (BitVec.ofNat 8 (crc.toNat / 256)) (BitVec.ofNat 8 crc.toNat)
  rw [append_bytes] at high
  rw [bytesOf_two, List.foldl_cons, List.foldl_cons, List.foldl_nil, high, crcByte_shifted_self]

end Sys2Proof.Machine

open Sys2Proof Sys2Proof.Machine

/-- Settles O5: the two values by running the check; a check fed after its bytes is a register fed its own two bytes. -/
theorem checkWord : Obligations.CheckWord := by
  refine ⟨by decide +kernel, rfl, fun bs => ?_⟩
  rw [crc16_append, foldl_crcByte_self]
end

section
/-!
The queue of commands (section 10.2): a step takes the command at the front, and no row adds to, takes from or reorders what
waits.
-/

set_option Elab.async false

namespace Sys2Proof.Machine

namespace State

/-! ## Sample events and their parts -/

theorem pending_of_outside {s t : State} (h : SameOutsideSample s t) : t.pending = s.pending := by
  obtain ⟨_, _, _, _, _, _, _, pending⟩ := h
  exact pending

theorem pending_sampled (p : Period) (s : State) : (s.sampled p).pending = s.pending := by
  unfold State.sampled
  split
  · exact pending_of_outside (outside_sample p s)
  · rfl

theorem pending_part {comes : Bool} {act : State → State} {s : State} (h : (act s).pending = s.pending) :
    (s.part comes act).pending = s.pending := by
  unfold State.part
  split
  · exact h
  · rfl

theorem pending_posAlone (edge : Option FrameNo) (s : State) : (s.posAlone edge).pending = s.pending :=
  pending_of_outside (outside_posAlone edge s)

theorem pending_ringAlone (b : Bool) (rx : Option WireFrame) (s : State) : (s.ringAlone b rx).pending = s.pending :=
  pending_of_outside (outside_ringPhase b rx s.advanceInstant)

theorem pending_expireFlight (x : Slot) (s : State) : (s.advanceInstant.expireFlight x).pending = s.pending :=
  pending_of_outside (outside_expireFlight x s.advanceInstant)

/-! ## LINK -/

theorem pending_transfer (n : Nat) (s : State) : (s.transfer n).pending = s.pending := by
  rw [transfer_frame]

theorem pending_overrun (n : Nat) (s : State) : (s.overrun n).pending = s.pending := by
  rw [(overrun_frame n s).2]

theorem pending_emptyTransfer (n : Nat) (s : State) : (s.emptyTransfer n).pending = s.pending := by
  unfold State.emptyTransfer
  split
  · rfl
  · exact pending_transfer n s

theorem pending_formReply (s : State) : s.formReply.pending = s.pending := by
  unfold State.formReply
  split
  · rfl
  · split <;> rfl

/-- R170, R171, R180: a transfer that carries a message does what its command does, or is an overrun, or is ignored. -/
theorem pending_message {n : Nat} {body : State → Answered} {s : State} (h : (body s).state.pending = s.pending) :
    (s.message n body).pending = s.pending := by
  unfold State.message
  split
  · rfl
  · split
    · exact h
    · exact pending_overrun n s

theorem pending_command {n tail : Nat} {body : State → Answered} {s : State} (h : (body s).state.pending = s.pending) :
    (s.command n tail body).pending = s.pending := pending_message h

theorem pending_configured {k : Byte} {body : Conf → State → Answered} {s : State}
    (h : ∀ c, (body c s).state.pending = s.pending) : (s.configured k body).state.pending = s.pending := by
  unfold State.configured
  split
  · exact h _
  · rfl

theorem pending_reject (ldi : List Bool) (s : State) : (s.reject ldi).pending = s.pending := by
  unfold State.reject
  split
  · rfl
  · split
    · exact pending_message rfl
    · rfl

theorem pending_discard (ldi : List Bool) (s : State) : (s.discard ldi).pending = s.pending := by
  unfold State.discard
  split
  · rfl
  · split
    · exact pending_overrun _ s
    · rfl

/-! ## The commands -/

theorem pending_configure (payload : List Byte) (s : State) : (s.configure payload).state.pending = s.pending := by
  unfold State.configure
  split
  · rfl
  · split
    · rfl
    · split <;> rfl

theorem pending_join (s : State) : s.join.state.pending = s.pending := by
  unfold State.join
  split <;> rfl

theorem pending_route (strip form bus offset bus1 offset1 bus2 offset2 : Byte) (s : State) :
    (s.route strip form bus offset bus1 offset1 bus2 offset2).state.pending = s.pending := by
  unfold State.route
  split <;> rfl

theorem pending_solo (strip flags : Byte) (s : State) : (s.solo strip flags).state.pending = s.pending := by
  unfold State.solo
  split <;> rfl

theorem pending_touchset (line flags interval : Byte) (s : State) :
    (s.touchset line flags interval).state.pending = s.pending := by
  unfold State.touchset
  split <;> rfl

theorem pending_mapFader (fader form target : Byte) (s : State) :
    (s.mapFader fader form target).state.pending = s.pending := by
  unfold State.mapFader
  split
  · split <;> rfl
  · rfl

theorem pending_surface (form target : Byte) (value : BitVec 16) (indication : Byte) (s : State) :
    (s.surface form target value indication).state.pending = s.pending := by
  unfold State.surface
  split
  · split <;> rfl
  · rfl

theorem pending_controlCommand (id mode safe glide : Byte) (s : State) :
    (s.controlCommand id mode safe glide).state.pending = s.pending := by
  unfold State.controlCommand
  split <;> rfl

theorem pending_window (form : Byte) (inTick outTick : BitVec 32) (s : State) :
    (s.window form inTick outTick).state.pending = s.pending := by
  unfold State.window
  split <;> rfl

theorem pending_abortAtPageEnd (s : State) : s.abortAtPageEnd.state.pending = s.pending := by
  unfold State.abortAtPageEnd
  split <;> rfl

theorem pending_setSpan (form : Byte) (first last : BitVec 24) (s : State) :
    (s.setSpan form first last).state.pending = s.pending := by
  unfold State.setSpan
  split <;> rfl

theorem pending_countStray (s : State) : s.countStray.pending = s.pending := by
  unfold State.countStray
  split
  · rfl
  · dsimp only
    split <;> rfl

theorem pending_takePage (p : PlayPage) (s : State) : (s.takePage p).pending = s.pending := by
  unfold State.takePage
  dsimp only
  split
  · split <;> rfl
  · rfl

theorem pending_deliverEffect (r : Delivery) (s : State) : (s.deliverEffect r).pending = s.pending := by
  cases r
  case taken p => exact pending_takePage p s
  case stray => exact pending_countStray s
  all_goals exact pending_countStray (s.raise .pageRejected)

end State

/-! ## Every row -/

/-- Every row answers a next state, with the queue as it was. -/
theorem exec_keeps_pending (i : Instr) (s : State) : ∃ t, exec i s = .next t ∧ t.pending = s.pending := by
  have command : ∀ {n tail : Nat} {k : Byte} {body : Conf → State → Answered},
      (∀ c, (body c s).state.pending = s.pending) → (s.command n tail (State.configured k body)).pending = s.pending :=
    fun h => State.pending_command (State.pending_configured h)
  cases i with
  | configure payload tail =>
    refine ⟨_, rfl, State.pending_command ?_⟩
    split
    · exact s.pending_configure payload
    · rfl
  | join => exact ⟨_, rfl, command fun _ => s.pending_join⟩
  | route => exact ⟨_, rfl, command fun _ => s.pending_route _ _ _ _ _ _ _ _⟩
  | solo => exact ⟨_, rfl, command fun _ => s.pending_solo _ _⟩
  | touchset => exact ⟨_, rfl, command fun _ => s.pending_touchset _ _ _⟩
  | map => exact ⟨_, rfl, command fun _ => s.pending_mapFader _ _ _⟩
  | surface => exact ⟨_, rfl, command fun _ => s.pending_surface _ _ _ _⟩
  | control => exact ⟨_, rfl, command fun _ => s.pending_controlCommand _ _ _ _⟩
  | window => exact ⟨_, rfl, command fun _ => s.pending_window _ _ _⟩
  | abortAtPageEnd => exact ⟨_, rfl, command fun _ => s.pending_abortAtPageEnd⟩
  | span => exact ⟨_, rfl, command fun _ => s.pending_setSpan _ _ _⟩
  | leave | abortNow => exact ⟨_, rfl, command fun _ => rfl⟩
  | deliver payload tail =>
    refine ⟨_, rfl, State.pending_command ?_⟩
    split
    · exact State.pending_configured fun _ => s.pending_deliverEffect _
    · rfl
  | drives | take | passes | status | mask | restart => exact ⟨_, rfl, State.pending_command rfl⟩
  | format ldi => exact ⟨_, rfl, s.pending_reject ldi⟩
  | poll n | replyRead n => exact ⟨_, rfl, s.pending_emptyTransfer n⟩
  | replyFormed => exact ⟨_, rfl, s.pending_formReply⟩
  | linkOverrun ldi => exact ⟨_, rfl, s.pending_discard ldi⟩
  | hardwareReset | clockReturn => exact ⟨_, rfl, rfl⟩
  | resetRise => exact ⟨_, rfl, by split <;> rfl⟩
  | clockLost =>
    refine ⟨_, rfl, ?_⟩
    split
    · rfl
    · split <;> rfl
  | sampleEvent | frameEdge | frameArrival | badFrame | silentSample | tapFrame => exact ⟨_, rfl, s.pending_sampled _⟩
  | flywheel | tick | abortFired | glideEnd => exact ⟨_, rfl, State.pending_part (s.pending_posAlone _)⟩
  | ringBreak | tagAdoption | relock | relockComplete | lockPhaseEnd | listenPhaseEnd | firstIn =>
    exact ⟨_, rfl, State.pending_part (s.pending_ringAlone _ _)⟩
  | noticeDeadline x => exact ⟨_, rfl, State.pending_part (s.pending_expireFlight x)⟩
  | rampEnd | settleEnd | settleRiseEnd | touchQualified | releaseQualified | holdingsTimer | holdingsExpiry | leaseExpiry
  | keepalive => exact ⟨_, rfl, State.pending_part rfl⟩

/-! ## A step -/

theorem step_of_cons {c : Instr} {rest : List Instr} {s : State} (front : s.pending = c :: rest) :
    step s = exec c { s with pending := rest } := by
  unfold step
  rw [front]

/-- With an empty queue the block idles (log 5). -/
theorem step_of_nil {s : State} (empty : s.pending = []) : step s = .next s := by
  unfold step
  rw [empty]

end Sys2Proof.Machine

open Sys2Proof Sys2Proof.Machine

/-- Settles O1: the front of a queue that is not empty. -/
theorem stepRunsFrontCommand : Obligations.StepRunsFrontCommand := fun _ _ _ => step_of_cons

/-- Settles O2: every row keeps the queue, and an empty queue changes nothing. -/
theorem queueOfCommands : Obligations.QueueOfCommands := ⟨exec_keeps_pending, fun _ => step_of_nil⟩
end
